-- ==== Sys2Proof/Word.lean ====
section
/-!
DEFINITION. Word types of the Itius 1620 and the sparse map that holds its memories and register files.
-/
namespace Sys2Proof

/-- A device register or a hewer word: 20 bits (R7, R308). -/
abbrev Word := BitVec 20

/-- A byte of DRAM or host memory. -/
abbrev Byte := BitVec 8

/-- A sparse map: (key, value) pairs, keys strictly rising, no value equal to the default of its key.
The operations that keep this form stand in Machine/Ops.lean. -/
abbrev SMap (α : Type) := List (Nat × α)

end Sys2Proof
end

