-- ==== Sys2Proof/Syntax.lean ====
section
/-!
DEFINITION. The commands of the block: one constructor of `Instr` for each row of the opcode table, with the
row's operands, and the operand types.
-/
namespace Sys2Proof

/-- Who makes a fabric access (R16, R334, R490). -/
inductive Agent where
  | host
  | foreman
  | hewer (b h : Fin 8)
deriving DecidableEq, Repr

/-- A hewer core: a bench hewer or the foreman (R262, R285). -/
inductive Core where
  | hewer (b h : Fin 8)
  | foreman
deriving DecidableEq, Repr

/-- The slots of R292, in slot-code order. -/
inductive Slot where
  | al0 | al1 | mu0 | mu1 | ls0 | ls1 | br
deriving DecidableEq, Repr

/-- The fields of a slot syllable besides STOP and the operation (R291): the slot, the I and A bits of the
opcode (R302, R303; for `ld` and `st` the A bit names the A-register form of R304), the register fields and MOD. -/
structure Syl where
  slot : Slot
  im : Bool := false
  ad : Bool := false
  dst : BitVec 5 := 0
  sa : BitVec 5 := 0
  sb : BitVec 5 := 0
  md : BitVec 13 := 0
deriving DecidableEq, Repr

/-- The wake sources of R411. -/
inductive WakeSrc where
  | uart (u : Fin 2)
  | encoder (e : Fin 4)
  | sync
  | gpio (pin : Fin 8)
deriving DecidableEq, Repr

/-- A word that a slave treats as an error (R75, R79): its bits as received, and whether it had a Manchester or framing
error; without one its type is a reserved one. -/
structure BadWord where
  w : BitVec 16
  err : Bool
deriving DecidableEq, Repr

/-- The two link errors of R107 that mark open slabs. -/
inductive LinkErrKind where
  | header | sotSync
deriving DecidableEq, Repr

/-- Where an I2C transaction was cut off (R118): write bytes acknowledged, and the bytes received where its read had
begun. -/
structure I2cCut where
  acked : Nat
  rx : Option (List Byte) := none
deriving DecidableEq, Repr

/-- How an I2C transaction ended (R117, R118): `ok` with the bytes read, a NACK after `acked` acknowledged
bytes, or a bus error. -/
inductive I2cEnd where
  | ok (rx : List Byte)
  | nack (acked : Nat)
  | busErr (c : I2cCut)
deriving DecidableEq, Repr

/-- A transaction that a target's clock stretching ends on port `port` (R118). -/
structure PortCut where
  port : Fin 16
  cut : I2cCut
deriving DecidableEq, Repr

/-- The header of a packet that reaches a port: its virtual channel, and whether an error in it was corrected (R107). -/
structure PktHdr where
  vc : BitVec 4
  cor : Bool := false
deriving DecidableEq, Repr

/-- A Frame Start (R110): its header, and the TIME of the TRIG rise of the first line of the slab that the head begins
with it, where the head answers a trigger (R111). (DESIGN CHOICE, log 172) -/
structure FsHdr extends PktHdr where
  rise : Option (BitVec 64) := none
deriving DecidableEq, Repr

/-- A lane of a port: data lane 0 to 3, or the clock lane (R105). -/
structure PortLane where
  port : Fin 16
  lane : Option (Fin 4)
deriving DecidableEq, Repr

/-- Units of a number on the command line (R355). -/
inductive QUnit where
  | none | ns | us | ms | s | mbps | gbps | um | mm | m | deg | pct
deriving DecidableEq, Repr

/-- A number on the command line: `m / 10^e` in its unit (R351, R355). -/
structure Qty where
  m : Int
  e : Nat := 0
  u : QUnit := .none
deriving DecidableEq, Repr

/-- A symbology by its identifier 1 to 11 (R223); 0 names none. -/
abbrev SymId := Fin 12

/-- The candidate classes (R177): LINEAR, GRID and DOT. -/
inductive CandClass where
  | linear | grid | dot
deriving DecidableEq, Repr

/-- A polarity or mirror setting of a 2D symbology (R240). -/
inductive Tri where
  | first | second | auto
deriving DecidableEq, Repr

/-- A point of a patch, in 2^-8 pixels from the centre of its first pixel. -/
structure Pt where
  x : Int
  y : Int
deriving DecidableEq, Repr

/-- The grid that a 2D decoder fitted (R227): its columns and rows, the centres of its modules or dot positions row by row
in the symbol's own orientation, and the mean widths in 2^-8 pixels, along x and along y, of the modules that print growth
is measured on (R247). -/
structure Fit2d where
  cols : Nat
  rows : Nat
  centres : List Pt
  wideU : Nat
  wideV : Nat
deriving DecidableEq, Repr

/-- What the firmware finds on a scan row (R227, R228), in 1/16 pixel: where its quiet zones end outwards, and the edges
of the elements from the left. -/
structure ScanRow where
  lo : Nat
  hi : Nat
  edges : List Nat
deriving DecidableEq, Repr

/-- What a 1D decoder finds: by scan row its edges, the narrow-element width and the bar height in 2^-8 pixels, and whether
the symbol reads from right to left. -/
structure Fit1d where
  rows : List (Option ScanRow)
  narrow : Nat
  height : Nat
  rev : Bool
deriving DecidableEq, Repr

/-- How far an attempt's image processing comes (R227): no finder, a finder without a grid, a grid, or scan rows. -/
inductive Found where
  | nothing
  | finder
  | grid (g : Fit2d)
  | rows (r : Fit1d)
deriving DecidableEq, Repr

/-- What the image processing of one symbology attempt finds on the patch (R227, R228): the manual states what follows from
it and not how it is found. `ages` are the times from each deadline check of R237 to the ticket's completion, in the
order of the checks: before the attempt, after each ECC job, before grading; one that is not given is 0. -/
structure Attempt where
  sym : SymId
  light : Bool
  mirror : Bool
  found : Found
  ages : List Nat
deriving DecidableEq, Repr

/-- The classes of Spoil report (R423). -/
inductive SpoilClass where
  | dramUe | fabric | parity | hang | flashRead | flashWrite | calMeas | otp | bootImage | encGlitch
  | encIndex | syncLock | pwrOc | pwrDrain | undervolt | thermal | thermalSd | clkRef
deriving DecidableEq, Repr

/-- The outcome field of a Spoil entry (R432). -/
inductive SpoilOutcome where
  | pending | transient | lasting | logged
deriving DecidableEq, Repr

/-- The table kinds of a Face (R142, R146). -/
inductive TblKind where
  | black | flat | defect | tone
deriving DecidableEq, Repr

/-- The releasable units of R376. -/
inductive OwnUnit where
  | aon
  | port (p : Fin 16)
  | seq (q : Fin 4)
  | face (f : Fin 4)
  | seam (s : Fin 4)
  | rk
deriving DecidableEq, Repr

/-- Where `ADDRESS`-valued settings of `trg` take the origin from (R83). -/
inductive Origin where
  | here
  | at (p : Qty)
deriving DecidableEq, Repr

/-- The action of a GPIO event (R80). -/
inductive GpioAct where
  | set | clear
  | pulse (w : Qty)
deriving DecidableEq, Repr

/-- The SYNC role given by `trg sync` (R83). -/
inductive SyncRoleCmd where
  | master (slaves : Qty)
  | slave (n : Qty)
  | off
deriving DecidableEq, Repr

/-- A light state of `seq step` and `seq fixed`, of the settings given (R99, R352): the channels that fire. -/
structure LightSet where
  chans : Option (List (Fin 8)) := none
  int : Option Qty := none
  plane : Option Qty := none
  exp : Option Qty := none
deriving DecidableEq, Repr

/-- Data types of `port img` (R121). -/
inductive ImgDt where
  | raw8 | raw10 | raw12 | raw14 | raw16 | rgb888
  | user (n : Fin 8)
deriving DecidableEq, Repr

/-- Data types of `port emb` (R121). -/
inductive EmbDt where
  | emb8
  | user (n : Fin 8)
deriving DecidableEq, Repr

/-- The counter offset setting of `port align` (R121). -/
inductive CntOffset where
  | offset (n : Qty)
  | learn
deriving DecidableEq, Repr

/-- What fills a table: a flash record or a generated content (R147). -/
inductive TblFill where
  | record (name : String)
  | zero
  | gain (g : Qty)
  | linear
  | gamma (g : Qty)
deriving DecidableEq, Repr

/-- A method of `face defect add` (R127, R147). -/
inductive DefMethod where
  | mean | left | right
deriving DecidableEq, Repr

/-- Bypass stages of R140, in bit order. -/
inductive Stage where
  | black | static | dynamic | flat | wb | matrix | tone
deriving DecidableEq, Repr

/-- The plane setting of `seam s c` (R190). -/
inductive SeamPlanes where
  | single (p : Qty)
  | max (a b : Qty)
  | min (a b : Qty)
deriving DecidableEq, Repr

/-- The parameters a trend monitor may name (R245, R248, R249). -/
inductive GradeParam where
  | overall | dec | sc | mod | rm | fpd | an | gn | uec | rmin | ecmin | defects | decodability
deriving DecidableEq, Repr

/-- The ten channels of the command line (R348): 0 UART1, 1 UART0, 2 + k console channel k. -/
abbrev Chan := Fin 10

/-- The kinds of host stream (R479). -/
inductive StreamKind where
  | mv | disp | code
deriving DecidableEq, Repr

/-- The commands: one constructor for each row of spec/opcode_table.json, in the table's order. -/
inductive Instr where
  -- registers (R8, R10, R490)
  | registerWrite (ag : Agent) (addr : Nat) (v : BitVec 32)
  | rcFieldRead (ag : Agent) (addr : Nat)
  | latchingRead (ag : Agent) (addr : Nat)
  -- supplies, states, clocks (R26 to R34, R399 to R418)
  | standbyInputValid
  | standbyInputLost
  | mainInputValid
  | mainInputUndervoltage (mv : BitVec 16)
  | resetBallAsserted
  | resetRelease
  | runEntry
  | temperatureSample (i : Fin 8) (v : BitVec 12)
  | throttleRelease
  | currentLimitTrip (pd : Fin 8) (ma : BitVec 16)
  | wakeEvent (src : WakeSrc)
  | standbyDrainEnd
  | standbyDrainTimeout
  | standbyEntryComplete
  | refLoss
  | refRestore (lost : BitVec 20)
  -- PCI Express (R469 to R475)
  | pcieLinkUp (width speed : Nat)
  | linkDown
  | perstAssert
  | busMasterDisable (d3 : Bool)
  | hostWriteResume
  | configRequest (wr : Bool) (reg : Nat) (be : BitVec 4) (v : BitVec 32)
  | bar0Request (wr : Bool) (off : Nat) (len : Nat) (be : BitVec 4) (v : BitVec 32)
  | bar2Request (wr : Bool) (off : Nat) (data : List Byte) (ue : Bool)
  -- encoders and triggers (R52 to R73)
  | encCandidateEdge (e : Fin 4) (a b : Option Bool) (bLevel : Bool)
  | speedWindowClose (e : Fin 4) (bLevel : Bool)
  | standstill (e : Fin 4)
  | indexEdge (e : Fin 4) (rise : Bool)
  | encPreset (ag : Agent) (e : Fin 4)
  | scheduleEnable (ag : Agent) (c : Fin 4)
  | scheduleDisable (ag : Agent) (c : Fin 4)
  | headTriggerEnable (ag : Agent) (h : Fin 16)
  | headTriggerDisable (ag : Agent) (h : Fin 16)
  -- SYNC (R74 to R79)
  | syncLock (ag : Agent)
  | syncLoopReturn (w : BitVec 16) (err : Bool)
  | syncLoopTimeout
  | syncIdleTimer
  | syncRestateTimer
  | syncLatencyReceived (hop : BitVec 13)
  | syncStateReceived (cnt k : BitVec 48) (tm : BitVec 64) (since : Nat)
  | syncTickReceived (step : BitVec 6) (k7 : BitVec 7)
  | syncIdleReceived
  | syncWordError (bad : BadWord)
  | syncSilence
  -- GPIO (R80, R81)
  | gpioEvPush (ag : Agent)
  | gpioEvFlush (ag : Agent)
  | gpioPulseEnd (pin : Fin 8)
  -- sequencers (R84 to R98)
  | exposureEnd (h : Fin 16)
  | seqEnable (ag : Agent) (q : Fin 4)
  | seqDisable (ag : Agent) (q : Fin 4)
  | seqBankWrite (ag : Agent) (q : Fin 4) (bank : Bool)
  | seqChanWrite (ag : Agent) (q : Fin 4) (chan : Fin 4)
  -- camera ports (R100 to R118)
  | frameStart (p : Fin 16) (hdr : FsHdr)
  | embeddedLine (p : Fin 16) (vc : BitVec 4) (dt : BitVec 6) (bytes : List Byte) (crcBad eccCor : Bool)
  | imageLine (p : Fin 16) (vc : BitVec 4) (dt : BitVec 6) (bytes : List Byte) (crcBad eccCor : Bool)
  | frameEnd (p : Fin 16) (hdr : PktHdr)
  | frameEndWatchdog (p : Fin 16) (st : Fin 2)
  | frameStartWatchdog (p : Fin 16) (st : Fin 2)
  | linkError (p : Fin 16) (k : LinkErrKind)
  | packetUnmatched (p : Fin 16) (hdr : PktHdr) (dt : BitVec 6)
  | skewCalibration (p : Fin 16)
  | ulpsEntry (l : PortLane)
  | ulpsExit (l : PortLane)
  | portEnable (ag : Agent) (p : Fin 16)
  | portDisable (ag : Agent) (p : Fin 16)
  | portLearn (ag : Agent) (p : Fin 16)
  | i2cGo (ag : Agent) (p : Fin 16) (v : Word)
  | i2cDone (p : Fin 16) (r : I2cEnd)
  | i2cStretchTimeout (c : PortCut)
  | i2cRecover (ag : Agent) (p : Fin 16)
  -- Faces (R122 to R168)
  | lineBoundary (f : Fin 4) (late ue : Bool)
  | faceLineOut (f : Fin 4)
  | streamLineWrite
  | contextEnable (ag : Agent) (f c : Fin 4)
  | contextDisable (ag : Agent) (f c : Fin 4)
  | tblSelWrite (ag : Agent) (f : Fin 4) (v : Word)
  | tblDataAccess (ag : Agent) (f : Fin 4) (wr : Option Word)
  -- Seams, stockpile, Riddle (R169 to R220)
  | seamEnable (ag : Agent) (s : Fin 4)
  | seamDisable (ag : Agent) (s : Fin 4)
  | stockEnable (ag : Agent) (h : Fin 16) (p : Fin 4)
  | candidateArrival
  | joinTimeout (entry : BitVec 12)
  | dispatch
  | kerfCutDone (k : Fin 8)
  | deadlineExpiry (entry : BitVec 12)
  | riddleDoneWrite (ag : Agent) (entry : BitVec 12) (result : BitVec 2)
  | resultRelease (entry : BitVec 12)
  | ashlarPost
  | geometryCommit (ag : Agent)
  | heldCommitApply
  | benchesWrite (ag : Agent) (v : BitVec 8)
  -- decoding, ticket queue, ECC (R223 to R236, R271 to R274)
  | decodeTicket (b h : Fin 8) (att : List Attempt)
  | tqTake (ag : Agent) (b : Fin 8)
  | tqFree (ag : Agent) (b : Fin 8) (v : Word)
  | eccClaim (ag : Agent) (b : Fin 8)
  | eccRelease (ag : Agent) (b : Fin 8)
  | eccGo (ag : Agent) (b : Fin 8)
  | eccJobDone (b : Fin 8)
  -- DMA, completion port, hewer control (R275 to R286)
  | dmaGo (ag : Agent) (b : Fin 8) (c : Fin 9)
  | dmaDone (b : Fin 8) (c : Fin 9) (ue : Option Nat)
  | cmpGo (ag : Agent) (b h : Fin 8) (v : Word)
  | cmpCopyDone (b h : Fin 8)
  | hewerRun (ag : Agent) (b h : Fin 8)
  | hewerStop (ag : Agent) (b h : Fin 8)
  | hewerHalt (c : Core)
  | hewerReset (ag : Agent) (b h : Fin 8)
  | clrstk (ag : Agent) (b h : Fin 8)
  | maDataAccess (ag : Agent) (b : Fin 8) (wr : Option Word)
  | maDatahWrite (ag : Agent) (b : Fin 8) (v : Word)
  | swRead
  | swWrite
  | swRequestDone
  -- Tsumante operations (R302 to R331)
  | alNop (c : Core) (y : Syl) (ext : Option Word) (stop : Bool)
  | mov (c : Core) (y : Syl) (ext : Option Word) (stop : Bool)
  | add (c : Core) (y : Syl) (ext : Option Word) (stop : Bool)
  | sub (c : Core) (y : Syl) (ext : Option Word) (stop : Bool)
  | neg (c : Core) (y : Syl) (ext : Option Word) (stop : Bool)
  | abs (c : Core) (y : Syl) (ext : Option Word) (stop : Bool)
  | addc (c : Core) (y : Syl) (ext : Option Word) (stop : Bool)
  | subc (c : Core) (y : Syl) (ext : Option Word) (stop : Bool)
  | and (c : Core) (y : Syl) (ext : Option Word) (stop : Bool)
  | or (c : Core) (y : Syl) (ext : Option Word) (stop : Bool)
  | xor (c : Core) (y : Syl) (ext : Option Word) (stop : Bool)
  | andn (c : Core) (y : Syl) (ext : Option Word) (stop : Bool)
  | not (c : Core) (y : Syl) (ext : Option Word) (stop : Bool)
  | cmp (c : Core) (y : Syl) (ext : Option Word) (stop : Bool)
  | tst (c : Core) (y : Syl) (ext : Option Word) (stop : Bool)
  | min (c : Core) (y : Syl) (ext : Option Word) (stop : Bool)
  | max (c : Core) (y : Syl) (ext : Option Word) (stop : Bool)
  | minu (c : Core) (y : Syl) (ext : Option Word) (stop : Bool)
  | maxu (c : Core) (y : Syl) (ext : Option Word) (stop : Bool)
  | shl (c : Core) (y : Syl) (ext : Option Word) (stop : Bool)
  | shr (c : Core) (y : Syl) (ext : Option Word) (stop : Bool)
  | sar (c : Core) (y : Syl) (ext : Option Word) (stop : Bool)
  | rol (c : Core) (y : Syl) (ext : Option Word) (stop : Bool)
  | clz (c : Core) (y : Syl) (ext : Option Word) (stop : Bool)
  | crcs (c : Core) (y : Syl) (ext : Option Word) (stop : Bool)
  | par (c : Core) (y : Syl) (ext : Option Word) (stop : Bool)
  | brev (c : Core) (y : Syl) (ext : Option Word) (stop : Bool)
  | dadd (c : Core) (y : Syl) (ext : Option Word) (stop : Bool)
  | dadc (c : Core) (y : Syl) (ext : Option Word) (stop : Bool)
  | dsub (c : Core) (y : Syl) (ext : Option Word) (stop : Bool)
  | dsbc (c : Core) (y : Syl) (ext : Option Word) (stop : Bool)
  | dsl (c : Core) (y : Syl) (ext : Option Word) (stop : Bool)
  | dsr (c : Core) (y : Syl) (ext : Option Word) (stop : Bool)
  | d2b (c : Core) (y : Syl) (ext : Option Word) (stop : Bool)
  | b2d (c : Core) (y : Syl) (ext : Option Word) (stop : Bool)
  | muNop (c : Core) (y : Syl) (ext : Option Word) (stop : Bool)
  | mul (c : Core) (y : Syl) (ext : Option Word) (stop : Bool)
  | mulu (c : Core) (y : Syl) (ext : Option Word) (stop : Bool)
  | fmul (c : Core) (y : Syl) (ext : Option Word) (stop : Bool)
  | mpya (c : Core) (y : Syl) (ext : Option Word) (stop : Bool)
  | fmpya (c : Core) (y : Syl) (ext : Option Word) (stop : Bool)
  | mac (c : Core) (y : Syl) (ext : Option Word) (stop : Bool)
  | msu (c : Core) (y : Syl) (ext : Option Word) (stop : Bool)
  | fmac (c : Core) (y : Syl) (ext : Option Word) (stop : Bool)
  | fmsu (c : Core) (y : Syl) (ext : Option Word) (stop : Bool)
  | clra (c : Core) (y : Syl) (ext : Option Word) (stop : Bool)
  | movta (c : Core) (y : Syl) (ext : Option Word) (stop : Bool)
  | ext (c : Core) (y : Syl) (ext : Option Word) (stop : Bool)
  | divq (c : Core) (y : Syl) (ext : Option Word) (stop : Bool)
  | divr (c : Core) (y : Syl) (ext : Option Word) (stop : Bool)
  | fdiv (c : Core) (y : Syl) (ext : Option Word) (stop : Bool)
  | muCrcs (c : Core) (y : Syl) (ext : Option Word) (stop : Bool)
  | muPar (c : Core) (y : Syl) (ext : Option Word) (stop : Bool)
  | muBrev (c : Core) (y : Syl) (ext : Option Word) (stop : Bool)
  | lsNop (c : Core) (y : Syl) (ext : Option Word) (stop : Bool)
  | ld (c : Core) (y : Syl) (ext : Option Word) (stop : Bool)
  | st (c : Core) (y : Syl) (ext : Option Word) (stop : Bool)
  | brNop (c : Core) (y : Syl) (ext : Option Word) (stop : Bool)
  | b (c : Core) (y : Syl) (ext : Option Word) (stop : Bool)
  | call (c : Core) (y : Syl) (ext : Option Word) (stop : Bool)
  | jr (c : Core) (y : Syl) (ext : Option Word) (stop : Bool)
  | loop (c : Core) (y : Syl) (ext : Option Word) (stop : Bool)
  | loopi (c : Core) (y : Syl) (ext : Option Word) (stop : Bool)
  | halt (c : Core) (y : Syl) (ext : Option Word) (stop : Bool)
  | loopEnd (c : Core)
  | undefinedSyllable (c : Core) (slot : Option Slot) (stop : Bool)
  -- mailboxes and wedges (R333 to R346)
  | mbxTx (ag : Agent) (box : Fin 80) (far : Bool) (v : Word)
  | mbxTxl (ag : Agent) (box : Fin 80) (far : Bool) (v : Word)
  | mbxRx (ag : Agent) (box : Fin 80) (far : Bool)
  | wedgeClaim (ag : Agent) (box : Fin 80) (far : Bool) (als : Fin 32)
  | wedgeRelease (ag : Agent) (box : Fin 80) (far : Bool) (als : Fin 32) (v : Word)
  | mbxFlush (ag : Agent) (box : Fin 80)
  | mbxForce (ag : Agent) (box : Fin 80)
  | consolePoll
  -- serial ports (R383 to R397)
  | uartCharReceived (u : Fin 2) (samples : List Bool)
  | uartTxWrite (ag : Agent) (u : Fin 2) (v : Word)
  | uartRxRead (ag : Agent) (u : Fin 2)
  | uartCharSent (u : Fin 2)
  | uartDeTailEnd
  | uartServicePoll (u : Fin 2)
  -- Spoil log, recovery (R421 to R438)
  | spoilReport (cls : SpoilClass) (unit : BitVec 8) (out : SpoilOutcome) (detail : BitVec 80)
  | spoilHandle (retryOk : Bool)
  | benchRestartDone (b : Fin 8) (pass : Bool)
  | hangDetect (b h : Fin 8)
  | sysRecovGo (ag : Agent) (v : Word)
  -- host rings (R475 to R482)
  | mirrorEnable (ag : Agent)
  | resultRingEnable (ag : Agent) (en : Bool)
  | streamRingEnable (ag : Agent) (r : Fin 48) (en : Bool)
  | resConsWrite (ag : Agent) (v : Word)
  | payConsWrite (ag : Agent) (v : Word)
  | streamConsWrite (ag : Agent) (r : Fin 48) (v : Word)
  | commandLineReceived (ch : Chan)
  -- ENC and TRG commands (R83)
  | cmdEncMode (ch : Chan) (e : Fin 4) (updown : Option Bool) (edge : Option (Fin 3)) (invert : Option Bool)
  | cmdEncFilter (ch : Chan) (e : Fin 4) (minedge glitchlim : Option Qty)
  | cmdEncSpeed (ch : Chan) (e : Fin 4) (window standstill : Option Qty)
  | cmdEncIndex (ch : Chan) (e : Fin 4) (period tol : Option Qty) (snap fall : Option Bool)
  | cmdEncPreset (ch : Chan) (e : Fin 4) (counts : Qty)
  | cmdEncWake (ch : Chan) (e : Fin 4) (on : Bool)
  | cmdEncReport (ch : Chan) (e : Fin 4)
  | cmdTrgSchedule (ch : Chan) (c : Fin 4) (pitch : Option Qty) (origin : Option Origin) (rev : Option Bool)
  | cmdTrgScheduleOnOff (ch : Chan) (c : Fin 4) (on : Bool)
  | cmdTrgHead (ch : Chan) (h : Fin 16) (chan : Option (Fin 4)) (delay minint slab : Option Qty)
  | cmdTrgHeadOnOff (ch : Chan) (h : Fin 16) (on : Bool)
  | cmdTrgStopatslab (ch : Chan) (h : Fin 16)
  | cmdTrgEvent (ch : Chan) (pin : Fin 8) (c : Fin 4) (pos : Qty) (act : GpioAct) (lateFire : Bool)
  | cmdTrgEventFlush (ch : Chan)
  | cmdTrgSync (ch : Chan) (role : Option SyncRoleCmd) (chan : Option (Fin 4)) (lat : Option (Option Qty)) (restate : Option Bool)
  | cmdTrgSyncLock (ch : Chan)
  | cmdTrgSyncReport (ch : Chan)
  -- SEQ commands (R99)
  | cmdSeqChan (ch : Chan) (q : Fin 4) (e : Fin 4)
  | cmdSeqOnOff (ch : Chan) (q : Fin 4) (on : Bool)
  | cmdSeqStep (ch : Chan) (q : Fin 4) (s : Qty) (l : LightSet)
  | cmdSeqLen (ch : Chan) (q : Fin 4) (l : Qty)
  | cmdSeqCopy (ch : Chan) (q : Fin 4)
  | cmdSeqSwap (ch : Chan) (q : Fin 4) (at_ : Option Qty)
  | cmdSeqFixed (ch : Chan) (q : Fin 4) (l : LightSet)
  | cmdSeqTally (ch : Chan) (q : Fin 4) (h : Fin 16) (on : Bool)
  | cmdSeqReport (ch : Chan) (q : Fin 4)
  -- PORT commands (R121)
  | cmdPortLanes (ch : Chan) (p : Fin 16) (lanes : Option Qty) (rate : Option Qty)
  | cmdPortImg (ch : Chan) (p : Fin 16) (st : Fin 2) (vc : Option Qty) (dt : Option ImgDt) (width : Option Qty) (on : Option Bool)
  | cmdPortEmb (ch : Chan) (p : Fin 16) (vc : Option Qty) (dt : Option EmbDt) (on : Option Bool)
  | cmdPortAlign (ch : Chan) (p : Fin 16) (on : Option Bool) (counter : Option Qty) (lsb : Option Bool) (ofs : Option CntOffset)
  | cmdPortFillTmo (ch : Chan) (p : Fin 16) (fill tmoFs tmoFe : Option Qty)
  | cmdPortOnOff (ch : Chan) (p : Fin 16) (on : Bool)
  | cmdPortI2c (ch : Chan) (p : Fin 16) (addr : Qty) (write : List Qty) (read : Option Qty) (speed : Option (Fin 3)) (stretch : Option Qty)
  | cmdPortI2cRecover (ch : Chan) (p : Fin 16)
  | cmdPortReport (ch : Chan) (p : Fin 16)
  -- FACE correction commands (R147)
  | cmdFaceMode (ch : Chan) (f c : Fin 4) (mode : Option (Fin 3)) (planes : Option (List Qty)) (align : Option (Qty × Qty × Qty))
  | cmdFaceBlackOffset (ch : Chan) (f c p : Fin 4) (ofs : Qty)
  | cmdFaceBlackLoad (ch : Chan) (f c : Fin 4) (src : TblFill)
  | cmdFaceBlackSwap (ch : Chan) (f c : Fin 4)
  | cmdFaceDefectLoad (ch : Chan) (f : Fin 4) (src : TblFill)
  | cmdFaceDefectAdd (ch : Chan) (f c : Fin 4) (col : Qty) (m : DefMethod)
  | cmdFaceDefectSwap (ch : Chan) (f : Fin 4)
  | cmdFaceDynamic (ch : Chan) (f c : Fin 4) (on : Option Bool) (hi lo : Option Qty)
  | cmdFaceFlatLoad (ch : Chan) (f c p : Fin 4) (src : TblFill)
  | cmdFaceFlatSwap (ch : Chan) (f c : Fin 4)
  | cmdFaceWb (ch : Chan) (f c p : Fin 4) (r g b : Qty)
  | cmdFaceMatrix (ch : Chan) (f c : Fin 4) (m : List Qty)
  | cmdFaceToneLoad (ch : Chan) (f c : Fin 4) (chn : Fin 3) (src : TblFill)
  | cmdFaceToneSwap (ch : Chan) (f c : Fin 4)
  | cmdFaceBypass (ch : Chan) (f c : Fin 4) (st : List Stage)
  | cmdFaceReport (ch : Chan) (f : Fin 4)
  -- source and output commands (R168)
  | cmdFaceSource (ch : Chan) (f c : Fin 4) (p : Fin 16) (img1 inline : Bool) (slabs lines : Option Qty) (stock : Option Bool)
  | cmdFaceCtxOnOff (ch : Chan) (f c : Fin 4) (on : Bool)
  | cmdFaceMv (ch : Chan) (f c : Fin 4) (planes : Option (List Qty)) (bits16 : Option Bool)
  | cmdFaceDisp (ch : Chan) (f c : Fin 4) (plane : Option Qty) (scale : Option (Qty × Qty)) (overlay : Option Bool) (delay : Option Qty) (off : Bool)
  | cmdFaceCode (ch : Chan) (f c : Fin 4) (plane : Option Qty) (scale : Option (Qty × Qty)) (off : Bool)
  | cmdFaceOverlay (ch : Chan) (f : Fin 4) (cls : CandClass) (r g b : Qty)
  | cmdFaceCtxReport (ch : Chan) (f c : Fin 4)
  -- SEAM commands (R190)
  | cmdSeamCtrl (ch : Chan) (s : Fin 4) (on : Option Bool) (margin hmax : Option Qty)
  | cmdSeamSrc (ch : Chan) (s c : Fin 4) (pl : Option SeamPlanes) (on : Option Bool)
  | cmdSeamVote (ch : Chan) (s : Fin 4) (mag count mass : Option Qty)
  | cmdSeamDot (ch : Chan) (s : Fin 4) (con mn : Option Qty) (pol : Option (Fin 4))
  | cmdSeamLinear (ch : Chan) (s : Fin 4) (conc bal : Option Qty)
  | cmdSeamGrid (ch : Chan) (s : Fin 4) (conc orth : Option Qty)
  | cmdSeamTol (ch : Chan) (s : Fin 4) (tol : Option Qty) (mint : Option (Qty × Qty × Qty))
  | cmdSeamReport (ch : Chan) (s c : Fin 4)
  -- STOCK, RIDDLE and KERF commands (R222)
  | cmdStock (ch : Chan) (h : Fin 16) (p : Fin 4) (depth : Option Qty) (on : Option Bool)
  | cmdStockReport (ch : Chan) (h : Fin 16)
  | cmdRiddleOnOff (ch : Chan) (on : Bool)
  | cmdRiddleCommit (ch : Chan)
  | cmdRiddleHead (ch : Chan) (h : Fin 16) (geo : Option (Qty × Qty × Qty)) (right : Option (Option (Fin 16)))
  | cmdRiddleChan (ch : Chan) (e : Fin 4) (upc : Qty)
  | cmdRiddleCalibrate (ch : Chan) (heads : List (Fin 16)) (ref : Option (Fin 16))
  | cmdRiddleJoin (ch : Chan) (edge angle lead timeout : Option Qty)
  | cmdRiddleDup (ch : Chan) (dist angle : Option Qty) (window : Option (Option Qty))
  | cmdRiddleClass (ch : Chan) (cls : CandClass) (scale margin deadline : Option Qty) (bicubic : Option Bool) (benches : Option (List (Fin 8)))
  | cmdRiddleBenchArea (ch : Chan) (b : Fin 8) (area slots size : Option Qty)
  | cmdRiddleBenchOnOff (ch : Chan) (b : Fin 8) (on : Bool)
  | cmdKerf (ch : Chan) (k : Fin 8) (on : Option Bool) (fill : Option Qty)
  | cmdRiddleReport (ch : Chan)
  | cmdKerfReport (ch : Chan) (k : Fin 8)
  -- SYM commands (R241)
  | cmdSymEnable (ch : Chan) (sym : SymId) (on : Bool)
  | cmdSymOrder (ch : Chan) (cls : CandClass) (order : List SymId)
  | cmdSymPolarity (ch : Chan) (sym : SymId) (pol mirror : Option Tri)
  | cmdSymErase (ch : Chan) (sym : SymId) (conf mx : Option Qty)
  | cmdSymReserve (ch : Chan) (sym : SymId) (n : Qty)
  | cmdSymScans (ch : Chan) (sym : SymId) (scans agree qz : Option Qty)
  | cmdSymCode39 (ch : Chan) (check fullascii : Option Bool) (len : Option (Qty × Qty))
  | cmdSymI2of5 (ch : Chan) (check : Option Bool) (range : Option (Qty × Qty)) (lens : Option (List Qty))
  | cmdSymGs1 (ch : Chan) (on : Bool)
  | cmdSymReport (ch : Chan) (sym : Option SymId)
  -- grade and result commands (R261)
  | cmdGradeEnable (ch : Chan) (sym : Option SymId) (on : Bool)
  | cmdGradeAperture (ch : Chan) (pc : Qty)
  | cmdGradeRefl (ch : Chan) (h : Fin 16) (p : Fin 4) (y8 pc : Qty)
  | cmdGradeTrend (ch : Chan) (t : Fin 8) (off : Bool) (sym : Option (Option SymId)) (heads : Option (List (Fin 16))) (planes : Option (List (Fin 4))) (param : Option GradeParam) (window below above : Option Qty) (countNoread : Option Bool)
  | cmdGradeReport (ch : Chan)
  | cmdResultText (ch : Chan) (port : Option (Option (Fin 2))) (detail : Option Bool)
  | cmdResult (ch : Chan) (n : Option Qty)
  -- bench and hewer commands (R290)
  | cmdBenchLease (ch : Chan) (b : Fin 8)
  | cmdBenchReturn (ch : Chan) (b : Fin 8)
  | cmdBenchReport (ch : Chan) (b : Fin 8)
  | cmdHewerStart (ch : Chan) (b h : Fin 8) (addr : Qty)
  | cmdHewerHalt (ch : Chan) (b h : Fin 8)
  | cmdHewerRun (ch : Chan) (b h : Fin 8)
  | cmdHewerReset (ch : Chan) (b h : Fin 8)
  | cmdHewerClear (ch : Chan) (b h : Fin 8)
  -- mailbox commands (R347)
  | cmdMbxReport (ch : Chan)
  | cmdMbxRelease (ch : Chan) (box : Fin 80)
  | cmdMbxFlush (ch : Chan) (box : Fin 80)
  -- command-line commands (R366 to R382)
  | cmdSession (ch : Chan) (echo events check : Option Bool)
  | cmdId (ch : Chan)
  | cmdIdCl (ch : Chan) (n : Qty)
  | cmdOwnRelease (ch : Chan) (u : OwnUnit)
  | cmdOwnTake (ch : Chan) (u : OwnUnit)
  | cmdOwnReport (ch : Chan)
  | cmdSave (ch : Chan) (n : Qty) (name : Option String)
  | cmdSaveReport (ch : Chan)
  | cmdSaveShow (ch : Chan) (n : Qty)
  | cmdLoad (ch : Chan) (n : Qty)
  | cmdLoadReset (ch : Chan)
  | cmdBootSet (ch : Chan) (n : Option Qty)
  | cmdReset (ch : Chan)
  | cmdEvent (ch : Chan) (n : Option Qty)
  | cmdHelp (ch : Chan) (verb : Option String)
  -- UART commands (R398)
  | cmdUartFormat (ch : Chan) (u : Fin 2) (baud div bits : Option Qty) (parity : Option (Fin 3)) (stop : Option Qty)
  | cmdUartAddr (ch : Chan) (u : Fin 2) (addr : Option Bool) (node : Option Qty) (mute : Option Bool) (lead tail : Option Qty) (low : Option Bool)
  | cmdUartWake (ch : Chan) (u : Fin 2) (on : Bool)
  | cmdUartReport (ch : Chan) (u : Fin 2)
  -- PWR commands (R420)
  | cmdPwrPd (ch : Chan) (pd : Fin 8) (on : Bool)
  | cmdPwrStandby (ch : Chan)
  | cmdPwrWake (ch : Chan) (sync : Option Bool) (gpio : Option (List (Fin 8))) (fall : Option Bool)
  | cmdPwrThrottle (ch : Chan) (deg : Qty)
  | cmdPwrReport (ch : Chan)
  -- boot image commands (R439)
  | cmdBootImageWrite (ch : Chan) (imgB : Bool) (addr len : Qty)
  | cmdBootImageCheck (ch : Chan) (imgB : Bool)
  | cmdBootImagePrefer (ch : Chan) (imgB : Bool)
  | cmdBootImageReport (ch : Chan)
  -- calibration commands (R444)
  | cmdCalDark (ch : Chan) (f c : Fin 4) (lines tol : Option Qty) (save : String)
  | cmdCalFlat (ch : Chan) (f c p : Fin 4) (target : Qty) (lines tol : Option Qty) (save : String)
  | cmdCalDefect (ch : Chan) (f c : Fin 4) (dark flat : String) (darkmax flatdev : Qty) (save : String)
  | cmdCalImport (ch : Chan) (name : String) (kind : TblKind) (src : Qty)
  | cmdCalExport (ch : Chan) (name : String) (dst : Qty)
  | cmdCalRecords (ch : Chan)
  | cmdCalDelete (ch : Chan) (name : String)
  -- Spoil commands (R427, R431, R432)
  | cmdSpoil (ch : Chan)
  | cmdSpoilClear (ch : Chan)
  | cmdSpoilUnits (ch : Chan)
  -- host commands (R484)
  | cmdHostMirror (ch : Chan) (base : Option Qty) (on : Option Bool)
  | cmdHostResult (ch : Chan) (base entries pbase psize : Option Qty) (on : Option Bool)
  | cmdHostStream (ch : Chan) (f c : Fin 4) (k : StreamKind) (base size : Option Qty) (on : Option Bool)
  | cmdHostReport (ch : Chan)
  -- rows added at the table's end
  | uartReceiverRearm (u : Fin 2)
  | syncLoopReceived (seq : BitVec 13)
  | clockLaneHsEntry (p : Fin 16)
  | clockLaneHsExit (p : Fin 16)
  | calNoLineTimeout (f c : Fin 4)
  | jtagTckEdge (tms tdi : Bool)
deriving DecidableEq, Repr

end Sys2Proof
end

