-- ==== Sys2Proof/Config.lean ====
section
/-!
DEFINITION. Free values: constants without a body, for what the manual leaves open. No proof can see what they are.
-/
namespace Sys2Proof

/-- Where the codewords of a Reed–Solomon block stand in a symbol: its check symbols, and for each codeword its modules by
their index in the grid, most significant bit first, each with whether the mask inverts it (DotCode: the codeword's dots). -/
structure BlockMap where
  r : Nat
  cw : List (List (Nat × Bool))
deriving DecidableEq, Repr, Inhabited

/-- An element of decoded data: a byte, FNC1, or an ECI designator (R254). -/
inductive DataEl where
  | byte (b : Byte)
  | fnc1
  | eci (n : Nat)
deriving DecidableEq, Repr, Inhabited

/-- What a 2D symbol's corrected codewords say: its data elements, and whether it is of the symbology's GS1 form (R252). -/
structure Message where
  data : List DataEl
  gs1 : Bool
deriving DecidableEq, Repr, Inhabited

/-- What a scan row's element widths say: whether its start and stop patterns stand, and its characters between them, `none`
for one that is no character (R228). The start character of Code 128 is its first, a check character its last. -/
structure RowText where
  start : Bool
  stop : Bool
  chars : List (Option Nat)
deriving DecidableEq, Repr, Inhabited

namespace Config

/-- The value drawn number `n`; the state counts the draws (log 1). (DESIGN CHOICE, log 1) -/
opaque freeNat : Nat → Nat

/-- The report lines of a command, by its name and the values reported, without tag, checksum or line end: the
manual gives the content of a report, not its wording (R5, R358; log 9). (DESIGN CHOICE, log 9) -/
opaque reportText : String → List Int → List (List Byte)

/-- The wording of `help` (R358). -/
opaque helpText : String → List (List Byte)

/-- The detail words of an `err` line or a `fault` event, which the manual does not fix (R358). -/
opaque detailText : Nat → List Byte

/-- Values of registers that only the foreman firmware uses (MEMC, NVM and OTP; R486), by address and draw.
(DESIGN CHOICE, log 82) -/
opaque privateReg : Nat → Nat → Nat

/-- BOFS of a candidate whose centre line was paired with no PLANE_B line, by the pairs of the search image and the centre
line: the manual gives no value, and equal lines give equal records (R184, R187; log 145). (DESIGN CHOICE, log 145) -/
opaque freeBofs : List (BitVec 32 × BitVec 32) → BitVec 32 → Nat

/-- The DRAM regions that the foreman allocates at Boot for result staging with its payloads, the Riddle's result slots and
the firmware images: offsets in usable DRAM and sizes. The manual gives no place for them (log 144). -/
opaque bootPlaces : List (Nat × Nat)

/-! ### The symbology standards (R223). The manual names them and states no table of them (log 147).
Symbologies are given by their identifiers; `fmt` is the format information of a QR Code and 0 otherwise. -/

/-- The blocks of a 2D symbol of a size: by identifier, columns, rows and format; none for a size the standard has not.
(DESIGN CHOICE, log 147) -/
opaque layout2d : Nat → Nat → Nat → Nat → List BlockMap
/-- The finder and timing modules of a 2D symbol, and whether each is dark (R225, R245). -/
opaque finder2d : Nat → Nat → Nat → List (Nat × Bool)
/-- The modules of each copy of a QR Code's 15 format bits, by its columns, most significant bit first. -/
opaque qrFormat : Nat → List (List Nat)
/-- The modules of each copy of a QR Code's 18 version bits. -/
opaque qrVersion : Nat → List (List Nat)
/-- The codeword that a pattern of DotCode dots stands for, 113 or more for no codeword. -/
opaque dotValue : List Bool → Nat
/-- The pattern of a DotCode codeword. -/
opaque dotBits : Nat → List Bool
/-- The data of a 2D symbol's corrected blocks under the symbology's encodation; none where it does not decode (R227). -/
opaque message : Nat → Nat → Nat → Nat → List (List Nat) → Option Message
/-- The text of a scan row by its element widths in 1/16 pixel (R227). -/
opaque rowText : Nat → List Nat → RowText
/-- The data of the characters of a Code 128 or Code 39 symbol. -/
opaque text1d : Nat → List Nat → List DataEl
/-- Code 39 full ASCII expanded (R254). -/
opaque fullAscii : List DataEl → List DataEl
/-- The digits of a UPC-E symbol as the UPC-A digits that its check digit is formed over. -/
opaque upceDigits : List Nat → List Nat
/-- The decodability of a scan row (R248). -/
opaque decodability : Nat → List Nat → Rat
/-- A GS1 element string parses to the GS1 General Specifications (R240). -/
opaque gs1Parses : List Byte → Bool
/-- The confidence of a module where its block's light mean does not exceed the dark mean: R225's quotient has no value.
(DESIGN CHOICE, log 148) -/
opaque flatConf : Nat → Nat
/-- The reflectance of a patch pixel that no head supplied, by its value: no K_hp belongs to it (R215, R243).
(DESIGN CHOICE, log 149) -/
opaque fillRefl : Nat → Nat
/-- A share of a symbol contrast of 0: R245's and R248's quotients have no value there (log 154). -/
opaque flatShare : Rat → Rat

end Config

end Sys2Proof
end

