-- ==== Sys2Proof/Machine/RegMap.lean ====
section
/-!
DEFINITION. The register map: every register of the fabric address map (R485) with its fields, their access codes
(R8), reset values, reserved encodings (R9), live-unsafe marks (R489) and kept marks (R56), as the register table
of each block gives them. `Adr` names the fabric address of each register.
-/
namespace Sys2Proof.Machine

/-- The access codes of R8. -/
inductive Acc where
  | ro | rws | rwl | w1c | wo | rc
deriving DecidableEq, Repr

/-- A field of a register: bits `hi` to `lo`, access code, reset value, the ranges of its encodings that are not
reserved (none listed: every encoding; R9), and whether the field is live-unsafe (R489). -/
structure Fld where
  hi : Nat
  lo : Nat
  acc : Acc
  reset : Nat
  valid : List (Nat × Nat) := []
  live : Bool := false
deriving DecidableEq, Repr

/-- A register at an offset in its block, with its array (count, stride), its kept mark (R56) and its fields. -/
structure RegDesc where
  name : String
  off : Nat
  arr : Nat × Nat := (1, 4)
  kept : Bool := false
  flds : List Fld
deriving DecidableEq, Repr

/-- The register blocks of R485. -/
inductive BlockId where
  | sys | pwr | clk | enc | trgc | trgh | gpio | sync | uart | mbxFar | mbxNear | spoil | port | face | fctx | fsrc | seq | seam | sctx | riddle | kerf | stock | bench | pcie | foreman
deriving DecidableEq, Repr

/-- A block: its base address, its two instance arrays (count, stride) and its registers. -/
structure BlockDesc where
  id : BlockId
  base : Nat
  i1 : Nat × Nat
  i2 : Nat × Nat
  regs : List RegDesc
deriving DecidableEq, Repr

/-- A register found at an address: block, instance indices, array index and description. -/
structure Hit where
  blk : BlockId
  i : Nat
  j : Nat
  k : Nat
  desc : RegDesc
deriving DecidableEq, Repr

/-- The field's bits of a register value. -/
def Fld.get (f : Fld) (w : Word) : Nat := (w.toNat >>> f.lo) % 2 ^ (f.hi + 1 - f.lo)

/-- The register value with the field's bits replaced. -/
def Fld.put (f : Fld) (w : Word) (v : Nat) : Word :=
  let m := (2 ^ (f.hi + 1 - f.lo) - 1) <<< f.lo
  (w &&& ~~~ (BitVec.ofNat 20 m)) ||| BitVec.ofNat 20 ((v % 2 ^ (f.hi + 1 - f.lo)) <<< f.lo)

/-- R9: an encoding that the field's table does not reserve. -/
def Fld.ok (f : Fld) (v : Nat) : Bool :=
  f.valid.isEmpty || f.valid.any (fun r => decide (r.1 ≤ v) && decide (v ≤ r.2))

/-- The reset value of a register: its fields' reset values in place, every other bit 0 (R7). -/
def RegDesc.reset (d : RegDesc) : Word := d.flds.foldl (fun w f => f.put w f.reset) 0


/-- SYS (R487, spec file 21_host_link_and_address_map.md). -/
def RegMap.sys : List RegDesc := [
  ⟨"PART", 0x0, (1, 4), false, [⟨19, 0, .ro, 0x1620, [], false⟩]⟩,
  ⟨"VARIANT", 0x4, (1, 4), false, [⟨19, 0, .ro, 1, [], false⟩]⟩,
  ⟨"STEP", 0x8, (1, 4), false, [⟨7, 4, .ro, 1, [], false⟩, ⟨3, 0, .ro, 0, [], false⟩]⟩,
  ⟨"SERIAL_L", 0xC, (1, 4), false, [⟨15, 0, .ro, 0, [], false⟩]⟩,
  ⟨"SERIAL_H", 0x10, (1, 4), false, [⟨7, 0, .ro, 0, [], false⟩]⟩,
  ⟨"FWF_L", 0x14, (1, 4), false, [⟨15, 0, .ro, 0, [], false⟩]⟩,
  ⟨"FWF_H", 0x18, (1, 4), false, [⟨7, 0, .ro, 0, [], false⟩]⟩,
  ⟨"FWB_L", 0x1C, (1, 4), false, [⟨15, 0, .ro, 0, [], false⟩]⟩,
  ⟨"FWB_H", 0x20, (1, 4), false, [⟨7, 0, .ro, 0, [], false⟩]⟩,
  ⟨"STATE", 0x40, (1, 4), false, [⟨7, 4, .ro, 0, [], false⟩, ⟨3, 3, .ro, 0, [], false⟩, ⟨2, 0, .ro, 1, [], false⟩]⟩,
  ⟨"BOOT", 0x44, (1, 4), false, [⟨5, 5, .ro, 0, [], false⟩, ⟨4, 4, .ro, 0, [], false⟩, ⟨3, 3, .ro, 0, [], false⟩, ⟨2, 2, .ro, 0, [], false⟩, ⟨1, 1, .ro, 0, [], false⟩, ⟨0, 0, .ro, 0, [], false⟩]⟩,
  ⟨"RECOV", 0x48, (1, 4), false, [⟨19, 19, .wo, 0, [], false⟩, ⟨18, 0, .wo, 0, [], false⟩]⟩]

/-- PWR and THERM (R419, spec file 18_power_clocks_islands.md). -/
def RegMap.pwr : List RegDesc := [
  ⟨"DOM", 0x0, (1, 4), false, [⟨15, 8, .w1c, 0, [], false⟩, ⟨7, 0, .ro, 1, [], false⟩]⟩,
  ⟨"REQ", 0x4, (1, 4), false, [⟨7, 0, .rwl, 0x83, [], false⟩]⟩,
  ⟨"VMAIN", 0x10, (1, 4), false, [⟨15, 0, .ro, 0, [], false⟩]⟩,
  ⟨"VSTBY", 0x14, (1, 4), false, [⟨15, 0, .ro, 0, [], false⟩]⟩,
  ⟨"IMAIN", 0x18, (1, 4), false, [⟨15, 0, .ro, 0, [], false⟩]⟩,
  ⟨"WAKE", 0x20, (1, 4), true, [⟨9, 9, .rwl, 0, [], false⟩, ⟨8, 1, .rwl, 0, [], false⟩, ⟨0, 0, .rwl, 0, [], false⟩]⟩,
  ⟨"WAKESRC", 0x24, (1, 4), true, [⟨7, 0, .ro, 0, [], false⟩]⟩,
  ⟨"STATUS", 0x28, (1, 4), false, [⟨3, 3, .ro, 0, [], false⟩, ⟨2, 2, .ro, 0, [], false⟩, ⟨1, 1, .ro, 0, [], false⟩, ⟨0, 0, .ro, 0, [], false⟩]⟩,
  ⟨"PDP", 0x40, (8, 4), false, [⟨15, 0, .ro, 0, [], false⟩]⟩,
  ⟨"THERM.T", 0x80, (8, 4), false, [⟨11, 0, .ro, 0, [], false⟩]⟩,
  ⟨"THERM.CTRL", 0xA0, (1, 4), false, [⟨7, 0, .rwl, 0x64, [(85, 100)], false⟩]⟩,
  ⟨"THERM.STATUS", 0xA4, (1, 4), false, [⟨8, 8, .ro, 0, [], false⟩, ⟨7, 0, .ro, 0, [], false⟩]⟩,
  ⟨"THERM.PEAK", 0xA8, (1, 4), false, [⟨11, 0, .rc, 0, [], false⟩]⟩,
  ⟨"THERM.THR_CNT", 0xAC, (1, 4), false, [⟨19, 0, .rc, 0, [], false⟩]⟩]

/-- CLK (R419, spec file 18_power_clocks_islands.md). -/
def RegMap.clk : List RegDesc := [
  ⟨"STATUS", 0x0, (1, 4), false, [⟨10, 10, .ro, 0, [], false⟩, ⟨9, 4, .ro, 0, [], false⟩, ⟨3, 3, .ro, 0, [], false⟩, ⟨2, 2, .w1c, 0, [], false⟩, ⟨1, 1, .ro, 0, [], false⟩, ⟨0, 0, .ro, 0, [], false⟩]⟩]

/-- ENC.e (R82, spec file 03_encoders_and_line_triggers.md). -/
def RegMap.enc : List RegDesc := [
  ⟨"CTRL", 0x0, (1, 4), true, [⟨9, 9, .wo, 0, [], false⟩, ⟨8, 8, .rwl, 0, [], false⟩, ⟨7, 7, .rwl, 0, [], false⟩, ⟨6, 6, .rwl, 0, [], false⟩, ⟨5, 5, .rwl, 0, [], true⟩, ⟨4, 3, .rwl, 0, [(0, 2)], true⟩, ⟨2, 1, .rwl, 0, [(0, 1)], true⟩, ⟨0, 0, .rwl, 1, [], false⟩]⟩,
  ⟨"MIN_EDGE", 0x4, (1, 4), true, [⟨19, 0, .rwl, 2, [], false⟩]⟩,
  ⟨"WINDOW", 0x8, (1, 4), true, [⟨19, 0, .rws, 0x3e8, [(1, 1048575)], false⟩]⟩,
  ⟨"STANDSTILL", 0xC, (1, 4), true, [⟨19, 0, .rwl, 0x186a0, [(1, 1048575)], false⟩]⟩,
  ⟨"GLITCH_LIM", 0x10, (1, 4), true, [⟨15, 0, .rwl, 0, [], false⟩]⟩,
  ⟨"INDEX_PERIOD", 0x14, (1, 4), true, [⟨19, 0, .rws, 0, [], false⟩]⟩,
  ⟨"INDEX_TOL", 0x18, (1, 4), true, [⟨15, 0, .rws, 0, [], false⟩]⟩,
  ⟨"POS_L", 0x20, (1, 4), false, [⟨15, 0, .ro, 0, [], false⟩]⟩,
  ⟨"POS_M", 0x24, (1, 4), false, [⟨15, 0, .ro, 0, [], false⟩]⟩,
  ⟨"POS_H", 0x28, (1, 4), false, [⟨15, 0, .ro, 0, [], false⟩]⟩,
  ⟨"PRESET_L", 0x2C, (1, 4), true, [⟨15, 0, .rwl, 0, [], false⟩]⟩,
  ⟨"PRESET_M", 0x30, (1, 4), true, [⟨15, 0, .rwl, 0, [], false⟩]⟩,
  ⟨"PRESET_H", 0x34, (1, 4), true, [⟨15, 0, .rwl, 0, [], false⟩]⟩,
  ⟨"SPEED", 0x38, (1, 4), false, [⟨19, 19, .ro, 0, [], false⟩, ⟨18, 0, .ro, 0, [], false⟩]⟩,
  ⟨"STATUS", 0x3C, (1, 4), false, [⟨15, 8, .ro, 0, [], false⟩, ⟨4, 4, .w1c, 0, [], false⟩, ⟨3, 3, .ro, 0, [], false⟩, ⟨2, 2, .ro, 0, [], false⟩, ⟨1, 1, .ro, 0, [], false⟩, ⟨0, 0, .ro, 0, [], false⟩]⟩,
  ⟨"IDX_L", 0x40, (1, 4), true, [⟨15, 0, .ro, 0, [], false⟩]⟩,
  ⟨"IDX_M", 0x44, (1, 4), true, [⟨15, 0, .ro, 0, [], false⟩]⟩,
  ⟨"IDX_H", 0x48, (1, 4), true, [⟨15, 0, .ro, 0, [], false⟩]⟩,
  ⟨"IDX_DEV", 0x4C, (1, 4), true, [⟨19, 0, .ro, 0, [], false⟩]⟩,
  ⟨"GLITCH_CNT", 0x50, (1, 4), true, [⟨19, 0, .rc, 0, [], false⟩]⟩,
  ⟨"SLIP_CNT", 0x54, (1, 4), true, [⟨19, 0, .rc, 0, [], false⟩]⟩,
  ⟨"IFAULT_CNT", 0x58, (1, 4), true, [⟨19, 0, .rc, 0, [], false⟩]⟩,
  ⟨"SNAP_CNT", 0x5C, (1, 4), true, [⟨19, 0, .rc, 0, [], false⟩]⟩]

/-- TRG.c (R82, spec file 03_encoders_and_line_triggers.md). -/
def RegMap.trgc : List RegDesc := [
  ⟨"CTRL", 0x0, (1, 4), false, [⟨2, 2, .rwl, 0, [], true⟩, ⟨1, 1, .rwl, 0, [], true⟩, ⟨0, 0, .rwl, 0, [], false⟩]⟩,
  ⟨"PITCH_INT", 0x4, (1, 4), false, [⟨19, 0, .rwl, 1, [(1, 1048575)], true⟩]⟩,
  ⟨"PITCH_FRAC", 0x8, (1, 4), false, [⟨15, 0, .rwl, 0, [], true⟩]⟩,
  ⟨"ORG_L", 0xC, (1, 4), false, [⟨15, 0, .rwl, 0, [], true⟩]⟩,
  ⟨"ORG_M", 0x10, (1, 4), false, [⟨15, 0, .rwl, 0, [], true⟩]⟩,
  ⟨"ORG_H", 0x14, (1, 4), false, [⟨15, 0, .rwl, 0, [], true⟩]⟩,
  ⟨"ORG_F", 0x18, (1, 4), false, [⟨15, 0, .rwl, 0, [], true⟩]⟩,
  ⟨"K_L", 0x1C, (1, 4), false, [⟨15, 0, .ro, 0, [], false⟩]⟩,
  ⟨"K_M", 0x20, (1, 4), false, [⟨15, 0, .ro, 0, [], false⟩]⟩,
  ⟨"K_H", 0x24, (1, 4), false, [⟨15, 0, .ro, 0, [], false⟩]⟩]

/-- TRG.h (R82, spec file 03_encoders_and_line_triggers.md). -/
def RegMap.trgh : List RegDesc := [
  ⟨"CTRL", 0x0, (1, 4), false, [⟨3, 3, .rwl, 0, [], false⟩, ⟨2, 1, .rwl, 0, [], true⟩, ⟨0, 0, .rwl, 0, [], false⟩]⟩,
  ⟨"DELAY_L", 0x4, (1, 4), false, [⟨15, 0, .rwl, 0, [], true⟩]⟩,
  ⟨"DELAY_H", 0x8, (1, 4), false, [⟨7, 0, .rwl, 0, [], true⟩]⟩,
  ⟨"MIN_INT", 0xC, (1, 4), false, [⟨19, 0, .rwl, 0x3e8, [], false⟩]⟩,
  ⟨"SLAB", 0x10, (1, 4), false, [⟨12, 0, .rws, 0x1ff, [(0, 8191)], false⟩]⟩,
  ⟨"SKIP_CNT", 0x14, (1, 4), false, [⟨19, 0, .rc, 0, [], false⟩]⟩,
  ⟨"TAG_LEVEL", 0x18, (1, 4), false, [⟨12, 0, .ro, 0, [], false⟩]⟩,
  ⟨"TAG_OVF", 0x1C, (1, 4), false, [⟨19, 0, .rc, 0, [], false⟩]⟩]

/-- GPIO (R82, spec file 03_encoders_and_line_triggers.md). -/
def RegMap.gpio : List RegDesc := [
  ⟨"OUT", 0x0, (1, 4), false, [⟨7, 0, .rwl, 0, [], false⟩]⟩,
  ⟨"OE", 0x4, (1, 4), false, [⟨7, 0, .rwl, 0, [], false⟩]⟩,
  ⟨"IN", 0x8, (1, 4), false, [⟨7, 0, .ro, 0, [], false⟩]⟩,
  ⟨"EV_L", 0x10, (1, 4), false, [⟨15, 0, .rwl, 0, [], false⟩]⟩,
  ⟨"EV_M", 0x14, (1, 4), false, [⟨15, 0, .rwl, 0, [], false⟩]⟩,
  ⟨"EV_H", 0x18, (1, 4), false, [⟨15, 0, .rwl, 0, [], false⟩]⟩,
  ⟨"EV_CTRL", 0x1C, (1, 4), false, [⟨19, 8, .rwl, 0, [], false⟩, ⟨7, 7, .rwl, 0, [], false⟩, ⟨6, 5, .rwl, 0, [], false⟩, ⟨4, 3, .rwl, 0, [(0, 2)], false⟩, ⟨2, 0, .rwl, 0, [], false⟩]⟩,
  ⟨"EV_PUSH", 0x20, (1, 4), false, [⟨1, 1, .wo, 0, [], false⟩, ⟨0, 0, .wo, 0, [], false⟩]⟩,
  ⟨"EV_PEND", 0x24, (1, 4), false, [⟨5, 0, .ro, 0, [], false⟩]⟩,
  ⟨"EV_DROP", 0x28, (1, 4), false, [⟨19, 0, .rc, 0, [], false⟩]⟩]

/-- SYNC (R82, spec file 03_encoders_and_line_triggers.md). -/
def RegMap.sync : List RegDesc := [
  ⟨"CTRL", 0x0, (1, 4), false, [⟨10, 10, .rwl, 0, [], false⟩, ⟨9, 8, .rwl, 0, [], true⟩, ⟨7, 7, .rwl, 0, [], true⟩, ⟨6, 6, .wo, 0, [], false⟩, ⟨5, 4, .rwl, 1, [(1, 3)], true⟩, ⟨3, 2, .rwl, 0, [], true⟩, ⟨1, 0, .rwl, 0, [(0, 2)], true⟩]⟩,
  ⟨"LAT", 0x4, (1, 4), false, [⟨11, 0, .rwl, 0, [], true⟩]⟩,
  ⟨"STATUS", 0x8, (1, 4), false, [⟨19, 16, .ro, 0, [], false⟩, ⟨15, 4, .ro, 0, [], false⟩, ⟨1, 1, .w1c, 0, [], false⟩, ⟨0, 0, .ro, 0, [], false⟩]⟩]

/-- UARTu (R397, spec file 17_serial_ports.md). -/
def RegMap.uart : List RegDesc := [
  ⟨"CTRL", 0x0, (1, 4), true, [⟨4, 4, .rwl, 0, [], false⟩, ⟨3, 3, .rwl, 1, [], false⟩, ⟨2, 2, .rwl, 0, [], false⟩, ⟨1, 1, .rwl, 1, [], false⟩, ⟨0, 0, .rwl, 1, [], false⟩]⟩,
  ⟨"DIV", 0x4, (1, 4), false, [⟨15, 0, .rwl, 0x6d, [(1, 65535)], false⟩]⟩,
  ⟨"FMT", 0x8, (1, 4), false, [⟨4, 4, .rwl, 0, [], false⟩, ⟨3, 2, .rwl, 0, [(0, 2)], false⟩, ⟨1, 1, .rwl, 1, [], false⟩, ⟨0, 0, .rwl, 0, [], false⟩]⟩,
  ⟨"NODE", 0xC, (1, 4), false, [⟨7, 0, .rwl, 1, [(1, 254)], false⟩]⟩,
  ⟨"DE", 0x10, (1, 4), false, [⟨15, 8, .rwl, 0x10, [], false⟩, ⟨7, 0, .rwl, 0x10, [], false⟩]⟩,
  ⟨"TX", 0x14, (1, 4), false, [⟨8, 0, .wo, 0, [], false⟩]⟩,
  ⟨"RX", 0x18, (1, 4), false, [⟨11, 0, .rc, 0, [], false⟩]⟩,
  ⟨"STATUS", 0x1C, (1, 4), false, [⟨18, 18, .ro, 0, [], false⟩, ⟨17, 17, .ro, 0, [], false⟩, ⟨16, 16, .w1c, 0, [], false⟩, ⟨15, 15, .w1c, 0, [], false⟩, ⟨14, 14, .w1c, 0, [], false⟩, ⟨13, 13, .ro, 1, [], false⟩, ⟨12, 12, .ro, 1, [], false⟩, ⟨11, 6, .ro, 0, [], false⟩, ⟨5, 0, .ro, 0, [], false⟩]⟩,
  ⟨"FE_CNT", 0x20, (1, 4), true, [⟨19, 0, .rc, 0, [], false⟩]⟩,
  ⟨"PE_CNT", 0x24, (1, 4), true, [⟨19, 0, .rc, 0, [], false⟩]⟩,
  ⟨"GLITCH_CNT", 0x28, (1, 4), true, [⟨19, 0, .rc, 0, [], false⟩]⟩,
  ⟨"OE_CNT", 0x2C, (1, 4), true, [⟨19, 0, .rc, 0, [], false⟩]⟩]

/-- MBX far end of box n (R346, spec file 15_mailboxes_and_wedges.md). -/
def RegMap.mbxFar : List RegDesc := [
  ⟨"TX", 0x0, (1, 4), false, [⟨19, 0, .wo, 0, [], false⟩]⟩,
  ⟨"TXL", 0x4, (1, 4), false, [⟨19, 0, .wo, 0, [], false⟩]⟩,
  ⟨"RX", 0x8, (1, 4), false, [⟨19, 0, .rc, 0, [], false⟩]⟩,
  ⟨"STAT", 0xC, (1, 4), false, [⟨13, 13, .w1c, 0, [], false⟩, ⟨12, 12, .w1c, 0, [], false⟩, ⟨11, 8, .ro, 0, [], false⟩, ⟨7, 4, .ro, 8, [], false⟩, ⟨3, 0, .ro, 0, [], false⟩]⟩,
  ⟨"WEDGE", 0x10, (1, 4), false, [⟨6, 0, .rwl, 0, [], false⟩]⟩,
  ⟨"CTRL", 0x14, (1, 4), false, [⟨1, 1, .wo, 0, [], false⟩, ⟨0, 0, .wo, 0, [], false⟩]⟩]

/-- MBX host near end of box 72+k (R346, spec file 15_mailboxes_and_wedges.md). -/
def RegMap.mbxNear : List RegDesc := [
  ⟨"TX", 0x0, (1, 4), false, [⟨19, 0, .wo, 0, [], false⟩]⟩,
  ⟨"TXL", 0x4, (1, 4), false, [⟨19, 0, .wo, 0, [], false⟩]⟩,
  ⟨"RX", 0x8, (1, 4), false, [⟨19, 0, .rc, 0, [], false⟩]⟩,
  ⟨"STAT", 0xC, (1, 4), false, [⟨13, 13, .w1c, 0, [], false⟩, ⟨12, 12, .w1c, 0, [], false⟩, ⟨11, 8, .ro, 0, [], false⟩, ⟨7, 4, .ro, 8, [], false⟩, ⟨3, 0, .ro, 0, [], false⟩]⟩,
  ⟨"WEDGE.a", 0x80, (32, 4), false, [⟨6, 0, .rwl, 0, [], false⟩]⟩]

/-- SPOIL (R432, spec file 19_faults_calibration_service.md). -/
def RegMap.spoil : List RegDesc := [
  ⟨"STATUS", 0x0, (1, 4), true, [⟨14, 8, .ro, 0x40, [], false⟩, ⟨7, 7, .ro, 0, [], false⟩, ⟨6, 0, .ro, 0, [], false⟩]⟩,
  ⟨"LOST", 0x4, (1, 4), true, [⟨19, 0, .ro, 0, [], false⟩]⟩,
  ⟨"ENT.i.HDR", 0x100, (64, 64), true, [⟨19, 0, .ro, 0, [], false⟩]⟩,
  ⟨"ENT.i.REP", 0x104, (64, 64), true, [⟨19, 0, .ro, 0, [], false⟩]⟩,
  ⟨"ENT.i.TIME.0", 0x108, (64, 64), true, [⟨15, 0, .ro, 0, [], false⟩]⟩,
  ⟨"ENT.i.TIME.1", 0x10c, (64, 64), true, [⟨15, 0, .ro, 0, [], false⟩]⟩,
  ⟨"ENT.i.TIME.2", 0x110, (64, 64), true, [⟨15, 0, .ro, 0, [], false⟩]⟩,
  ⟨"ENT.i.TIME.3", 0x114, (64, 64), true, [⟨15, 0, .ro, 0, [], false⟩]⟩,
  ⟨"ENT.i.DET.0", 0x118, (64, 64), true, [⟨19, 0, .ro, 0, [], false⟩]⟩,
  ⟨"ENT.i.DET.1", 0x11c, (64, 64), true, [⟨19, 0, .ro, 0, [], false⟩]⟩,
  ⟨"ENT.i.DET.2", 0x120, (64, 64), true, [⟨19, 0, .ro, 0, [], false⟩]⟩,
  ⟨"ENT.i.DET.3", 0x124, (64, 64), true, [⟨19, 0, .ro, 0, [], false⟩]⟩]

/-- PORT.p (R119, spec file 05_camera_ports_and_slabs.md). -/
def RegMap.port : List RegDesc := [
  ⟨"CTRL", 0x0, (1, 4), false, [⟨8, 8, .wo, 0, [], false⟩, ⟨7, 7, .rws, 0, [], false⟩, ⟨6, 6, .rws, 0, [], false⟩, ⟨5, 5, .rws, 0, [], false⟩, ⟨4, 4, .rws, 0, [], false⟩, ⟨2, 1, .rwl, 2, [(0, 2)], true⟩, ⟨0, 0, .rwl, 0, [], false⟩]⟩,
  ⟨"PHY.RATE", 0x4, (1, 4), false, [⟨12, 0, .rwl, 0x5dc, [(80, 4500)], true⟩]⟩,
  ⟨"IMG0_FILT", 0x8, (1, 4), false, [⟨9, 4, .rws, 0x2c, [(36, 36), (42, 46), (48, 55)], false⟩, ⟨3, 0, .rws, 0, [], false⟩]⟩,
  ⟨"IMG1_FILT", 0xC, (1, 4), false, [⟨9, 4, .rws, 0x2c, [(36, 36), (42, 46), (48, 55)], false⟩, ⟨3, 0, .rws, 1, [], false⟩]⟩,
  ⟨"IMG0_WIDTH", 0x10, (1, 4), false, [⟨13, 0, .rws, 0x3fff, [], false⟩]⟩,
  ⟨"IMG1_WIDTH", 0x14, (1, 4), false, [⟨13, 0, .rws, 0x3fff, [], false⟩]⟩,
  ⟨"EMB_FILT", 0x18, (1, 4), false, [⟨9, 4, .rws, 0x12, [(18, 18), (48, 55)], false⟩, ⟨3, 0, .rws, 0, [], false⟩]⟩,
  ⟨"CNT", 0x1C, (1, 4), false, [⟨10, 10, .rws, 0, [], false⟩, ⟨9, 0, .rws, 0, [(0, 1022)], false⟩]⟩,
  ⟨"CNT_OFS", 0x20, (1, 4), false, [⟨15, 0, .rwl, 0, [], false⟩]⟩,
  ⟨"FILL", 0x24, (1, 4), false, [⟨15, 0, .rws, 0, [], false⟩]⟩,
  ⟨"TMO_FS", 0x28, (1, 4), false, [⟨19, 0, .rws, 0x3e8, [(1, 1048575)], false⟩]⟩,
  ⟨"TMO_FE", 0x2C, (1, 4), false, [⟨19, 0, .rws, 0x2710, [(1, 1048575)], false⟩]⟩,
  ⟨"STATUS", 0x30, (1, 4), false, [⟨6, 6, .w1c, 0, [], false⟩, ⟨5, 5, .ro, 0, [], false⟩, ⟨4, 4, .ro, 0, [], false⟩, ⟨3, 3, .ro, 0, [], false⟩, ⟨2, 2, .ro, 0, [], false⟩, ⟨1, 1, .ro, 0, [], false⟩, ⟨0, 0, .ro, 0, [], false⟩]⟩,
  ⟨"LAST0", 0x34, (1, 4), false, [⟨16, 3, .ro, 0, [], false⟩, ⟨2, 0, .ro, 0, [], false⟩]⟩,
  ⟨"LAST1", 0x38, (1, 4), false, [⟨16, 3, .ro, 0, [], false⟩, ⟨2, 0, .ro, 0, [], false⟩]⟩,
  ⟨"FLAGS0", 0x3C, (1, 4), false, [⟨5, 5, .ro, 0, [], false⟩, ⟨4, 4, .ro, 0, [], false⟩, ⟨3, 3, .ro, 0, [], false⟩, ⟨2, 2, .ro, 0, [], false⟩, ⟨1, 1, .ro, 0, [], false⟩, ⟨0, 0, .ro, 0, [], false⟩]⟩,
  ⟨"FLAGS1", 0x40, (1, 4), false, [⟨5, 5, .ro, 0, [], false⟩, ⟨4, 4, .ro, 0, [], false⟩, ⟨3, 3, .ro, 0, [], false⟩, ⟨2, 2, .ro, 0, [], false⟩, ⟨1, 1, .ro, 0, [], false⟩, ⟨0, 0, .ro, 0, [], false⟩]⟩,
  ⟨"SLABS", 0x80, (1, 4), false, [⟨19, 0, .rc, 0, [], false⟩]⟩,
  ⟨"SHORT", 0x84, (1, 4), false, [⟨19, 0, .rc, 0, [], false⟩]⟩,
  ⟨"LONG", 0x88, (1, 4), false, [⟨19, 0, .rc, 0, [], false⟩]⟩,
  ⟨"TMO", 0x8C, (1, 4), false, [⟨19, 0, .rc, 0, [], false⟩]⟩,
  ⟨"SLINE", 0x90, (1, 4), false, [⟨19, 0, .rc, 0, [], false⟩]⟩,
  ⟨"LLINE", 0x94, (1, 4), false, [⟨19, 0, .rc, 0, [], false⟩]⟩,
  ⟨"ECC_COR", 0x98, (1, 4), false, [⟨19, 0, .rc, 0, [], false⟩]⟩,
  ⟨"ECC_ERR", 0x9C, (1, 4), false, [⟨19, 0, .rc, 0, [], false⟩]⟩,
  ⟨"CRC_ERR", 0xA0, (1, 4), false, [⟨19, 0, .rc, 0, [], false⟩]⟩,
  ⟨"PKT_IGN", 0xA4, (1, 4), false, [⟨19, 0, .rc, 0, [], false⟩]⟩,
  ⟨"FS_MISS", 0xA8, (1, 4), false, [⟨19, 0, .rc, 0, [], false⟩]⟩,
  ⟨"FE_MISS", 0xAC, (1, 4), false, [⟨19, 0, .rc, 0, [], false⟩]⟩,
  ⟨"NOTAG", 0xB0, (1, 4), false, [⟨19, 0, .rc, 0, [], false⟩]⟩,
  ⟨"TAG_DISC", 0xB4, (1, 4), false, [⟨19, 0, .rc, 0, [], false⟩]⟩,
  ⟨"UNANCH", 0xB8, (1, 4), false, [⟨19, 0, .rc, 0, [], false⟩]⟩,
  ⟨"ALIGN_MISS", 0xBC, (1, 4), false, [⟨19, 0, .rc, 0, [], false⟩]⟩,
  ⟨"PHY_ERR", 0xC0, (1, 4), false, [⟨19, 0, .rc, 0, [], false⟩]⟩,
  ⟨"I2C.CTRL", 0x200, (1, 4), false, [⟨9, 2, .rwl, 0x19, [(1, 255)], false⟩, ⟨1, 0, .rwl, 1, [(0, 2)], false⟩]⟩,
  ⟨"I2C.CMD", 0x204, (1, 4), false, [⟨19, 19, .wo, 0, [], false⟩, ⟨18, 13, .wo, 0, [], false⟩, ⟨12, 7, .wo, 0, [], false⟩, ⟨6, 0, .wo, 0, [], false⟩]⟩,
  ⟨"I2C.OP", 0x208, (1, 4), false, [⟨0, 0, .wo, 0, [], false⟩]⟩,
  ⟨"I2C.STATUS", 0x20C, (1, 4), false, [⟨11, 6, .ro, 0, [], false⟩, ⟨5, 5, .w1c, 0, [], false⟩, ⟨4, 4, .w1c, 0, [], false⟩, ⟨3, 3, .w1c, 0, [], false⟩, ⟨2, 2, .w1c, 0, [], false⟩, ⟨1, 1, .w1c, 0, [], false⟩, ⟨0, 0, .ro, 0, [], false⟩]⟩,
  ⟨"I2C.RX.i", 0x240, (16, 4), false, [⟨15, 0, .ro, 0, [], false⟩]⟩,
  ⟨"I2C.TX.i", 0x280, (16, 4), false, [⟨15, 0, .rwl, 0, [], true⟩]⟩]

/-- FACE.f (Face-wide) (R146, spec file 06_face_corrections.md). -/
def RegMap.face : List RegDesc := [
  ⟨"STATUS.CFGERR", 0x0, (1, 4), false, [⟨0, 0, .w1c, 0, [], false⟩]⟩,
  ⟨"BLK_SEL", 0x10, (1, 4), false, [⟨7, 4, .ro, 0, [], false⟩, ⟨3, 0, .rws, 0, [], false⟩]⟩,
  ⟨"FLAT_SEL", 0x14, (1, 4), false, [⟨7, 4, .ro, 0, [], false⟩, ⟨3, 0, .rws, 0, [], false⟩]⟩,
  ⟨"DEF_SEL", 0x18, (1, 4), false, [⟨4, 1, .ro, 0, [], false⟩, ⟨0, 0, .rws, 0, [], false⟩]⟩,
  ⟨"TONE_SEL", 0x1C, (1, 4), false, [⟨7, 4, .ro, 0, [], false⟩, ⟨3, 0, .rws, 0, [], false⟩]⟩,
  ⟨"TBL_SEL", 0x20, (1, 4), false, [⟨7, 7, .rwl, 0, [], false⟩, ⟨6, 5, .rwl, 0, [], false⟩, ⟨4, 3, .rwl, 0, [], false⟩, ⟨2, 0, .rwl, 0, [(0, 3)], false⟩]⟩,
  ⟨"TBL_ADDR", 0x24, (1, 4), false, [⟨13, 0, .rwl, 0, [], false⟩]⟩,
  ⟨"TBL_DATA", 0x28, (1, 4), false, [⟨19, 0, .rwl, 0, [], false⟩]⟩,
  ⟨"DEF_ORDER", 0x40, (1, 4), false, [⟨19, 0, .rc, 0, [], false⟩]⟩,
  ⟨"ALN_USED", 0x44, (1, 4), false, [⟨19, 0, .ro, 0, [], false⟩]⟩,
  ⟨"OVL_COL.0", 0xA00, (1, 4), false, [⟨17, 0, .rwl, 0xfc0, [], false⟩]⟩,
  ⟨"OVL_COL.1", 0xA04, (1, 4), false, [⟨17, 0, .rwl, 0x3f000, [], false⟩]⟩,
  ⟨"OVL_COL.2", 0xA08, (1, 4), false, [⟨17, 0, .rwl, 0x3ffc0, [], false⟩]⟩,
  ⟨"DLY_USED", 0xA0C, (1, 4), false, [⟨19, 0, .ro, 0, [], false⟩]⟩,
  ⟨"UNBOUND", 0xA10, (1, 4), false, [⟨19, 0, .rc, 0, [], false⟩]⟩]

/-- FACE.f.C.c (corrections) (R146, spec file 06_face_corrections.md). -/
def RegMap.fctx : List RegDesc := [
  ⟨"CMODE", 0x0, (1, 4), false, [⟨12, 6, .rws, 4, [], false⟩, ⟨5, 2, .rws, 0xf, [], false⟩, ⟨1, 0, .rws, 0, [(0, 2)], false⟩]⟩,
  ⟨"ALIGN", 0x4, (1, 4), false, [⟨17, 12, .rws, 0, [], false⟩, ⟨11, 6, .rws, 0, [], false⟩, ⟨5, 0, .rws, 0, [], false⟩]⟩,
  ⟨"GLOB.p", 0x8, (4, 4), false, [⟨19, 0, .rws, 0, [], false⟩]⟩,
  ⟨"DYN_HI", 0x18, (1, 4), false, [⟨19, 0, .rws, 0x4000, [], false⟩]⟩,
  ⟨"DYN_LO", 0x1C, (1, 4), false, [⟨19, 0, .rws, 0x4000, [], false⟩]⟩,
  ⟨"WB.p.k", 0x20, (12, 4), false, [⟨19, 0, .rws, 0x10000, [], false⟩]⟩,
  ⟨"MAT.0.0", 0x50, (1, 4), false, [⟨19, 0, .rws, 0x8000, [], false⟩]⟩,
  ⟨"MAT.0.1", 0x54, (1, 4), false, [⟨19, 0, .rws, 0, [], false⟩]⟩,
  ⟨"MAT.0.2", 0x58, (1, 4), false, [⟨19, 0, .rws, 0, [], false⟩]⟩,
  ⟨"MAT.1.0", 0x5C, (1, 4), false, [⟨19, 0, .rws, 0, [], false⟩]⟩,
  ⟨"MAT.1.1", 0x60, (1, 4), false, [⟨19, 0, .rws, 0x8000, [], false⟩]⟩,
  ⟨"MAT.1.2", 0x64, (1, 4), false, [⟨19, 0, .rws, 0, [], false⟩]⟩,
  ⟨"MAT.2.0", 0x68, (1, 4), false, [⟨19, 0, .rws, 0, [], false⟩]⟩,
  ⟨"MAT.2.1", 0x6C, (1, 4), false, [⟨19, 0, .rws, 0, [], false⟩]⟩,
  ⟨"MAT.2.2", 0x70, (1, 4), false, [⟨19, 0, .rws, 0x8000, [], false⟩]⟩,
  ⟨"DYN_CNT", 0x80, (1, 4), false, [⟨19, 0, .rc, 0, [], false⟩]⟩,
  ⟨"PLANE_DROP", 0x84, (1, 4), false, [⟨19, 0, .rc, 0, [], false⟩]⟩,
  ⟨"WARM", 0x88, (1, 4), false, [⟨19, 0, .rc, 0, [], false⟩]⟩,
  ⟨"MODE_ERR", 0x8C, (1, 4), false, [⟨19, 0, .rc, 0, [], false⟩]⟩]

/-- FACE.f.C.c (sources and outputs) (R167, spec file 07_face_sources_and_outputs.md). -/
def RegMap.fsrc : List RegDesc := [
  ⟨"SRC", 0x0, (1, 4), false, [⟨5, 5, .rwl, 0, [], true⟩, ⟨4, 4, .rwl, 0, [], true⟩, ⟨3, 2, .rwl, 0, [], true⟩, ⟨1, 1, .rwl, 0, [], true⟩, ⟨0, 0, .rwl, 0, [], false⟩]⟩,
  ⟨"SPOOL_BASE_L", 0x4, (1, 4), false, [⟨19, 0, .rwl, 0, [], true⟩]⟩,
  ⟨"SPOOL_BASE_H", 0x8, (1, 4), false, [⟨7, 0, .rwl, 0, [], true⟩]⟩,
  ⟨"SPOOL", 0xC, (1, 4), false, [⟨19, 7, .rwl, 0x1ff, [], true⟩, ⟨6, 0, .rwl, 8, [(1, 64)], true⟩]⟩,
  ⟨"MV", 0x10, (1, 4), false, [⟨4, 4, .rws, 0, [], false⟩, ⟨3, 0, .rws, 0, [], false⟩]⟩,
  ⟨"DISP", 0x14, (1, 4), false, [⟨9, 9, .rws, 1, [], false⟩, ⟨8, 6, .rws, 2, [(0, 4)], false⟩, ⟨5, 3, .rws, 2, [(0, 4)], false⟩, ⟨2, 1, .rws, 0, [], false⟩, ⟨0, 0, .rws, 0, [], false⟩]⟩,
  ⟨"CODE", 0x18, (1, 4), false, [⟨8, 6, .rws, 2, [(0, 4)], false⟩, ⟨5, 3, .rws, 2, [(0, 4)], false⟩, ⟨2, 1, .rws, 0, [], false⟩, ⟨0, 0, .rws, 0, [], false⟩]⟩,
  ⟨"DISP_DLY", 0x1C, (1, 4), false, [⟨7, 0, .rws, 0, [], false⟩]⟩,
  ⟨"USED", 0x20, (1, 4), false, [⟨6, 0, .ro, 0, [], false⟩]⟩,
  ⟨"DROP", 0x24, (1, 4), false, [⟨19, 0, .rc, 0, [], false⟩]⟩,
  ⟨"INL_OVF", 0x28, (1, 4), false, [⟨19, 0, .rc, 0, [], false⟩]⟩,
  ⟨"TRUNC", 0x2C, (1, 4), false, [⟨19, 0, .rc, 0, [], false⟩]⟩,
  ⟨"STALL", 0x30, (1, 4), false, [⟨19, 0, .rc, 0, [], false⟩]⟩]

/-- SEQ.q (R98, spec file 04_light_sequencer_and_tally.md). -/
def RegMap.seq : List RegDesc := [
  ⟨"CTRL", 0x0, (1, 4), false, [⟨8, 8, .rwl, 0, [], false⟩, ⟨7, 4, .rwl, 0xf, [], false⟩, ⟨3, 3, .rws, 0, [], false⟩, ⟨2, 1, .rwl, 0, [], true⟩, ⟨0, 0, .rwl, 0, [], false⟩]⟩,
  ⟨"LEN", 0x4, (1, 4), false, [⟨13, 8, .rwl, 1, [(1, 48)], false⟩, ⟨5, 0, .rwl, 1, [(1, 48)], false⟩]⟩,
  ⟨"FIXED", 0x8, (1, 4), false, [⟨19, 6, .rwl, 0x7c, [], false⟩]⟩,
  ⟨"FIXED_EXP", 0xC, (1, 4), false, [⟨19, 0, .rwl, 0xc8, [(20, 1048575)], false⟩]⟩,
  ⟨"AT_L", 0x10, (1, 4), false, [⟨15, 0, .rwl, 0, [], false⟩]⟩,
  ⟨"AT_H", 0x14, (1, 4), false, [⟨15, 0, .rwl, 0, [], false⟩]⟩,
  ⟨"STATUS", 0x20, (1, 4), false, [⟨13, 8, .ro, 0, [], false⟩, ⟨4, 4, .ro, 0, [], false⟩, ⟨3, 3, .w1c, 0, [], false⟩, ⟨2, 2, .ro, 0, [], false⟩, ⟨1, 1, .ro, 0, [], false⟩, ⟨0, 0, .ro, 0, [], false⟩]⟩,
  ⟨"K0_L", 0x24, (1, 4), false, [⟨15, 0, .ro, 0, [], false⟩]⟩,
  ⟨"K0_H", 0x28, (1, 4), false, [⟨15, 0, .ro, 0, [], false⟩]⟩,
  ⟨"SWK_L", 0x2C, (1, 4), false, [⟨15, 0, .ro, 0, [], false⟩]⟩,
  ⟨"SWK_H", 0x30, (1, 4), false, [⟨15, 0, .ro, 0, [], false⟩]⟩,
  ⟨"WRAP_CNT", 0x34, (1, 4), false, [⟨19, 0, .rc, 0, [], false⟩]⟩,
  ⟨"STEP.0.s.LIGHT", 0x100, (48, 8), false, [⟨19, 6, .rwl, 0, [], false⟩]⟩,
  ⟨"STEP.0.s.EXP", 0x104, (48, 8), false, [⟨19, 0, .rwl, 0xc8, [(20, 1048575)], false⟩]⟩,
  ⟨"STEP.1.s.LIGHT", 0x300, (48, 8), false, [⟨19, 6, .rwl, 0, [], false⟩]⟩,
  ⟨"STEP.1.s.EXP", 0x304, (48, 8), false, [⟨19, 0, .rwl, 0xc8, [(20, 1048575)], false⟩]⟩]

/-- SEAM.s (Seam-wide) (R189, spec file 08_seam_locator.md). -/
def RegMap.seam : List RegDesc := [
  ⟨"CTRL", 0x0, (1, 4), false, [⟨11, 4, .rws, 0x40, [(1, 255)], false⟩, ⟨3, 1, .rws, 0, [], false⟩, ⟨0, 0, .rwl, 0, [], false⟩]⟩,
  ⟨"STATUS", 0x4, (1, 4), false, [⟨1, 1, .ro, 0, [], false⟩, ⟨0, 0, .w1c, 0, [], false⟩]⟩,
  ⟨"MAG.MAG_MIN", 0x10, (1, 4), false, [⟨10, 0, .rws, 0x30, [(0, 1530)], false⟩]⟩,
  ⟨"VOTES.N_MIN", 0x14, (1, 4), false, [⟨8, 0, .rws, 0x20, [(0, 256)], false⟩]⟩,
  ⟨"MASS.M_MIN", 0x18, (1, 4), false, [⟨18, 0, .rws, 0x1000, [(0, 391680)], false⟩]⟩,
  ⟨"DOT", 0x1C, (1, 4), false, [⟨18, 17, .rws, 3, [], false⟩, ⟨16, 8, .rws, 3, [(1, 256)], false⟩, ⟨7, 0, .rws, 0x18, [(1, 255)], false⟩]⟩,
  ⟨"LIN", 0x20, (1, 4), false, [⟨15, 8, .rws, 0x40, [], false⟩, ⟨7, 0, .rws, 0xa0, [], false⟩]⟩,
  ⟨"GRID", 0x24, (1, 4), false, [⟨15, 8, .rws, 0x30, [], false⟩, ⟨7, 0, .rws, 0xb0, [], false⟩]⟩,
  ⟨"ORI.TOL", 0x28, (1, 4), false, [⟨2, 0, .rws, 2, [], false⟩]⟩,
  ⟨"MINT", 0x2C, (1, 4), false, [⟨17, 12, .rws, 2, [(1, 63)], false⟩, ⟨11, 6, .rws, 2, [(1, 63)], false⟩, ⟨5, 0, .rws, 2, [(1, 63)], false⟩]⟩,
  ⟨"LAST.i", 0x40, (16, 4), false, [⟨15, 0, .ro, 0, [], false⟩]⟩]

/-- SEAM.s.C.c (R189, spec file 08_seam_locator.md). -/
def RegMap.sctx : List RegDesc := [
  ⟨"SRC", 0x0, (1, 4), false, [⟨6, 5, .rws, 0, [], false⟩, ⟨4, 3, .rws, 0, [], false⟩, ⟨2, 1, .rws, 0, [(0, 2)], false⟩, ⟨0, 0, .rws, 0, [], false⟩]⟩,
  ⟨"CAND", 0x4, (1, 4), false, [⟨19, 0, .rc, 0, [], false⟩]⟩,
  ⟨"CAND_OVF", 0x8, (1, 4), false, [⟨19, 0, .rc, 0, [], false⟩]⟩,
  ⟨"REG_OVF", 0xC, (1, 4), false, [⟨19, 0, .rc, 0, [], false⟩]⟩,
  ⟨"SMALL", 0x10, (1, 4), false, [⟨19, 0, .rc, 0, [], false⟩]⟩,
  ⟨"RESTART", 0x14, (1, 4), false, [⟨19, 0, .rc, 0, [], false⟩]⟩,
  ⟨"UNPAIRED", 0x18, (1, 4), false, [⟨19, 0, .rc, 0, [], false⟩]⟩,
  ⟨"SLABCNT", 0x1C, (1, 4), false, [⟨10, 0, .ro, 0, [], false⟩]⟩,
  ⟨"CLS.k", 0x20, (6, 4), false, [⟨19, 0, .rc, 0, [], false⟩]⟩]

/-- RIDDLE (R221, spec file 09_riddle_stockpile_kerf.md). -/
def RegMap.riddle : List RegDesc := [
  ⟨"CTRL.EN", 0x0, (1, 4), false, [⟨0, 0, .rwl, 0, [], false⟩]⟩,
  ⟨"STATUS", 0x4, (1, 4), false, [⟨2, 2, .ro, 0, [], false⟩, ⟨1, 1, .ro, 0, [], false⟩, ⟨0, 0, .w1c, 0, [], false⟩]⟩,
  ⟨"GCOMMIT.COMMIT", 0x8, (1, 4), false, [⟨0, 0, .wo, 0, [], false⟩]⟩,
  ⟨"USED", 0xC, (1, 4), false, [⟨12, 0, .ro, 0, [], false⟩]⟩,
  ⟨"JOIN", 0x10, (1, 4), false, [⟨19, 8, .rwl, 0x12c, [], false⟩, ⟨7, 0, .rwl, 0x20, [], false⟩]⟩,
  ⟨"JOIN_LEAD", 0x14, (1, 4), false, [⟨19, 0, .rwl, 0x100, [], false⟩]⟩,
  ⟨"JOIN_TMO", 0x18, (1, 4), false, [⟨15, 0, .rwl, 0x3e8, [(1, 65535)], false⟩]⟩,
  ⟨"DUP_DIST", 0x1C, (1, 4), false, [⟨15, 0, .rwl, 0x7d0, [], false⟩]⟩,
  ⟨"DUP_ANG", 0x20, (1, 4), false, [⟨11, 0, .rwl, 0x1f4, [], false⟩]⟩,
  ⟨"DUP_WIN", 0x24, (1, 4), false, [⟨19, 0, .rwl, 0x4000, [], false⟩]⟩,
  ⟨"BENCHES", 0x28, (1, 4), false, [⟨7, 0, .rwl, 0xff, [], false⟩]⟩,
  ⟨"DONE", 0x2C, (1, 4), false, [⟨13, 12, .wo, 0, [(1, 2)], false⟩, ⟨11, 0, .wo, 0, [], false⟩]⟩,
  ⟨"UPC.e", 0x40, (4, 4), false, [⟨19, 0, .rws, 0x400, [(1, 1048575)], false⟩]⟩,
  ⟨"CLS.i.SCALE", 0x80, (3, 16), false, [⟨10, 0, .rwl, 0x100, [(64, 1024)], false⟩]⟩,
  ⟨"CLS.i.PMARGIN", 0x84, (3, 16), false, [⟨15, 0, .rwl, 0x3e8, [], false⟩]⟩,
  ⟨"CLS.i.DEADLINE", 0x88, (3, 16), false, [⟨14, 0, .rwl, 0xc8, [(1, 25000)], false⟩]⟩,
  ⟨"CLS.i.CUT", 0x8C, (3, 16), false, [⟨8, 1, .rwl, 0xff, [], false⟩, ⟨0, 0, .rwl, 0, [], false⟩]⟩,
  ⟨"GEO.h.A0_L", 0x400, (16, 32), false, [⟨15, 0, .rws, 0, [], false⟩]⟩,
  ⟨"GEO.h.A0_H", 0x404, (16, 32), false, [⟨7, 0, .rws, 0, [], false⟩]⟩,
  ⟨"GEO.h.A1_L", 0x408, (16, 32), false, [⟨15, 0, .rws, 0, [], false⟩]⟩,
  ⟨"GEO.h.A1_H", 0x40C, (16, 32), false, [⟨7, 0, .rws, 1, [], false⟩]⟩,
  ⟨"GEO.h.A2", 0x410, (16, 32), false, [⟨19, 0, .rws, 0, [], false⟩]⟩,
  ⟨"GEO.h.RIGHT", 0x414, (16, 32), false, [⟨4, 4, .rws, 0, [], false⟩, ⟨3, 0, .rws, 0, [], false⟩]⟩,
  ⟨"PAREA.b", 0x600, (8, 16), false, [⟨19, 0, .rwl, 0x80000, [], true⟩]⟩,
  ⟨"PSLOT.b", 0x604, (8, 16), false, [⟨15, 10, .rwl, 0xc, [(1, 63)], true⟩, ⟨9, 0, .rwl, 0x20, [(1, 512)], true⟩]⟩,
  ⟨"OUT.b", 0x608, (8, 16), false, [⟨4, 0, .ro, 0, [], false⟩]⟩,
  ⟨"INQ_OVF", 0x700, (1, 4), false, [⟨19, 0, .rc, 0, [], false⟩]⟩,
  ⟨"NOSTOCK", 0x704, (1, 4), false, [⟨19, 0, .rc, 0, [], false⟩]⟩,
  ⟨"JOINED", 0x708, (1, 4), false, [⟨19, 0, .rc, 0, [], false⟩]⟩,
  ⟨"SOLO", 0x70C, (1, 4), false, [⟨19, 0, .rc, 0, [], false⟩]⟩,
  ⟨"DUP", 0x710, (1, 4), false, [⟨19, 0, .rc, 0, [], false⟩]⟩,
  ⟨"SHADOW", 0x714, (1, 4), false, [⟨19, 0, .rc, 0, [], false⟩]⟩,
  ⟨"RETRY", 0x718, (1, 4), false, [⟨19, 0, .rc, 0, [], false⟩]⟩,
  ⟨"EVICT", 0x71C, (1, 4), false, [⟨19, 0, .rc, 0, [], false⟩]⟩,
  ⟨"EXPIRED", 0x720, (1, 4), false, [⟨19, 0, .rc, 0, [], false⟩]⟩,
  ⟨"CLIPPED", 0x724, (1, 4), false, [⟨19, 0, .rc, 0, [], false⟩]⟩,
  ⟨"REDO", 0x728, (1, 4), false, [⟨19, 0, .rc, 0, [], false⟩]⟩]

/-- KERF.k (R221, spec file 09_riddle_stockpile_kerf.md). -/
def RegMap.kerf : List RegDesc := [
  ⟨"CTRL.EN", 0x0, (1, 4), false, [⟨0, 0, .rwl, 1, [], false⟩]⟩,
  ⟨"FILL", 0x4, (1, 4), false, [⟨7, 0, .rwl, 0, [], false⟩]⟩,
  ⟨"STATUS", 0x8, (1, 4), false, [⟨1, 1, .w1c, 0, [], false⟩, ⟨0, 0, .ro, 0, [], false⟩]⟩,
  ⟨"PIX", 0x10, (1, 4), false, [⟨19, 0, .rc, 0, [], false⟩]⟩,
  ⟨"PARTIAL", 0x14, (1, 4), false, [⟨19, 0, .rc, 0, [], false⟩]⟩,
  ⟨"LATE", 0x18, (1, 4), false, [⟨19, 0, .rc, 0, [], false⟩]⟩,
  ⟨"ABORT", 0x1C, (1, 4), false, [⟨19, 0, .rc, 0, [], false⟩]⟩]

/-- STOCK.h.p (R221, spec file 09_riddle_stockpile_kerf.md). -/
def RegMap.stock : List RegDesc := [
  ⟨"BASE_L", 0x0, (1, 4), false, [⟨19, 0, .rwl, 0, [], true⟩]⟩,
  ⟨"BASE_H", 0x4, (1, 4), false, [⟨7, 0, .rwl, 0, [], true⟩]⟩,
  ⟨"CTRL", 0x8, (1, 4), false, [⟨8, 1, .rwl, 0x1f, [], true⟩, ⟨0, 0, .rwl, 0, [], false⟩]⟩,
  ⟨"NEWEST_L", 0xC, (1, 4), false, [⟨15, 0, .ro, 0, [], false⟩]⟩,
  ⟨"NEWEST_H", 0x10, (1, 4), false, [⟨15, 0, .ro, 0, [], false⟩]⟩,
  ⟨"CLOSED_L", 0x14, (1, 4), false, [⟨15, 0, .ro, 0, [], false⟩]⟩,
  ⟨"CLOSED_H", 0x18, (1, 4), false, [⟨15, 0, .ro, 0, [], false⟩]⟩,
  ⟨"EPOCH", 0x1C, (1, 4), false, [⟨7, 0, .ro, 0, [], false⟩]⟩]

/-- BENCH.b (R284, spec file 12_benches_and_hewers.md). -/
def RegMap.bench : List RegDesc := [
  ⟨"STATUS", 0x0, (1, 4), false, [⟨2, 2, .ro, 0, [], false⟩, ⟨1, 1, .ro, 0, [], false⟩, ⟨0, 0, .w1c, 0, [], false⟩]⟩,
  ⟨"HCTRL.h", 0x100, (8, 32), false, [⟨2, 2, .wo, 0, [], false⟩, ⟨1, 1, .wo, 0, [], false⟩, ⟨0, 0, .rwl, 0, [], false⟩]⟩,
  ⟨"START.h", 0x104, (8, 32), false, [⟨14, 0, .rwl, 0, [], false⟩]⟩,
  ⟨"HSTAT.h", 0x108, (8, 32), false, [⟨4, 4, .ro, 0, [], false⟩, ⟨3, 3, .ro, 0, [], false⟩, ⟨2, 2, .ro, 0, [], false⟩, ⟨1, 1, .ro, 0, [], false⟩, ⟨0, 0, .ro, 0, [], false⟩]⟩,
  ⟨"PC.h", 0x10C, (8, 32), false, [⟨14, 0, .ro, 0, [], false⟩]⟩,
  ⟨"ILLADR.h", 0x110, (8, 32), false, [⟨14, 0, .ro, 0, [], false⟩]⟩,
  ⟨"MA_SEL", 0x400, (1, 4), false, [⟨4, 2, .rwl, 0, [], false⟩, ⟨1, 0, .rwl, 0, [(0, 2)], false⟩]⟩,
  ⟨"MA_ADDR", 0x404, (1, 4), false, [⟨19, 0, .rwl, 0, [], false⟩]⟩,
  ⟨"MA_DATA", 0x408, (1, 4), false, [⟨19, 0, .rwl, 0, [], false⟩]⟩,
  ⟨"MA_DATAH", 0x40C, (1, 4), false, [⟨19, 0, .rwl, 0, [], false⟩]⟩,
  ⟨"TQ.TAKE", 0x80000, (1, 4), false, [⟨4, 4, .rc, 0, [], false⟩, ⟨3, 0, .rc, 0, [], false⟩]⟩,
  ⟨"TQ.FREE", 0x80004, (1, 4), false, [⟨4, 4, .wo, 0, [], false⟩, ⟨3, 0, .wo, 0, [], false⟩]⟩,
  ⟨"TQ.LEVEL", 0x80008, (1, 4), false, [⟨9, 5, .ro, 0, [], false⟩, ⟨4, 0, .ro, 0, [], false⟩]⟩,
  ⟨"TQ.STATUS.CFGERR", 0x8000C, (1, 4), false, [⟨0, 0, .w1c, 0, [], false⟩]⟩,
  ⟨"TQ.ENT.e.0", 0x80100, (16, 128), false, [⟨19, 0, .ro, 0, [], false⟩]⟩,
  ⟨"TQ.ENT.e.1", 0x80104, (16, 128), false, [⟨19, 0, .ro, 0, [], false⟩]⟩,
  ⟨"TQ.ENT.e.2", 0x80108, (16, 128), false, [⟨19, 0, .ro, 0, [], false⟩]⟩,
  ⟨"TQ.ENT.e.3", 0x8010c, (16, 128), false, [⟨19, 0, .ro, 0, [], false⟩]⟩,
  ⟨"TQ.ENT.e.4", 0x80110, (16, 128), false, [⟨19, 0, .ro, 0, [], false⟩]⟩,
  ⟨"TQ.ENT.e.5", 0x80114, (16, 128), false, [⟨19, 0, .ro, 0, [], false⟩]⟩,
  ⟨"TQ.ENT.e.6", 0x80118, (16, 128), false, [⟨19, 0, .ro, 0, [], false⟩]⟩,
  ⟨"TQ.ENT.e.7", 0x8011c, (16, 128), false, [⟨19, 0, .ro, 0, [], false⟩]⟩,
  ⟨"TQ.ENT.e.8", 0x80120, (16, 128), false, [⟨19, 0, .ro, 0, [], false⟩]⟩,
  ⟨"TQ.ENT.e.9", 0x80124, (16, 128), false, [⟨19, 0, .ro, 0, [], false⟩]⟩,
  ⟨"TQ.ENT.e.10", 0x80128, (16, 128), false, [⟨19, 0, .ro, 0, [], false⟩]⟩,
  ⟨"TQ.ENT.e.11", 0x8012c, (16, 128), false, [⟨19, 0, .ro, 0, [], false⟩]⟩,
  ⟨"TQ.ENT.e.12", 0x80130, (16, 128), false, [⟨19, 0, .ro, 0, [], false⟩]⟩,
  ⟨"TQ.ENT.e.13", 0x80134, (16, 128), false, [⟨19, 0, .ro, 0, [], false⟩]⟩,
  ⟨"TQ.ENT.e.14", 0x80138, (16, 128), false, [⟨19, 0, .ro, 0, [], false⟩]⟩,
  ⟨"TQ.ENT.e.15", 0x8013c, (16, 128), false, [⟨19, 0, .ro, 0, [], false⟩]⟩,
  ⟨"TQ.ENT.e.16", 0x80140, (16, 128), false, [⟨19, 0, .ro, 0, [], false⟩]⟩,
  ⟨"TQ.ENT.e.17", 0x80144, (16, 128), false, [⟨19, 0, .ro, 0, [], false⟩]⟩,
  ⟨"TQ.ENT.e.18", 0x80148, (16, 128), false, [⟨19, 0, .ro, 0, [], false⟩]⟩,
  ⟨"TQ.ENT.e.19", 0x8014c, (16, 128), false, [⟨19, 0, .ro, 0, [], false⟩]⟩,
  ⟨"DMA.c.DADDR_L", 0x90000, (9, 64), false, [⟨19, 0, .rwl, 0, [], true⟩]⟩,
  ⟨"DMA.c.DADDR_H", 0x90004, (9, 64), false, [⟨19, 0, .rwl, 0, [], true⟩]⟩,
  ⟨"DMA.c.LOCAL", 0x90008, (9, 64), false, [⟨19, 0, .rwl, 0x80000, [], true⟩]⟩,
  ⟨"DMA.c.COUNT", 0x9000C, (9, 64), false, [⟨19, 0, .rwl, 0, [(0, 524288)], true⟩]⟩,
  ⟨"DMA.c.CFG", 0x90010, (9, 64), false, [⟨7, 6, .rwl, 2, [(0, 2)], true⟩, ⟨5, 3, .rwl, 0, [], true⟩, ⟨2, 1, .rwl, 0, [(0, 2)], true⟩, ⟨0, 0, .rwl, 0, [], true⟩]⟩,
  ⟨"DMA.c.GO", 0x90014, (9, 64), false, [⟨0, 0, .wo, 0, [], false⟩]⟩,
  ⟨"DMA.c.STAT", 0x90018, (9, 64), false, [⟨7, 5, .ro, 0, [], false⟩, ⟨4, 4, .w1c, 0, [], false⟩, ⟨3, 3, .ro, 0, [], false⟩, ⟨2, 2, .ro, 0, [], false⟩, ⟨1, 1, .ro, 0, [], false⟩, ⟨0, 0, .ro, 0, [], false⟩]⟩,
  ⟨"DMA.c.XFER", 0x9001C, (9, 64), false, [⟨19, 0, .ro, 0, [], false⟩]⟩,
  ⟨"WHO", 0xA0000, (1, 4), false, [⟨6, 0, .ro, 0, [], false⟩]⟩,
  ⟨"TIME_L", 0xA0004, (1, 4), false, [⟨19, 0, .ro, 0, [], false⟩]⟩,
  ⟨"TIME_M", 0xA0008, (1, 4), false, [⟨19, 0, .ro, 0, [], false⟩]⟩,
  ⟨"TIME_H", 0xA000C, (1, 4), false, [⟨19, 0, .ro, 0, [], false⟩]⟩,
  ⟨"CYC_L", 0xA0010, (1, 4), false, [⟨19, 0, .ro, 0, [], false⟩]⟩,
  ⟨"CYC_M", 0xA0014, (1, 4), false, [⟨19, 0, .ro, 0, [], false⟩]⟩,
  ⟨"CYC_H", 0xA0018, (1, 4), false, [⟨19, 0, .ro, 0, [], false⟩]⟩,
  ⟨"CMP.h.BLOCK", 0xB0000, (8, 16), false, [⟨19, 0, .rwl, 0x80000, [(524288, 1048575)], true⟩]⟩,
  ⟨"CMP.h.GO", 0xB0004, (8, 16), false, [⟨14, 14, .wo, 0, [], false⟩, ⟨13, 12, .wo, 0, [], false⟩, ⟨11, 0, .wo, 0, [], false⟩]⟩,
  ⟨"CMP.h.STAT", 0xB0008, (8, 16), false, [⟨3, 3, .w1c, 0, [], false⟩, ⟨2, 2, .ro, 0, [], false⟩, ⟨1, 1, .ro, 0, [], false⟩, ⟨0, 0, .ro, 0, [], false⟩]⟩,
  ⟨"ECC.CLAIM.OWNER", 0xC0000, (1, 4), false, [⟨7, 0, .rwl, 0, [], false⟩]⟩,
  ⟨"ECC.CFG", 0xC0004, (1, 4), false, [⟨7, 1, .rwl, 1, [], true⟩, ⟨0, 0, .rwl, 0, [], true⟩]⟩,
  ⟨"ECC.POLY", 0xC0008, (1, 4), false, [⟨8, 0, .rwl, 0x12d, [(256, 511)], true⟩]⟩,
  ⟨"ECC.ALPHA", 0xC000C, (1, 4), false, [⟨6, 0, .rwl, 3, [(2, 112)], true⟩]⟩,
  ⟨"ECC.LEN", 0xC0010, (1, 4), false, [⟨14, 8, .rwl, 0xc, [], true⟩, ⟨7, 0, .rwl, 0x18, [], true⟩]⟩,
  ⟨"ECC.CW", 0xC0014, (1, 4), false, [⟨19, 0, .rwl, 0x80000, [(524288, 1048575)], true⟩]⟩,
  ⟨"ECC.ERA", 0xC0018, (1, 4), false, [⟨19, 0, .rwl, 0x80000, [(524288, 1048575)], true⟩]⟩] ++ [
  ⟨"ECC.NERA", 0xC001C, (1, 4), false, [⟨7, 0, .rwl, 0, [], true⟩]⟩,
  ⟨"ECC.GO", 0xC0020, (1, 4), false, [⟨0, 0, .wo, 0, [], false⟩]⟩,
  ⟨"ECC.STATUS", 0xC0024, (1, 4), false, [⟨7, 7, .w1c, 0, [], false⟩, ⟨6, 6, .ro, 0, [], false⟩, ⟨5, 5, .ro, 0, [], false⟩, ⟨4, 4, .ro, 0, [], false⟩, ⟨3, 3, .ro, 0, [], false⟩, ⟨2, 2, .ro, 0, [], false⟩, ⟨1, 1, .ro, 0, [], false⟩, ⟨0, 0, .ro, 0, [], false⟩]⟩,
  ⟨"ECC.RES0", 0xC0028, (1, 4), false, [⟨15, 8, .ro, 0, [], false⟩, ⟨7, 0, .ro, 0, [], false⟩]⟩,
  ⟨"ECC.RES1.SPARE", 0xC002C, (1, 4), false, [⟨7, 0, .ro, 0, [], false⟩]⟩,
  ⟨"ECC.JOBS", 0xC0030, (1, 4), false, [⟨19, 0, .rc, 0, [], false⟩]⟩,
  ⟨"ECC.FAILS", 0xC0034, (1, 4), false, [⟨19, 0, .rc, 0, [], false⟩]⟩]

/-- PCIE (R483, spec file 21_host_link_and_address_map.md). -/
def RegMap.pcie : List RegDesc := [
  ⟨"CTRL", 0x0, (1, 4), false, [⟨1, 1, .rwl, 0, [], false⟩, ⟨0, 0, .rwl, 0, [], false⟩]⟩,
  ⟨"STATUS", 0x4, (1, 4), false, [⟨11, 11, .w1c, 0, [], false⟩, ⟨10, 10, .ro, 0, [], false⟩, ⟨9, 9, .ro, 0, [], false⟩, ⟨8, 8, .ro, 0, [], false⟩, ⟨7, 4, .ro, 0, [], false⟩, ⟨3, 0, .ro, 0, [], false⟩]⟩,
  ⟨"MIR_BASE_L", 0x10, (1, 4), false, [⟨19, 0, .rwl, 0, [], true⟩]⟩,
  ⟨"MIR_BASE_H", 0x14, (1, 4), false, [⟨19, 0, .rwl, 0, [], true⟩]⟩,
  ⟨"RES_BASE_L", 0x20, (1, 4), false, [⟨19, 0, .rwl, 0, [], true⟩]⟩,
  ⟨"RES_BASE_H", 0x24, (1, 4), false, [⟨19, 0, .rwl, 0, [], true⟩]⟩,
  ⟨"RES_SIZE", 0x28, (1, 4), false, [⟨2, 0, .rwl, 0, [(0, 6)], true⟩]⟩,
  ⟨"RES_PROD", 0x2C, (1, 4), false, [⟨19, 0, .ro, 0, [], false⟩]⟩,
  ⟨"RES_CONS", 0x30, (1, 4), false, [⟨19, 0, .rwl, 0, [], false⟩]⟩,
  ⟨"PAY_BASE_L", 0x40, (1, 4), false, [⟨19, 0, .rwl, 0, [], true⟩]⟩,
  ⟨"PAY_BASE_H", 0x44, (1, 4), false, [⟨19, 0, .rwl, 0, [], true⟩]⟩,
  ⟨"PAY_SIZE", 0x48, (1, 4), false, [⟨13, 0, .rwl, 0x20, [(32, 16383)], true⟩]⟩,
  ⟨"PAY_PROD", 0x4C, (1, 4), false, [⟨19, 0, .ro, 0, [], false⟩]⟩,
  ⟨"PAY_CONS", 0x50, (1, 4), false, [⟨19, 0, .rwl, 0, [], false⟩]⟩,
  ⟨"POISON", 0x64, (1, 4), false, [⟨19, 0, .rc, 0, [], false⟩]⟩,
  ⟨"LINKDN", 0x68, (1, 4), false, [⟨19, 0, .rc, 0, [], false⟩]⟩,
  ⟨"STREAM.r.CTRL.EN", 0x100, (48, 32), false, [⟨0, 0, .rwl, 0, [], false⟩]⟩,
  ⟨"STREAM.r.BASE_L", 0x104, (48, 32), false, [⟨19, 0, .rwl, 0, [], true⟩]⟩,
  ⟨"STREAM.r.BASE_H", 0x108, (48, 32), false, [⟨19, 0, .rwl, 0, [], true⟩]⟩,
  ⟨"STREAM.r.SIZE", 0x10C, (48, 32), false, [⟨3, 0, .rwl, 0, [(0, 9)], true⟩]⟩,
  ⟨"STREAM.r.PROD", 0x110, (48, 32), false, [⟨19, 0, .ro, 0, [], false⟩]⟩,
  ⟨"STREAM.r.CONS", 0x114, (48, 32), false, [⟨19, 0, .rwl, 0, [], false⟩]⟩,
  ⟨"STREAM.r.LOST", 0x118, (48, 32), false, [⟨19, 0, .rc, 0, [], false⟩]⟩]

/-- FOREMAN (R488, spec file 21_host_link_and_address_map.md). -/
def RegMap.foreman : List RegDesc := [
  ⟨"SW.ADDR_L", 0x0, (1, 4), false, [⟨19, 0, .rwl, 0, [], false⟩]⟩,
  ⟨"SW.ADDR_H", 0x4, (1, 4), false, [⟨19, 0, .rwl, 0, [], false⟩]⟩,
  ⟨"SW.WDATA", 0x8, (1, 4), false, [⟨19, 0, .rwl, 0, [], false⟩]⟩,
  ⟨"SW.CMD", 0xC, (1, 4), false, [⟨1, 0, .wo, 0, [], false⟩]⟩,
  ⟨"SW.DONE", 0x10, (1, 4), false, [⟨19, 0, .ro, 0, [], false⟩]⟩,
  ⟨"SW.PEND", 0x14, (1, 4), false, [⟨3, 0, .ro, 0, [], false⟩]⟩,
  ⟨"SW.STATUS.CFGERR", 0x18, (1, 4), false, [⟨0, 0, .w1c, 0, [], false⟩]⟩,
  ⟨"SW.RDATA.i", 0x20, (8, 4), false, [⟨19, 0, .ro, 0, [], false⟩]⟩]

/-- The blocks of the fabric address map that hold registers (R485). -/
def RegMap.blocks : List BlockDesc := [
  ⟨.sys, 0x0, (1, 0x400000), (1, 0x400000), RegMap.sys⟩,
  ⟨.pwr, 0x10000, (1, 0x400000), (1, 0x400000), RegMap.pwr⟩,
  ⟨.clk, 0x20000, (1, 0x400000), (1, 0x400000), RegMap.clk⟩,
  ⟨.enc, 0x30000, (4, 0x100), (1, 0x400000), RegMap.enc⟩,
  ⟨.trgc, 0x30400, (4, 0x40), (1, 0x400000), RegMap.trgc⟩,
  ⟨.trgh, 0x30800, (16, 0x40), (1, 0x400000), RegMap.trgh⟩,
  ⟨.gpio, 0x30C00, (1, 0x400000), (1, 0x400000), RegMap.gpio⟩,
  ⟨.sync, 0x30E00, (1, 0x400000), (1, 0x400000), RegMap.sync⟩,
  ⟨.uart, 0x40000, (2, 0x1000), (1, 0x400000), RegMap.uart⟩,
  ⟨.mbxFar, 0x50000, (80, 0x100), (1, 0x400000), RegMap.mbxFar⟩,
  ⟨.mbxNear, 0x58000, (8, 0x100), (1, 0x400000), RegMap.mbxNear⟩,
  ⟨.spoil, 0x60000, (1, 0x400000), (1, 0x400000), RegMap.spoil⟩,
  ⟨.port, 0x100000, (16, 0x1000), (1, 0x400000), RegMap.port⟩,
  ⟨.face, 0x200000, (4, 0x10000), (1, 0x400000), RegMap.face⟩,
  ⟨.fctx, 0x200100, (4, 0x10000), (4, 0x100), RegMap.fctx⟩,
  ⟨.fsrc, 0x200800, (4, 0x10000), (4, 0x80), RegMap.fsrc⟩,
  ⟨.seq, 0x300000, (4, 0x1000), (1, 0x400000), RegMap.seq⟩,
  ⟨.seam, 0x400000, (4, 0x10000), (1, 0x400000), RegMap.seam⟩,
  ⟨.sctx, 0x400100, (4, 0x10000), (4, 0x40), RegMap.sctx⟩,
  ⟨.riddle, 0x500000, (1, 0x400000), (1, 0x400000), RegMap.riddle⟩,
  ⟨.kerf, 0x510000, (8, 0x1000), (1, 0x400000), RegMap.kerf⟩,
  ⟨.stock, 0x600100, (16, 0x80), (4, 0x20), RegMap.stock⟩,
  ⟨.bench, 0x1000000, (8, 0x100000), (1, 0x400000), RegMap.bench⟩,
  ⟨.pcie, 0x2100000, (1, 0x400000), (1, 0x400000), RegMap.pcie⟩,
  ⟨.foreman, 0x3000000, (1, 0x400000), (1, 0x400000), RegMap.foreman⟩]

/-- The register of a list at an offset, with its array index. -/
def RegMap.inRegs (off : Nat) : List RegDesc → Option (Nat × RegDesc)
  | [] => none
  | d :: ds =>
    if d.off ≤ off ∧ (off - d.off) % d.arr.2 = 0 ∧ (off - d.off) / d.arr.2 < d.arr.1 then
      some ((off - d.off) / d.arr.2, d)
    else inRegs off ds

/-- The register of a block at a fabric address. -/
def BlockDesc.find (b : BlockDesc) (a : Nat) : Option Hit :=
  if a < b.base then none else
  let x := a - b.base
  let i := x / b.i1.2
  let y := x % b.i1.2
  let j := y / b.i2.2
  if i < b.i1.1 ∧ j < b.i2.1 then
    (RegMap.inRegs (y % b.i2.2) b.regs).map (fun p => ⟨b.id, i, j, p.1, p.2⟩)
  else none

/-- The register at a fabric address, if a block assigns one there (R485, R486). -/
def RegMap.find (a : Nat) : Option Hit := RegMap.blocks.findSome? (fun b => b.find a)

/-- The reset value of a found register; UART0 alone resets MUTE and ADDR to 1 (R397). -/
def Hit.reset (h : Hit) : Word :=
  if h.blk = .uart ∧ h.i = 1 ∧ h.desc.off = 0x00 then 0x3
  else if h.blk = .uart ∧ h.i = 1 ∧ h.desc.off = 0x08 then 0x0
  else h.desc.reset

/-- The reset value of the register at an address; 0 where there is none (R486). -/
def RegMap.reset (a : Nat) : Word :=
  match RegMap.find a with
  | some h => h.reset
  | none => 0

/-- The power domain of a found register (R12, R485); far ends of boxes lie in the domain of their owner (R333). -/
def Hit.domain (h : Hit) : Nat :=
  match h.blk with
  | .pwr | .clk | .enc | .trgc | .trgh | .gpio | .sync | .uart | .spoil => 0
  | .sys | .mbxNear | .pcie | .foreman => 1
  | .port => if h.i < 8 then 2 else 3
  | .face | .fctx | .fsrc | .seq => if h.i < 2 then 2 else 3
  | .seam | .sctx | .riddle | .kerf | .stock => 4
  | .bench => if h.i < 4 then 5 else 6
  | .mbxFar => if h.i < 32 then 5 else if h.i < 64 then 6 else if h.i < 68 then 5 else if h.i < 72 then 6 else 1

/-- The bits of a register that some field holds; the others read 0 and ignore writes (R7). -/
def RegDesc.mask (d : RegDesc) : Word :=
  d.flds.foldl (fun w f => f.put w (2 ^ (f.hi + 1 - f.lo) - 1)) 0

/-- Marked (kept): the register keeps its value through Reset, Boot and Standby (R56). -/
def RegMap.kept (a : Nat) : Bool :=
  match RegMap.find a with
  | some h => h.desc.kept
  | none => false

namespace Adr

/-- `SYS PART` -/
def sysPart : Nat := 0x0
/-- `SYS VARIANT` -/
def sysVariant : Nat := 0x4
/-- `SYS STEP` -/
def sysStep : Nat := 0x8
/-- `SYS SERIAL_L` -/
def sysSerialL : Nat := 0xC
/-- `SYS SERIAL_H` -/
def sysSerialH : Nat := 0x10
/-- `SYS FWF_L` -/
def sysFwfL : Nat := 0x14
/-- `SYS FWF_H` -/
def sysFwfH : Nat := 0x18
/-- `SYS FWB_L` -/
def sysFwbL : Nat := 0x1C
/-- `SYS FWB_H` -/
def sysFwbH : Nat := 0x20
/-- `SYS STATE` -/
def sysState : Nat := 0x40
/-- `SYS BOOT` -/
def sysBoot : Nat := 0x44
/-- `SYS RECOV` -/
def sysRecov : Nat := 0x48
/-- `PWR and THERM DOM` -/
def pwrDom : Nat := 0x10000
/-- `PWR and THERM REQ` -/
def pwrReq : Nat := 0x10004
/-- `PWR and THERM VMAIN` -/
def pwrVmain : Nat := 0x10010
/-- `PWR and THERM VSTBY` -/
def pwrVstby : Nat := 0x10014
/-- `PWR and THERM IMAIN` -/
def pwrImain : Nat := 0x10018
/-- `PWR and THERM WAKE` -/
def pwrWake : Nat := 0x10020
/-- `PWR and THERM WAKESRC` -/
def pwrWakesrc : Nat := 0x10024
/-- `PWR and THERM STATUS` -/
def pwrStatus : Nat := 0x10028
/-- `PWR and THERM PDP` -/
def pwrPdp (k : Nat) : Nat := 0x10040 + 0x4 * k
/-- `PWR and THERM THERM.T` -/
def pwrThermT (k : Nat) : Nat := 0x10080 + 0x4 * k
/-- `PWR and THERM THERM.CTRL` -/
def pwrThermCtrl : Nat := 0x100A0
/-- `PWR and THERM THERM.STATUS` -/
def pwrThermStatus : Nat := 0x100A4
/-- `PWR and THERM THERM.PEAK` -/
def pwrThermPeak : Nat := 0x100A8
/-- `PWR and THERM THERM.THR_CNT` -/
def pwrThermThrCnt : Nat := 0x100AC
/-- `CLK STATUS` -/
def clkStatus : Nat := 0x20000
/-- `ENC.e CTRL` -/
def encCtrl (i : Nat) : Nat := 0x30000 + 0x100 * i
/-- `ENC.e MIN_EDGE` -/
def encMinEdge (i : Nat) : Nat := 0x30004 + 0x100 * i
/-- `ENC.e WINDOW` -/
def encWindow (i : Nat) : Nat := 0x30008 + 0x100 * i
/-- `ENC.e STANDSTILL` -/
def encStandstill (i : Nat) : Nat := 0x3000C + 0x100 * i
/-- `ENC.e GLITCH_LIM` -/
def encGlitchLim (i : Nat) : Nat := 0x30010 + 0x100 * i
/-- `ENC.e INDEX_PERIOD` -/
def encIndexPeriod (i : Nat) : Nat := 0x30014 + 0x100 * i
/-- `ENC.e INDEX_TOL` -/
def encIndexTol (i : Nat) : Nat := 0x30018 + 0x100 * i
/-- `ENC.e POS_L` -/
def encPosL (i : Nat) : Nat := 0x30020 + 0x100 * i
/-- `ENC.e POS_M` -/
def encPosM (i : Nat) : Nat := 0x30024 + 0x100 * i
/-- `ENC.e POS_H` -/
def encPosH (i : Nat) : Nat := 0x30028 + 0x100 * i
/-- `ENC.e PRESET_L` -/
def encPresetL (i : Nat) : Nat := 0x3002C + 0x100 * i
/-- `ENC.e PRESET_M` -/
def encPresetM (i : Nat) : Nat := 0x30030 + 0x100 * i
/-- `ENC.e PRESET_H` -/
def encPresetH (i : Nat) : Nat := 0x30034 + 0x100 * i
/-- `ENC.e SPEED` -/
def encSpeed (i : Nat) : Nat := 0x30038 + 0x100 * i
/-- `ENC.e STATUS` -/
def encStatus (i : Nat) : Nat := 0x3003C + 0x100 * i
/-- `ENC.e IDX_L` -/
def encIdxL (i : Nat) : Nat := 0x30040 + 0x100 * i
/-- `ENC.e IDX_M` -/
def encIdxM (i : Nat) : Nat := 0x30044 + 0x100 * i
/-- `ENC.e IDX_H` -/
def encIdxH (i : Nat) : Nat := 0x30048 + 0x100 * i
/-- `ENC.e IDX_DEV` -/
def encIdxDev (i : Nat) : Nat := 0x3004C + 0x100 * i
/-- `ENC.e GLITCH_CNT` -/
def encGlitchCnt (i : Nat) : Nat := 0x30050 + 0x100 * i
/-- `ENC.e SLIP_CNT` -/
def encSlipCnt (i : Nat) : Nat := 0x30054 + 0x100 * i
/-- `ENC.e IFAULT_CNT` -/
def encIfaultCnt (i : Nat) : Nat := 0x30058 + 0x100 * i
/-- `ENC.e SNAP_CNT` -/
def encSnapCnt (i : Nat) : Nat := 0x3005C + 0x100 * i
/-- `TRG.c CTRL` -/
def trgcCtrl (i : Nat) : Nat := 0x30400 + 0x40 * i
/-- `TRG.c PITCH_INT` -/
def trgcPitchInt (i : Nat) : Nat := 0x30404 + 0x40 * i
/-- `TRG.c PITCH_FRAC` -/
def trgcPitchFrac (i : Nat) : Nat := 0x30408 + 0x40 * i
/-- `TRG.c ORG_L` -/
def trgcOrgL (i : Nat) : Nat := 0x3040C + 0x40 * i
/-- `TRG.c ORG_M` -/
def trgcOrgM (i : Nat) : Nat := 0x30410 + 0x40 * i
/-- `TRG.c ORG_H` -/
def trgcOrgH (i : Nat) : Nat := 0x30414 + 0x40 * i
/-- `TRG.c ORG_F` -/
def trgcOrgF (i : Nat) : Nat := 0x30418 + 0x40 * i
/-- `TRG.c K_L` -/
def trgcKL (i : Nat) : Nat := 0x3041C + 0x40 * i
/-- `TRG.c K_M` -/
def trgcKM (i : Nat) : Nat := 0x30420 + 0x40 * i
/-- `TRG.c K_H` -/
def trgcKH (i : Nat) : Nat := 0x30424 + 0x40 * i
/-- `TRG.h CTRL` -/
def trghCtrl (i : Nat) : Nat := 0x30800 + 0x40 * i
/-- `TRG.h DELAY_L` -/
def trghDelayL (i : Nat) : Nat := 0x30804 + 0x40 * i
/-- `TRG.h DELAY_H` -/
def trghDelayH (i : Nat) : Nat := 0x30808 + 0x40 * i
/-- `TRG.h MIN_INT` -/
def trghMinInt (i : Nat) : Nat := 0x3080C + 0x40 * i
/-- `TRG.h SLAB` -/
def trghSlab (i : Nat) : Nat := 0x30810 + 0x40 * i
/-- `TRG.h SKIP_CNT` -/
def trghSkipCnt (i : Nat) : Nat := 0x30814 + 0x40 * i
/-- `TRG.h TAG_LEVEL` -/
def trghTagLevel (i : Nat) : Nat := 0x30818 + 0x40 * i
/-- `TRG.h TAG_OVF` -/
def trghTagOvf (i : Nat) : Nat := 0x3081C + 0x40 * i
/-- `GPIO OUT` -/
def gpioOut : Nat := 0x30C00
/-- `GPIO OE` -/
def gpioOe : Nat := 0x30C04
/-- `GPIO IN` -/
def gpioIn : Nat := 0x30C08
/-- `GPIO EV_L` -/
def gpioEvL : Nat := 0x30C10
/-- `GPIO EV_M` -/
def gpioEvM : Nat := 0x30C14
/-- `GPIO EV_H` -/
def gpioEvH : Nat := 0x30C18
/-- `GPIO EV_CTRL` -/
def gpioEvCtrl : Nat := 0x30C1C
/-- `GPIO EV_PUSH` -/
def gpioEvPush : Nat := 0x30C20
/-- `GPIO EV_PEND` -/
def gpioEvPend : Nat := 0x30C24
/-- `GPIO EV_DROP` -/
def gpioEvDrop : Nat := 0x30C28
/-- `SYNC CTRL` -/
def syncCtrl : Nat := 0x30E00
/-- `SYNC LAT` -/
def syncLat : Nat := 0x30E04
/-- `SYNC STATUS` -/
def syncStatus : Nat := 0x30E08
/-- `UARTu CTRL` -/
def uartCtrl (i : Nat) : Nat := 0x40000 + 0x1000 * i
/-- `UARTu DIV` -/
def uartDiv (i : Nat) : Nat := 0x40004 + 0x1000 * i
/-- `UARTu FMT` -/
def uartFmt (i : Nat) : Nat := 0x40008 + 0x1000 * i
/-- `UARTu NODE` -/
def uartNode (i : Nat) : Nat := 0x4000C + 0x1000 * i
/-- `UARTu DE` -/
def uartDe (i : Nat) : Nat := 0x40010 + 0x1000 * i
/-- `UARTu TX` -/
def uartTx (i : Nat) : Nat := 0x40014 + 0x1000 * i
/-- `UARTu RX` -/
def uartRx (i : Nat) : Nat := 0x40018 + 0x1000 * i
/-- `UARTu STATUS` -/
def uartStatus (i : Nat) : Nat := 0x4001C + 0x1000 * i
/-- `UARTu FE_CNT` -/
def uartFeCnt (i : Nat) : Nat := 0x40020 + 0x1000 * i
/-- `UARTu PE_CNT` -/
def uartPeCnt (i : Nat) : Nat := 0x40024 + 0x1000 * i
/-- `UARTu GLITCH_CNT` -/
def uartGlitchCnt (i : Nat) : Nat := 0x40028 + 0x1000 * i
/-- `UARTu OE_CNT` -/
def uartOeCnt (i : Nat) : Nat := 0x4002C + 0x1000 * i
/-- `MBX far end of box n TX` -/
def mbxFarTx (i : Nat) : Nat := 0x50000 + 0x100 * i
/-- `MBX far end of box n TXL` -/
def mbxFarTxl (i : Nat) : Nat := 0x50004 + 0x100 * i
/-- `MBX far end of box n RX` -/
def mbxFarRx (i : Nat) : Nat := 0x50008 + 0x100 * i
/-- `MBX far end of box n STAT` -/
def mbxFarStat (i : Nat) : Nat := 0x5000C + 0x100 * i
/-- `MBX far end of box n WEDGE` -/
def mbxFarWedge (i : Nat) : Nat := 0x50010 + 0x100 * i
/-- `MBX far end of box n CTRL` -/
def mbxFarCtrl (i : Nat) : Nat := 0x50014 + 0x100 * i
/-- `MBX host near end of box 72+k TX` -/
def mbxNearTx (i : Nat) : Nat := 0x58000 + 0x100 * i
/-- `MBX host near end of box 72+k TXL` -/
def mbxNearTxl (i : Nat) : Nat := 0x58004 + 0x100 * i
/-- `MBX host near end of box 72+k RX` -/
def mbxNearRx (i : Nat) : Nat := 0x58008 + 0x100 * i
/-- `MBX host near end of box 72+k STAT` -/
def mbxNearStat (i : Nat) : Nat := 0x5800C + 0x100 * i
/-- `MBX host near end of box 72+k WEDGE.a` -/
def mbxNearWedge (i : Nat) (k : Nat) : Nat := 0x58080 + 0x100 * i + 0x4 * k
/-- `SPOIL STATUS` -/
def spoilStatus : Nat := 0x60000
/-- `SPOIL LOST` -/
def spoilLost : Nat := 0x60004
/-- `SPOIL ENT.i`: HDR, REP at + 4, TIME.0 to TIME.3 from + 8, DET.0 to DET.3 from + 0x18 -/
def spoilEnt (k : Nat) : Nat := 0x60100 + 0x40 * k
/-- `PORT.p CTRL` -/
def portCtrl (i : Nat) : Nat := 0x100000 + 0x1000 * i
/-- `PORT.p PHY.RATE` -/
def portPhyRate (i : Nat) : Nat := 0x100004 + 0x1000 * i
/-- `PORT.p IMG0_FILT` -/
def portImg0Filt (i : Nat) : Nat := 0x100008 + 0x1000 * i
/-- `PORT.p IMG1_FILT` -/
def portImg1Filt (i : Nat) : Nat := 0x10000C + 0x1000 * i
/-- `PORT.p IMG0_WIDTH` -/
def portImg0Width (i : Nat) : Nat := 0x100010 + 0x1000 * i
/-- `PORT.p IMG1_WIDTH` -/
def portImg1Width (i : Nat) : Nat := 0x100014 + 0x1000 * i
/-- `PORT.p EMB_FILT` -/
def portEmbFilt (i : Nat) : Nat := 0x100018 + 0x1000 * i
/-- `PORT.p CNT` -/
def portCnt (i : Nat) : Nat := 0x10001C + 0x1000 * i
/-- `PORT.p CNT_OFS` -/
def portCntOfs (i : Nat) : Nat := 0x100020 + 0x1000 * i
/-- `PORT.p FILL` -/
def portFill (i : Nat) : Nat := 0x100024 + 0x1000 * i
/-- `PORT.p TMO_FS` -/
def portTmoFs (i : Nat) : Nat := 0x100028 + 0x1000 * i
/-- `PORT.p TMO_FE` -/
def portTmoFe (i : Nat) : Nat := 0x10002C + 0x1000 * i
/-- `PORT.p STATUS` -/
def portStatus (i : Nat) : Nat := 0x100030 + 0x1000 * i
/-- `PORT.p LAST0` -/
def portLast0 (i : Nat) : Nat := 0x100034 + 0x1000 * i
/-- `PORT.p LAST1` -/
def portLast1 (i : Nat) : Nat := 0x100038 + 0x1000 * i
/-- `PORT.p FLAGS0` -/
def portFlags0 (i : Nat) : Nat := 0x10003C + 0x1000 * i
/-- `PORT.p FLAGS1` -/
def portFlags1 (i : Nat) : Nat := 0x100040 + 0x1000 * i
/-- `PORT.p SLABS` -/
def portSlabs (i : Nat) : Nat := 0x100080 + 0x1000 * i
/-- `PORT.p SHORT` -/
def portShort (i : Nat) : Nat := 0x100084 + 0x1000 * i
/-- `PORT.p LONG` -/
def portLong (i : Nat) : Nat := 0x100088 + 0x1000 * i
/-- `PORT.p TMO` -/
def portTmo (i : Nat) : Nat := 0x10008C + 0x1000 * i
/-- `PORT.p SLINE` -/
def portSline (i : Nat) : Nat := 0x100090 + 0x1000 * i
/-- `PORT.p LLINE` -/
def portLline (i : Nat) : Nat := 0x100094 + 0x1000 * i
/-- `PORT.p ECC_COR` -/
def portEccCor (i : Nat) : Nat := 0x100098 + 0x1000 * i
/-- `PORT.p ECC_ERR` -/
def portEccErr (i : Nat) : Nat := 0x10009C + 0x1000 * i
/-- `PORT.p CRC_ERR` -/
def portCrcErr (i : Nat) : Nat := 0x1000A0 + 0x1000 * i
/-- `PORT.p PKT_IGN` -/
def portPktIgn (i : Nat) : Nat := 0x1000A4 + 0x1000 * i
/-- `PORT.p FS_MISS` -/
def portFsMiss (i : Nat) : Nat := 0x1000A8 + 0x1000 * i
/-- `PORT.p FE_MISS` -/
def portFeMiss (i : Nat) : Nat := 0x1000AC + 0x1000 * i
/-- `PORT.p NOTAG` -/
def portNotag (i : Nat) : Nat := 0x1000B0 + 0x1000 * i
/-- `PORT.p TAG_DISC` -/
def portTagDisc (i : Nat) : Nat := 0x1000B4 + 0x1000 * i
/-- `PORT.p UNANCH` -/
def portUnanch (i : Nat) : Nat := 0x1000B8 + 0x1000 * i
/-- `PORT.p ALIGN_MISS` -/
def portAlignMiss (i : Nat) : Nat := 0x1000BC + 0x1000 * i
/-- `PORT.p PHY_ERR` -/
def portPhyErr (i : Nat) : Nat := 0x1000C0 + 0x1000 * i
/-- `PORT.p I2C.CTRL` -/
def portI2cCtrl (i : Nat) : Nat := 0x100200 + 0x1000 * i
/-- `PORT.p I2C.CMD` -/
def portI2cCmd (i : Nat) : Nat := 0x100204 + 0x1000 * i
/-- `PORT.p I2C.OP` -/
def portI2cOp (i : Nat) : Nat := 0x100208 + 0x1000 * i
/-- `PORT.p I2C.STATUS` -/
def portI2cStatus (i : Nat) : Nat := 0x10020C + 0x1000 * i
/-- `PORT.p I2C.RX.i` -/
def portI2cRx (i : Nat) (k : Nat) : Nat := 0x100240 + 0x1000 * i + 0x4 * k
/-- `PORT.p I2C.TX.i` -/
def portI2cTx (i : Nat) (k : Nat) : Nat := 0x100280 + 0x1000 * i + 0x4 * k
/-- `FACE.f (Face-wide) STATUS.CFGERR` -/
def faceStatusCfgerr (i : Nat) : Nat := 0x200000 + 0x10000 * i
/-- `FACE.f (Face-wide) BLK_SEL` -/
def faceBlkSel (i : Nat) : Nat := 0x200010 + 0x10000 * i
/-- `FACE.f (Face-wide) FLAT_SEL` -/
def faceFlatSel (i : Nat) : Nat := 0x200014 + 0x10000 * i
/-- `FACE.f (Face-wide) DEF_SEL` -/
def faceDefSel (i : Nat) : Nat := 0x200018 + 0x10000 * i
/-- `FACE.f (Face-wide) TONE_SEL` -/
def faceToneSel (i : Nat) : Nat := 0x20001C + 0x10000 * i
/-- `FACE.f (Face-wide) TBL_SEL` -/
def faceTblSel (i : Nat) : Nat := 0x200020 + 0x10000 * i
/-- `FACE.f (Face-wide) TBL_ADDR` -/
def faceTblAddr (i : Nat) : Nat := 0x200024 + 0x10000 * i
/-- `FACE.f (Face-wide) TBL_DATA` -/
def faceTblData (i : Nat) : Nat := 0x200028 + 0x10000 * i
/-- `FACE.f (Face-wide) DEF_ORDER` -/
def faceDefOrder (i : Nat) : Nat := 0x200040 + 0x10000 * i
/-- `FACE.f (Face-wide) ALN_USED` -/
def faceAlnUsed (i : Nat) : Nat := 0x200044 + 0x10000 * i
/-- `FACE.f (Face-wide) OVL_COL.0` -/
def faceOvlCol0 (i : Nat) : Nat := 0x200A00 + 0x10000 * i
/-- `FACE.f (Face-wide) OVL_COL.1` -/
def faceOvlCol1 (i : Nat) : Nat := 0x200A04 + 0x10000 * i
/-- `FACE.f (Face-wide) OVL_COL.2` -/
def faceOvlCol2 (i : Nat) : Nat := 0x200A08 + 0x10000 * i
/-- `FACE.f (Face-wide) DLY_USED` -/
def faceDlyUsed (i : Nat) : Nat := 0x200A0C + 0x10000 * i
/-- `FACE.f (Face-wide) UNBOUND` -/
def faceUnbound (i : Nat) : Nat := 0x200A10 + 0x10000 * i
/-- `FACE.f.C.c (corrections) CMODE` -/
def fctxCmode (i : Nat) (j : Nat) : Nat := 0x200100 + 0x10000 * i + 0x100 * j
/-- `FACE.f.C.c (corrections) ALIGN` -/
def fctxAlign (i : Nat) (j : Nat) : Nat := 0x200104 + 0x10000 * i + 0x100 * j
/-- `FACE.f.C.c (corrections) GLOB.p` -/
def fctxGlob (i : Nat) (j : Nat) (k : Nat) : Nat := 0x200108 + 0x10000 * i + 0x100 * j + 0x4 * k
/-- `FACE.f.C.c (corrections) DYN_HI` -/
def fctxDynHi (i : Nat) (j : Nat) : Nat := 0x200118 + 0x10000 * i + 0x100 * j
/-- `FACE.f.C.c (corrections) DYN_LO` -/
def fctxDynLo (i : Nat) (j : Nat) : Nat := 0x20011C + 0x10000 * i + 0x100 * j
/-- `FACE.f.C.c (corrections) WB.p.k` -/
def fctxWb (i : Nat) (j : Nat) (k : Nat) : Nat := 0x200120 + 0x10000 * i + 0x100 * j + 0x4 * k
/-- `FACE.f.C.c (corrections) MAT.0.0` -/
def fctxMat00 (i : Nat) (j : Nat) : Nat := 0x200150 + 0x10000 * i + 0x100 * j
/-- `FACE.f.C.c (corrections) MAT.0.1` -/
def fctxMat01 (i : Nat) (j : Nat) : Nat := 0x200154 + 0x10000 * i + 0x100 * j
/-- `FACE.f.C.c (corrections) MAT.0.2` -/
def fctxMat02 (i : Nat) (j : Nat) : Nat := 0x200158 + 0x10000 * i + 0x100 * j
/-- `FACE.f.C.c (corrections) MAT.1.0` -/
def fctxMat10 (i : Nat) (j : Nat) : Nat := 0x20015C + 0x10000 * i + 0x100 * j
/-- `FACE.f.C.c (corrections) MAT.1.1` -/
def fctxMat11 (i : Nat) (j : Nat) : Nat := 0x200160 + 0x10000 * i + 0x100 * j
/-- `FACE.f.C.c (corrections) MAT.1.2` -/
def fctxMat12 (i : Nat) (j : Nat) : Nat := 0x200164 + 0x10000 * i + 0x100 * j
/-- `FACE.f.C.c (corrections) MAT.2.0` -/
def fctxMat20 (i : Nat) (j : Nat) : Nat := 0x200168 + 0x10000 * i + 0x100 * j
/-- `FACE.f.C.c (corrections) MAT.2.1` -/
def fctxMat21 (i : Nat) (j : Nat) : Nat := 0x20016C + 0x10000 * i + 0x100 * j
/-- `FACE.f.C.c (corrections) MAT.2.2` -/
def fctxMat22 (i : Nat) (j : Nat) : Nat := 0x200170 + 0x10000 * i + 0x100 * j
/-- `FACE.f.C.c (corrections) DYN_CNT` -/
def fctxDynCnt (i : Nat) (j : Nat) : Nat := 0x200180 + 0x10000 * i + 0x100 * j
/-- `FACE.f.C.c (corrections) PLANE_DROP` -/
def fctxPlaneDrop (i : Nat) (j : Nat) : Nat := 0x200184 + 0x10000 * i + 0x100 * j
/-- `FACE.f.C.c (corrections) WARM` -/
def fctxWarm (i : Nat) (j : Nat) : Nat := 0x200188 + 0x10000 * i + 0x100 * j
/-- `FACE.f.C.c (corrections) MODE_ERR` -/
def fctxModeErr (i : Nat) (j : Nat) : Nat := 0x20018C + 0x10000 * i + 0x100 * j
/-- `FACE.f.C.c (sources and outputs) SRC` -/
def fsrcSrc (i : Nat) (j : Nat) : Nat := 0x200800 + 0x10000 * i + 0x80 * j
/-- `FACE.f.C.c (sources and outputs) SPOOL_BASE_L` -/
def fsrcSpoolBaseL (i : Nat) (j : Nat) : Nat := 0x200804 + 0x10000 * i + 0x80 * j
/-- `FACE.f.C.c (sources and outputs) SPOOL_BASE_H` -/
def fsrcSpoolBaseH (i : Nat) (j : Nat) : Nat := 0x200808 + 0x10000 * i + 0x80 * j
/-- `FACE.f.C.c (sources and outputs) SPOOL` -/
def fsrcSpool (i : Nat) (j : Nat) : Nat := 0x20080C + 0x10000 * i + 0x80 * j
/-- `FACE.f.C.c (sources and outputs) MV` -/
def fsrcMv (i : Nat) (j : Nat) : Nat := 0x200810 + 0x10000 * i + 0x80 * j
/-- `FACE.f.C.c (sources and outputs) DISP` -/
def fsrcDisp (i : Nat) (j : Nat) : Nat := 0x200814 + 0x10000 * i + 0x80 * j
/-- `FACE.f.C.c (sources and outputs) CODE` -/
def fsrcCode (i : Nat) (j : Nat) : Nat := 0x200818 + 0x10000 * i + 0x80 * j
/-- `FACE.f.C.c (sources and outputs) DISP_DLY` -/
def fsrcDispDly (i : Nat) (j : Nat) : Nat := 0x20081C + 0x10000 * i + 0x80 * j
/-- `FACE.f.C.c (sources and outputs) USED` -/
def fsrcUsed (i : Nat) (j : Nat) : Nat := 0x200820 + 0x10000 * i + 0x80 * j
/-- `FACE.f.C.c (sources and outputs) DROP` -/
def fsrcDrop (i : Nat) (j : Nat) : Nat := 0x200824 + 0x10000 * i + 0x80 * j
/-- `FACE.f.C.c (sources and outputs) INL_OVF` -/
def fsrcInlOvf (i : Nat) (j : Nat) : Nat := 0x200828 + 0x10000 * i + 0x80 * j
/-- `FACE.f.C.c (sources and outputs) TRUNC` -/
def fsrcTrunc (i : Nat) (j : Nat) : Nat := 0x20082C + 0x10000 * i + 0x80 * j
/-- `FACE.f.C.c (sources and outputs) STALL` -/
def fsrcStall (i : Nat) (j : Nat) : Nat := 0x200830 + 0x10000 * i + 0x80 * j
/-- `SEQ.q CTRL` -/
def seqCtrl (i : Nat) : Nat := 0x300000 + 0x1000 * i
/-- `SEQ.q LEN` -/
def seqLen (i : Nat) : Nat := 0x300004 + 0x1000 * i
/-- `SEQ.q FIXED` -/
def seqFixed (i : Nat) : Nat := 0x300008 + 0x1000 * i
/-- `SEQ.q FIXED_EXP` -/
def seqFixedExp (i : Nat) : Nat := 0x30000C + 0x1000 * i
/-- `SEQ.q AT_L` -/
def seqAtL (i : Nat) : Nat := 0x300010 + 0x1000 * i
/-- `SEQ.q AT_H` -/
def seqAtH (i : Nat) : Nat := 0x300014 + 0x1000 * i
/-- `SEQ.q STATUS` -/
def seqStatus (i : Nat) : Nat := 0x300020 + 0x1000 * i
/-- `SEQ.q K0_L` -/
def seqK0L (i : Nat) : Nat := 0x300024 + 0x1000 * i
/-- `SEQ.q K0_H` -/
def seqK0H (i : Nat) : Nat := 0x300028 + 0x1000 * i
/-- `SEQ.q SWK_L` -/
def seqSwkL (i : Nat) : Nat := 0x30002C + 0x1000 * i
/-- `SEQ.q SWK_H` -/
def seqSwkH (i : Nat) : Nat := 0x300030 + 0x1000 * i
/-- `SEQ.q WRAP_CNT` -/
def seqWrapCnt (i : Nat) : Nat := 0x300034 + 0x1000 * i
/-- `SEQ.q STEP.0.s.LIGHT` -/
def seqStep0Light (i : Nat) (k : Nat) : Nat := 0x300100 + 0x1000 * i + 0x8 * k
/-- `SEQ.q STEP.0.s.EXP` -/
def seqStep0Exp (i : Nat) (k : Nat) : Nat := 0x300104 + 0x1000 * i + 0x8 * k
/-- `SEQ.q STEP.1.s.LIGHT` -/
def seqStep1Light (i : Nat) (k : Nat) : Nat := 0x300300 + 0x1000 * i + 0x8 * k
/-- `SEQ.q STEP.1.s.EXP` -/
def seqStep1Exp (i : Nat) (k : Nat) : Nat := 0x300304 + 0x1000 * i + 0x8 * k
/-- `SEAM.s (Seam-wide) CTRL` -/
def seamCtrl (i : Nat) : Nat := 0x400000 + 0x10000 * i
/-- `SEAM.s (Seam-wide) STATUS` -/
def seamStatus (i : Nat) : Nat := 0x400004 + 0x10000 * i
/-- `SEAM.s (Seam-wide) MAG.MAG_MIN` -/
def seamMagMagMin (i : Nat) : Nat := 0x400010 + 0x10000 * i
/-- `SEAM.s (Seam-wide) VOTES.N_MIN` -/
def seamVotesNMin (i : Nat) : Nat := 0x400014 + 0x10000 * i
/-- `SEAM.s (Seam-wide) MASS.M_MIN` -/
def seamMassMMin (i : Nat) : Nat := 0x400018 + 0x10000 * i
/-- `SEAM.s (Seam-wide) DOT` -/
def seamDot (i : Nat) : Nat := 0x40001C + 0x10000 * i
/-- `SEAM.s (Seam-wide) LIN` -/
def seamLin (i : Nat) : Nat := 0x400020 + 0x10000 * i
/-- `SEAM.s (Seam-wide) GRID` -/
def seamGrid (i : Nat) : Nat := 0x400024 + 0x10000 * i
/-- `SEAM.s (Seam-wide) ORI.TOL` -/
def seamOriTol (i : Nat) : Nat := 0x400028 + 0x10000 * i
/-- `SEAM.s (Seam-wide) MINT` -/
def seamMint (i : Nat) : Nat := 0x40002C + 0x10000 * i
/-- `SEAM.s (Seam-wide) LAST.i` -/
def seamLast (i : Nat) (k : Nat) : Nat := 0x400040 + 0x10000 * i + 0x4 * k
/-- `SEAM.s.C.c SRC` -/
def sctxSrc (i : Nat) (j : Nat) : Nat := 0x400100 + 0x10000 * i + 0x40 * j
/-- `SEAM.s.C.c CAND` -/
def sctxCand (i : Nat) (j : Nat) : Nat := 0x400104 + 0x10000 * i + 0x40 * j
/-- `SEAM.s.C.c CAND_OVF` -/
def sctxCandOvf (i : Nat) (j : Nat) : Nat := 0x400108 + 0x10000 * i + 0x40 * j
/-- `SEAM.s.C.c REG_OVF` -/
def sctxRegOvf (i : Nat) (j : Nat) : Nat := 0x40010C + 0x10000 * i + 0x40 * j
/-- `SEAM.s.C.c SMALL` -/
def sctxSmall (i : Nat) (j : Nat) : Nat := 0x400110 + 0x10000 * i + 0x40 * j
/-- `SEAM.s.C.c RESTART` -/
def sctxRestart (i : Nat) (j : Nat) : Nat := 0x400114 + 0x10000 * i + 0x40 * j
/-- `SEAM.s.C.c UNPAIRED` -/
def sctxUnpaired (i : Nat) (j : Nat) : Nat := 0x400118 + 0x10000 * i + 0x40 * j
/-- `SEAM.s.C.c SLABCNT` -/
def sctxSlabcnt (i : Nat) (j : Nat) : Nat := 0x40011C + 0x10000 * i + 0x40 * j
/-- `SEAM.s.C.c CLS.k` -/
def sctxCls (i : Nat) (j : Nat) (k : Nat) : Nat := 0x400120 + 0x10000 * i + 0x40 * j + 0x4 * k
/-- `RIDDLE CTRL.EN` -/
def riddleCtrlEn : Nat := 0x500000
/-- `RIDDLE STATUS` -/
def riddleStatus : Nat := 0x500004
/-- `RIDDLE GCOMMIT.COMMIT` -/
def riddleGcommitCommit : Nat := 0x500008
/-- `RIDDLE USED` -/
def riddleUsed : Nat := 0x50000C
/-- `RIDDLE JOIN` -/
def riddleJoin : Nat := 0x500010
/-- `RIDDLE JOIN_LEAD` -/
def riddleJoinLead : Nat := 0x500014
/-- `RIDDLE JOIN_TMO` -/
def riddleJoinTmo : Nat := 0x500018
/-- `RIDDLE DUP_DIST` -/
def riddleDupDist : Nat := 0x50001C
/-- `RIDDLE DUP_ANG` -/
def riddleDupAng : Nat := 0x500020
/-- `RIDDLE DUP_WIN` -/
def riddleDupWin : Nat := 0x500024
/-- `RIDDLE BENCHES` -/
def riddleBenches : Nat := 0x500028
/-- `RIDDLE DONE` -/
def riddleDone : Nat := 0x50002C
/-- `RIDDLE UPC.e` -/
def riddleUpc (k : Nat) : Nat := 0x500040 + 0x4 * k
/-- `RIDDLE CLS.i.SCALE` -/
def riddleClsScale (k : Nat) : Nat := 0x500080 + 0x10 * k
/-- `RIDDLE CLS.i.PMARGIN` -/
def riddleClsPmargin (k : Nat) : Nat := 0x500084 + 0x10 * k
/-- `RIDDLE CLS.i.DEADLINE` -/
def riddleClsDeadline (k : Nat) : Nat := 0x500088 + 0x10 * k
/-- `RIDDLE CLS.i.CUT` -/
def riddleClsCut (k : Nat) : Nat := 0x50008C + 0x10 * k
/-- `RIDDLE GEO.h.A0_L` -/
def riddleGeoA0L (k : Nat) : Nat := 0x500400 + 0x20 * k
/-- `RIDDLE GEO.h.A0_H` -/
def riddleGeoA0H (k : Nat) : Nat := 0x500404 + 0x20 * k
/-- `RIDDLE GEO.h.A1_L` -/
def riddleGeoA1L (k : Nat) : Nat := 0x500408 + 0x20 * k
/-- `RIDDLE GEO.h.A1_H` -/
def riddleGeoA1H (k : Nat) : Nat := 0x50040C + 0x20 * k
/-- `RIDDLE GEO.h.A2` -/
def riddleGeoA2 (k : Nat) : Nat := 0x500410 + 0x20 * k
/-- `RIDDLE GEO.h.RIGHT` -/
def riddleGeoRight (k : Nat) : Nat := 0x500414 + 0x20 * k
/-- `RIDDLE PAREA.b` -/
def riddleParea (k : Nat) : Nat := 0x500600 + 0x10 * k
/-- `RIDDLE PSLOT.b` -/
def riddlePslot (k : Nat) : Nat := 0x500604 + 0x10 * k
/-- `RIDDLE OUT.b` -/
def riddleOut (k : Nat) : Nat := 0x500608 + 0x10 * k
/-- `RIDDLE INQ_OVF` -/
def riddleInqOvf : Nat := 0x500700
/-- `RIDDLE NOSTOCK` -/
def riddleNostock : Nat := 0x500704
/-- `RIDDLE JOINED` -/
def riddleJoined : Nat := 0x500708
/-- `RIDDLE SOLO` -/
def riddleSolo : Nat := 0x50070C
/-- `RIDDLE DUP` -/
def riddleDup : Nat := 0x500710
/-- `RIDDLE SHADOW` -/
def riddleShadow : Nat := 0x500714
/-- `RIDDLE RETRY` -/
def riddleRetry : Nat := 0x500718
/-- `RIDDLE EVICT` -/
def riddleEvict : Nat := 0x50071C
/-- `RIDDLE EXPIRED` -/
def riddleExpired : Nat := 0x500720
/-- `RIDDLE CLIPPED` -/
def riddleClipped : Nat := 0x500724
/-- `RIDDLE REDO` -/
def riddleRedo : Nat := 0x500728
/-- `KERF.k CTRL.EN` -/
def kerfCtrlEn (i : Nat) : Nat := 0x510000 + 0x1000 * i
/-- `KERF.k FILL` -/
def kerfFill (i : Nat) : Nat := 0x510004 + 0x1000 * i
/-- `KERF.k STATUS` -/
def kerfStatus (i : Nat) : Nat := 0x510008 + 0x1000 * i
/-- `KERF.k PIX` -/
def kerfPix (i : Nat) : Nat := 0x510010 + 0x1000 * i
/-- `KERF.k PARTIAL` -/
def kerfPartial (i : Nat) : Nat := 0x510014 + 0x1000 * i
/-- `KERF.k LATE` -/
def kerfLate (i : Nat) : Nat := 0x510018 + 0x1000 * i
/-- `KERF.k ABORT` -/
def kerfAbort (i : Nat) : Nat := 0x51001C + 0x1000 * i
/-- `STOCK.h.p BASE_L` -/
def stockBaseL (i : Nat) (j : Nat) : Nat := 0x600100 + 0x80 * i + 0x20 * j
/-- `STOCK.h.p BASE_H` -/
def stockBaseH (i : Nat) (j : Nat) : Nat := 0x600104 + 0x80 * i + 0x20 * j
/-- `STOCK.h.p CTRL` -/
def stockCtrl (i : Nat) (j : Nat) : Nat := 0x600108 + 0x80 * i + 0x20 * j
/-- `STOCK.h.p NEWEST_L` -/
def stockNewestL (i : Nat) (j : Nat) : Nat := 0x60010C + 0x80 * i + 0x20 * j
/-- `STOCK.h.p NEWEST_H` -/
def stockNewestH (i : Nat) (j : Nat) : Nat := 0x600110 + 0x80 * i + 0x20 * j
/-- `STOCK.h.p CLOSED_L` -/
def stockClosedL (i : Nat) (j : Nat) : Nat := 0x600114 + 0x80 * i + 0x20 * j
/-- `STOCK.h.p CLOSED_H` -/
def stockClosedH (i : Nat) (j : Nat) : Nat := 0x600118 + 0x80 * i + 0x20 * j
/-- `STOCK.h.p EPOCH` -/
def stockEpoch (i : Nat) (j : Nat) : Nat := 0x60011C + 0x80 * i + 0x20 * j
/-- `BENCH.b STATUS` -/
def benchStatus (i : Nat) : Nat := 0x1000000 + 0x100000 * i
/-- `BENCH.b HCTRL.h` -/
def benchHctrl (i : Nat) (k : Nat) : Nat := 0x1000100 + 0x100000 * i + 0x20 * k
/-- `BENCH.b START.h` -/
def benchStart (i : Nat) (k : Nat) : Nat := 0x1000104 + 0x100000 * i + 0x20 * k
/-- `BENCH.b HSTAT.h` -/
def benchHstat (i : Nat) (k : Nat) : Nat := 0x1000108 + 0x100000 * i + 0x20 * k
/-- `BENCH.b PC.h` -/
def benchPc (i : Nat) (k : Nat) : Nat := 0x100010C + 0x100000 * i + 0x20 * k
/-- `BENCH.b ILLADR.h` -/
def benchIlladr (i : Nat) (k : Nat) : Nat := 0x1000110 + 0x100000 * i + 0x20 * k
/-- `BENCH.b MA_SEL` -/
def benchMaSel (i : Nat) : Nat := 0x1000400 + 0x100000 * i
/-- `BENCH.b MA_ADDR` -/
def benchMaAddr (i : Nat) : Nat := 0x1000404 + 0x100000 * i
/-- `BENCH.b MA_DATA` -/
def benchMaData (i : Nat) : Nat := 0x1000408 + 0x100000 * i
/-- `BENCH.b MA_DATAH` -/
def benchMaDatah (i : Nat) : Nat := 0x100040C + 0x100000 * i
/-- `BENCH.b TQ.TAKE` -/
def benchTqTake (i : Nat) : Nat := 0x1080000 + 0x100000 * i
/-- `BENCH.b TQ.FREE` -/
def benchTqFree (i : Nat) : Nat := 0x1080004 + 0x100000 * i
/-- `BENCH.b TQ.LEVEL` -/
def benchTqLevel (i : Nat) : Nat := 0x1080008 + 0x100000 * i
/-- `BENCH.b TQ.STATUS.CFGERR` -/
def benchTqStatusCfgerr (i : Nat) : Nat := 0x108000C + 0x100000 * i
/-- `BENCH.b TQ.ENT.e`: word w at + 4w, w = 0 to 19 -/
def benchTqEnt (i : Nat) (k : Nat) : Nat := 0x1080100 + 0x100000 * i + 0x80 * k
/-- `BENCH.b DMA.c.DADDR_L` -/
def benchDmaDaddrL (i : Nat) (k : Nat) : Nat := 0x1090000 + 0x100000 * i + 0x40 * k
/-- `BENCH.b DMA.c.DADDR_H` -/
def benchDmaDaddrH (i : Nat) (k : Nat) : Nat := 0x1090004 + 0x100000 * i + 0x40 * k
/-- `BENCH.b DMA.c.LOCAL` -/
def benchDmaLocal (i : Nat) (k : Nat) : Nat := 0x1090008 + 0x100000 * i + 0x40 * k
/-- `BENCH.b DMA.c.COUNT` -/
def benchDmaCount (i : Nat) (k : Nat) : Nat := 0x109000C + 0x100000 * i + 0x40 * k
/-- `BENCH.b DMA.c.CFG` -/
def benchDmaCfg (i : Nat) (k : Nat) : Nat := 0x1090010 + 0x100000 * i + 0x40 * k
/-- `BENCH.b DMA.c.GO` -/
def benchDmaGo (i : Nat) (k : Nat) : Nat := 0x1090014 + 0x100000 * i + 0x40 * k
/-- `BENCH.b DMA.c.STAT` -/
def benchDmaStat (i : Nat) (k : Nat) : Nat := 0x1090018 + 0x100000 * i + 0x40 * k
/-- `BENCH.b DMA.c.XFER` -/
def benchDmaXfer (i : Nat) (k : Nat) : Nat := 0x109001C + 0x100000 * i + 0x40 * k
/-- `BENCH.b WHO` -/
def benchWho (i : Nat) : Nat := 0x10A0000 + 0x100000 * i
/-- `BENCH.b TIME_L` -/
def benchTimeL (i : Nat) : Nat := 0x10A0004 + 0x100000 * i
/-- `BENCH.b TIME_M` -/
def benchTimeM (i : Nat) : Nat := 0x10A0008 + 0x100000 * i
/-- `BENCH.b TIME_H` -/
def benchTimeH (i : Nat) : Nat := 0x10A000C + 0x100000 * i
/-- `BENCH.b CYC_L` -/
def benchCycL (i : Nat) : Nat := 0x10A0010 + 0x100000 * i
/-- `BENCH.b CYC_M` -/
def benchCycM (i : Nat) : Nat := 0x10A0014 + 0x100000 * i
/-- `BENCH.b CYC_H` -/
def benchCycH (i : Nat) : Nat := 0x10A0018 + 0x100000 * i
/-- `BENCH.b CMP.h.BLOCK` -/
def benchCmpBlock (i : Nat) (k : Nat) : Nat := 0x10B0000 + 0x100000 * i + 0x10 * k
/-- `BENCH.b CMP.h.GO` -/
def benchCmpGo (i : Nat) (k : Nat) : Nat := 0x10B0004 + 0x100000 * i + 0x10 * k
/-- `BENCH.b CMP.h.STAT` -/
def benchCmpStat (i : Nat) (k : Nat) : Nat := 0x10B0008 + 0x100000 * i + 0x10 * k
/-- `BENCH.b ECC.CLAIM.OWNER` -/
def benchEccClaimOwner (i : Nat) : Nat := 0x10C0000 + 0x100000 * i
/-- `BENCH.b ECC.CFG` -/
def benchEccCfg (i : Nat) : Nat := 0x10C0004 + 0x100000 * i
/-- `BENCH.b ECC.POLY` -/
def benchEccPoly (i : Nat) : Nat := 0x10C0008 + 0x100000 * i
/-- `BENCH.b ECC.ALPHA` -/
def benchEccAlpha (i : Nat) : Nat := 0x10C000C + 0x100000 * i
/-- `BENCH.b ECC.LEN` -/
def benchEccLen (i : Nat) : Nat := 0x10C0010 + 0x100000 * i
/-- `BENCH.b ECC.CW` -/
def benchEccCw (i : Nat) : Nat := 0x10C0014 + 0x100000 * i
/-- `BENCH.b ECC.ERA` -/
def benchEccEra (i : Nat) : Nat := 0x10C0018 + 0x100000 * i
/-- `BENCH.b ECC.NERA` -/
def benchEccNera (i : Nat) : Nat := 0x10C001C + 0x100000 * i
/-- `BENCH.b ECC.GO` -/
def benchEccGo (i : Nat) : Nat := 0x10C0020 + 0x100000 * i
/-- `BENCH.b ECC.STATUS` -/
def benchEccStatus (i : Nat) : Nat := 0x10C0024 + 0x100000 * i
/-- `BENCH.b ECC.RES0` -/
def benchEccRes0 (i : Nat) : Nat := 0x10C0028 + 0x100000 * i
/-- `BENCH.b ECC.RES1.SPARE` -/
def benchEccRes1Spare (i : Nat) : Nat := 0x10C002C + 0x100000 * i
/-- `BENCH.b ECC.JOBS` -/
def benchEccJobs (i : Nat) : Nat := 0x10C0030 + 0x100000 * i
/-- `BENCH.b ECC.FAILS` -/
def benchEccFails (i : Nat) : Nat := 0x10C0034 + 0x100000 * i
/-- `PCIE CTRL` -/
def pcieCtrl : Nat := 0x2100000
/-- `PCIE STATUS` -/
def pcieStatus : Nat := 0x2100004
/-- `PCIE MIR_BASE_L` -/
def pcieMirBaseL : Nat := 0x2100010
/-- `PCIE MIR_BASE_H` -/
def pcieMirBaseH : Nat := 0x2100014
/-- `PCIE RES_BASE_L` -/
def pcieResBaseL : Nat := 0x2100020
/-- `PCIE RES_BASE_H` -/
def pcieResBaseH : Nat := 0x2100024
/-- `PCIE RES_SIZE` -/
def pcieResSize : Nat := 0x2100028
/-- `PCIE RES_PROD` -/
def pcieResProd : Nat := 0x210002C
/-- `PCIE RES_CONS` -/
def pcieResCons : Nat := 0x2100030
/-- `PCIE PAY_BASE_L` -/
def pciePayBaseL : Nat := 0x2100040
/-- `PCIE PAY_BASE_H` -/
def pciePayBaseH : Nat := 0x2100044
/-- `PCIE PAY_SIZE` -/
def pciePaySize : Nat := 0x2100048
/-- `PCIE PAY_PROD` -/
def pciePayProd : Nat := 0x210004C
/-- `PCIE PAY_CONS` -/
def pciePayCons : Nat := 0x2100050
/-- `PCIE POISON` -/
def pciePoison : Nat := 0x2100064
/-- `PCIE LINKDN` -/
def pcieLinkdn : Nat := 0x2100068
/-- `PCIE STREAM.r.CTRL.EN` -/
def pcieStreamCtrlEn (k : Nat) : Nat := 0x2100100 + 0x20 * k
/-- `PCIE STREAM.r.BASE_L` -/
def pcieStreamBaseL (k : Nat) : Nat := 0x2100104 + 0x20 * k
/-- `PCIE STREAM.r.BASE_H` -/
def pcieStreamBaseH (k : Nat) : Nat := 0x2100108 + 0x20 * k
/-- `PCIE STREAM.r.SIZE` -/
def pcieStreamSize (k : Nat) : Nat := 0x210010C + 0x20 * k
/-- `PCIE STREAM.r.PROD` -/
def pcieStreamProd (k : Nat) : Nat := 0x2100110 + 0x20 * k
/-- `PCIE STREAM.r.CONS` -/
def pcieStreamCons (k : Nat) : Nat := 0x2100114 + 0x20 * k
/-- `PCIE STREAM.r.LOST` -/
def pcieStreamLost (k : Nat) : Nat := 0x2100118 + 0x20 * k
/-- `FOREMAN SW.ADDR_L` -/
def foremanSwAddrL : Nat := 0x3000000
/-- `FOREMAN SW.ADDR_H` -/
def foremanSwAddrH : Nat := 0x3000004
/-- `FOREMAN SW.WDATA` -/
def foremanSwWdata : Nat := 0x3000008
/-- `FOREMAN SW.CMD` -/
def foremanSwCmd : Nat := 0x300000C
/-- `FOREMAN SW.DONE` -/
def foremanSwDone : Nat := 0x3000010
/-- `FOREMAN SW.PEND` -/
def foremanSwPend : Nat := 0x3000014
/-- `FOREMAN SW.STATUS.CFGERR` -/
def foremanSwStatusCfgerr : Nat := 0x3000018
/-- `FOREMAN SW.RDATA.i` -/
def foremanSwRdata (k : Nat) : Nat := 0x3000020 + 0x4 * k

end Adr

end Sys2Proof.Machine
end

