-- ==== Sys2Proof/Machine/StateAon.lean ====
section
/-!
DEFINITION. The parts of the state that lie in the always-on island and at the camera ports: power, encoders,
triggers, sequencers, SYNC, GPIO, ports. Registers stand in `State.regs`; these structures hold what the spec names
besides them.
-/
namespace Sys2Proof.Machine

/-- The states of R26; `drain` is Run with PWR.STATUS.DRAIN set (R409), `entering` the entry into Standby (R29). -/
inductive PState where
  | unpowered | reset | boot | run | drain | entering | standby
deriving DecidableEq, Repr, Inhabited

/-- Supplies, states, domains, clocks, sensors (R25 to R34, R399 to R418). -/
structure Power where
  st : PState := .reset
  /-- SYS.STATE.CAUSE (R34) -/
  cause : BitVec 4 := 0
  /-- boot image B runs (SYS.STATE.IMAGE) -/
  imageB : Bool := false
  /-- the domains that are on (R404) -/
  on : BitVec 8 := 1
  mainOk : Bool := false
  stbyOk : Bool := true
  /-- RESET_N is held low -/
  ballLow : Bool := false
  /-- a reset release waits for the main input (R401) -/
  releaseHeld : Bool := false
  /-- a held wake event, as its WAKESRC code (R29, R401, R411) -/
  wakeHeld : Option (BitVec 8) := none
  /-- AON time of the last entry into Reset or Standby -/
  offAt : BitVec 64 := 0
  /-- TIME at which the drain of R409 began -/
  drainAt : BitVec 64 := 0
  /-- last readings of T0 to T7 (R417) -/
  temps : SMap (BitVec 12) := []
  /-- consecutive readings above 110 C of each sensor (R410) -/
  hot : SMap Nat := []
  throttled : Bool := false
  /-- a sensor was read since the last read of THERM.PEAK (R419) -/
  peakSeen : Bool := false
  /-- TIME since which every sensor reads at least 5 C below THROT (R418) -/
  coolSince : Option (BitVec 64) := none
  /-- measurements of the power stage (R402, R419) -/
  vmain : BitVec 16 := 0
  vstby : BitVec 16 := 0
  imain : BitVec 16 := 0
  pdp : SMap (BitVec 16) := []
  refOk : Bool := true
  backup : Bool := false
  pciRef : Bool := false
deriving DecidableEq, Repr, Inhabited

/-- An encoder channel (R37, R52 to R65). -/
structure Enc where
  count : BitVec 48 := 0
  /-- TIME of the last accepted count edge (R54) -/
  lastEdge : Option (BitVec 64) := none
  /-- TIME of the last accepted index edge (R61) -/
  lastIdx : Option (BitVec 64) := none
  /-- TIME at which the window in progress began (R58) -/
  winStart : BitVec 64 := 0
  /-- edges accepted and rejected in the window in progress (R55, R58) -/
  accepted : Nat := 0
  rejected : Nat := 0
  /-- direction of the window's last accepted edge: true reverse -/
  winRev : Option Bool := none
  /-- index reference and last capture (R62) -/
  ref : BitVec 48 := 0
  idx : BitVec 48 := 0
  /-- the accepted edges of the last 163.84 µs, newest first, with their TIME and direction: true forward (R76 step 5) -/
  hist : List (BitVec 64 × Bool) := []
deriving DecidableEq, Repr

/-- A running schedule (R66 to R68): points are 48.16 fixed point. -/
structure Sched where
  /-- starting k and X0 -/
  k0 : BitVec 48 := 0
  x0 : BitVec 64 := 0
  /-- last reached point and its position -/
  k : BitVec 48 := 0
  x : BitVec 64 := 0
  /-- a point has been reached since the start -/
  any : Bool := false
deriving DecidableEq, Repr

/-- A line tag (R40). -/
structure Tag where
  /-- FRAC and POSITION -/
  x : BitVec 64 := 0
  time : BitVec 64 := 0
  step : BitVec 6 := 0
  plane : BitVec 2 := 0
  head : BitVec 4 := 0
  index : BitVec 13 := 0
  dir : Bool := false
  snap : Bool := false
  skip : BitVec 3 := 0
  node : BitVec 2 := 0
deriving DecidableEq, Repr

/-- A tag FIFO entry: the tag, TRIGNUM and the slab length N (R109). -/
structure TagEnt where
  tag : Tag
  trignum : BitVec 16
  n : Nat
  /-- the line is undefined (R89, R94) -/
  undef : Bool := false
deriving DecidableEq, Repr

/-- A head's trigger generator (R68 to R73) with its tag FIFO (R72, R109) and output stage (R84 to R89). -/
structure Head where
  /-- the pointer m_h and x of that point (R69) -/
  m : BitVec 48 := 0
  x : BitVec 64 := 0
  /-- next INDEX and the length of the slab in progress (R41) -/
  index : Nat := 0
  slabLen : Nat := 512
  /-- triggers issued, modulo 2^16 (R109) -/
  trignum : BitVec 16 := 0
  lastIssue : Option (BitVec 64) := none
  /-- SKIP and SNAP of the next tag written (R72) -/
  skip : BitVec 3 := 0
  snap : Bool := false
  /-- number of tags that have left the FIFO, and the tags it holds, oldest first -/
  tagBase : Nat := 0
  tags : List TagEnt := []
  /-- a TRIG pulse has been issued and its end has not been taken (EXPOSURE_END), the last tally word (none: TALLY stayed
  low), the AON times of TRIG's rise and fall, and the end of the interval of R89 from the edge on -/
  trig : Bool := false
  tally : Option (BitVec 16) := none
  rise : BitVec 64 := 0
  fall : BitVec 64 := 0
  busyUntil : BitVec 64 := 0
  /-- the undefined case of R89 has happened since the last reset -/
  taint : Bool := false
deriving DecidableEq, Repr

/-- A record of a sequencer (R91). -/
inductive SeqRec where
  | table (k0 : BitVec 48) (bank : Bool) (len : Nat)
  | fixed
deriving DecidableEq, Repr

/-- A sequencer (R91 to R94). -/
structure Seq where
  newer : Option SeqRec := none
  older : Option SeqRec := none
  /-- the change point k_c -/
  kc : BitVec 48 := 0
  swap : Bool := false
  /-- EN and BANK when the first held write arrived (R93) -/
  held : Option (Bool × Bool) := none
  /-- the highest point issued to any served head, its step and whether a table record governed it -/
  hiK : Option (BitVec 48) := none
  lastStep : BitVec 6 := 0
  run : Bool := false
  /-- a bank was written while in use (R94) -/
  taint0 : Bool := false
  taint1 : Bool := false
deriving DecidableEq, Repr

/-- The SYNC port (R74 to R79, R96). -/
structure Sync where
  /-- sequence number of the next LOOP word -/
  seq : BitVec 13 := 0
  /-- outstanding LOOP: its number and the TIME its start bit left -/
  loop : Option (BitVec 13 × BitVec 64) := none
  /-- slave: hop of the last LATENCY word -/
  hop : BitVec 13 := 0
  /-- a lock sequence has completed (R77) -/
  done : Bool := false
  /-- slave: a STATE word was taken and the TICK that locks is awaited (R76 step 6); no TICK has come since it (R96) -/
  await : Bool := false
  fresh : Bool := false
  /-- TIME of the last word sent and received -/
  lastSent : BitVec 64 := 0
  lastRecv : BitVec 64 := 0
  /-- TIME of the last STATE sent -/
  lastState : BitVec 64 := 0
  /-- the words sent on SYNC_OUT, oldest first -/
  out : List (BitVec 16) := []
deriving DecidableEq, Repr, Inhabited

/-- A pending GPIO event (R80). -/
structure GpioEv where
  pin : BitVec 3
  chan : BitVec 2
  pos : BitVec 48
  action : BitVec 2
  width : BitVec 12
deriving DecidableEq, Repr

/-- GPIO (R80, R81): pin levels, pending events in push order, running pulses with their end TIME and the latch
value before the pulse. -/
structure Gpio where
  pins : BitVec 8 := 0
  pend : List GpioEv := []
  pulses : SMap (Option (BitVec 64 × Bool)) := []
deriving DecidableEq, Repr, Inhabited

/-- Slab outcomes, by the OUTCOME encoding of PORT.p.LAST (R114, R119). -/
inductive Outc where
  | none_ | ok | short | timeout | unanchored | empty
deriving DecidableEq, Repr

/-- The state of an image stream (R110); pointers count tags absolutely (`Head.tagBase`). -/
structure PStream where
  /-- the enable in effect (R115) -/
  act : Bool := false
  open_ : Bool := false
  dead : Bool := false
  anchor : Option TagEnt := none
  byCounter : Bool := false
  n : Nat := 0
  r : Nat := 0
  tfs : BitVec 64 := 0
  linkerr : Bool := false
  long : Bool := false
  /-- its Frame Start came later than TMO_FS after the slab's first trigger (R111) -/
  late : Bool := false
  embdone : Bool := false
  ptr : Nat := 0
  /-- slab flags of R119: padded, truncated, CRC -/
  sline : Bool := false
  lline : Bool := false
  crc : Bool := false
  /-- FILL, TMO_FS, TMO_FE, CNT and ALIGN as the stream last took them, at a Frame Start of its own (R119) -/
  fill : Word := 0
  tmoFs : Word := 0x3E8
  tmoFe : Word := 0x2710
  cnt : Word := 0
  align : Bool := false
deriving DecidableEq, Repr

/-- An I2C transaction in progress (R117). -/
structure I2cJob where
  addr : BitVec 7
  wlen : Nat
  rlen : Nat
  tx : List Byte
deriving DecidableEq, Repr

/-- A camera port (R100 to R118). -/
structure Port where
  st : SMap PStream := []
  learn : Bool := false
  i2c : Option I2cJob := none
  /-- the nine SCL pulses and STOP of the last recovery were sent (count of recoveries) -/
  recov : Nat := 0
  /-- the anchoring conditions of R111 did not hold for a slab anchored since the last reset -/
  taint : Bool := false
  /-- the lanes in ULPS, the clock lane last (R105) -/
  ulps : List (Option (Fin 4)) := []
deriving DecidableEq, Repr

end Sys2Proof.Machine
end

