-- ==== Sys2Proof/Machine/StatePix.lean ====
section
/-!
DEFINITION. The parts of the state that hold image lines and candidates: Faces, their contexts and outputs, Seams,
stockpiles, the Riddle and the Kerfs.
-/
namespace Sys2Proof.Machine

/-- The line flags of R114: SUSPECT, CRCERR, SHORTLINE, LONGLINE. -/
structure LFlags where
  suspect : Bool := false
  crc : Bool := false
  short : Bool := false
  long : Bool := false
deriving DecidableEq, Repr

/-- A line as a port delivers it: raw components (one list, or three for RGB888), CSI-2 data type, tag, flags and the
number of its slab in its context. -/
structure RawLine where
  comps : List (List Nat)
  dt : Nat
  tag : Tag
  fl : LFlags
  slab : Nat
  /-- spool position of a memory-fed line: slot and line (R155) -/
  slot : Nat := 0
  idx : Nat := 0
  /-- the last byte has arrived (R150, R152) -/
  ready : Bool := true
  /-- lines of the context were discarded just before this one: a break (R171), the planes that lost lines (R166), and
  whether a dropped slab empties the alignment (R156) -/
  brk : Bool := false
  gaps : List Nat := []
  empty : Bool := false
deriving DecidableEq, Repr

/-- The close of a slab as the port reports it (R114). -/
structure SlabClose where
  outc : Outc
  uncertain : Bool
  long : Bool
  anchor : Option Tag := none
deriving DecidableEq, Repr

/-- A slab that a Face context has taken: number, spool slot, lines written, lines not yet begun, and its close. -/
structure SlabInfo where
  id : Nat
  slot : Option Nat := none
  written : Nat := 0
  waiting : Nat := 0
  close : Option SlabClose := none
  /-- first and last LNUM of its lines that have left stage 9, by plane (R194) -/
  last : List (Nat × BitVec 32 × BitVec 32) := []
deriving DecidableEq, Repr

/-- A line held in the alignment store (R132, R133). -/
structure AlnLine where
  comps : List (List Nat)
  tag : Tag
  fl : LFlags
  slab : Nat
deriving DecidableEq, Repr

/-- A corrected line of a stream on its way to the host: header fields of R166 and payload. -/
structure OutLine where
  kind : Nat
  ctx : Nat
  plane : Nat
  tag : Tag
  width : Nat
  fl : LFlags
  gap : Bool := false
  chroma : Bool := false
  seq : BitVec 32 := 0
  slab : Nat
  payload : List Byte
  /-- the slab of the first line in it -/
  first : Nat := slab
  /-- the line is known to end its slab (R491) -/
  endc : Option SlabClose := none
deriving DecidableEq, Repr

/-- A box of the scaler in progress (R162): lines so far, the first line's tag, combined flags, the slabs of its first
and newest line. -/
structure ScaleBox where
  lines : List (List (List Nat))
  tag : Tag
  fl : LFlags
  first : Nat
  slab : Nat
  /-- LNUM of the first line -/
  lnum : BitVec 32 := 0
  endc : Option SlabClose := none
deriving DecidableEq, Repr

/-- A scaled line: three component rows (R162), the slabs of the first and newest line in it, and GAP (R166). -/
structure ScaledLine where
  comps : List (List Nat)
  tag : Tag
  fl : LFlags
  first : Nat
  slab : Nat
  gap : Bool := false
  plane : Nat
  /-- LNUM of the first stage 9 line of the box, for the overlay (R164) -/
  lnum : BitVec 32
  sy : Nat
  sx : Nat
  endc : Option SlabClose := none
deriving DecidableEq, Repr

/-- One plane of a Face context (R131 to R135, R162 to R166, R491). Streams are 0 MV, 1 DISP, 2 CODE. -/
structure FPlane where
  /-- the LNUM of the next line (R170) -/
  lnum : BitVec 32 := 0
  /-- alignment store, newest first (R132 to R135) -/
  aln : List AlnLine := []
  dispBox : Option ScaleBox := none
  codeBox : Option ScaleBox := none
  /-- first line of a CODE pair (R165) -/
  codeFirst : Option ScaledLine := none
  seq : SMap (BitVec 32) := []
  gap : SMap Bool := []
  /-- the held line of each stream (R491) -/
  held : SMap (Option OutLine) := []
deriving DecidableEq, Repr

/-- A source context of a Face (R148 to R158). -/
structure FCtx where
  /-- its head, and whether it writes the head's stockpiles, as they stood at its enable (R148) -/
  head : Nat := 0
  stk : Bool := false
  /-- number of the next slab -/
  nextSlab : Nat := 0
  /-- the slab the stream has open and the context takes; none: its lines go to UNBOUND -/
  cur : Option Nat := none
  /-- the open slab was dropped at the spool (R156) -/
  dropCur : Bool := false
  slabs : List SlabInfo := []
  queue : List RawLine := []
  /-- slab the Face begins or began last -/
  begun : Option Nat := none
  /-- that slab is discarded for its mode (R124) -/
  modeBad : Bool := false
  /-- a defect bank was adopted since the source was enabled (R127) -/
  defSeen : Bool := false
  /-- a line was discarded or the alignment emptied since the last line reached the Seam (R171) -/
  brk : Bool := false
  planes : SMap FPlane := []
  /-- DISP delay store, oldest first (R163) -/
  dly : List ScaledLine := []
  /-- slabs under which a bank in use was written (R144) -/
  taintSlabs : List Nat := []
  /-- a stream's width or type, SRC or spool registers were changed while enabled (R149) -/
  taint : Bool := false
  /-- a line of the slab in progress that the Face sent was SUSPECT (R491) -/
  suspectSent : Bool := false
  /-- what the next line taken is marked with (`RawLine.brk`, `gaps`, `empty`) -/
  pbrk : Bool := false
  pgaps : List Nat := []
  pempty : Bool := false
  /-- the context was disabled and its held lines await the end of the line in the Face (R491) -/
  flushing : Bool := false
deriving DecidableEq, Repr

/-- What the foreman did to a table bank: a load or fill of all of it, or an entry added (R147). -/
inductive TblOp where
  | fill (f : TblFill)
  | add (c : Fin 4) (col : Nat) (m : DefMethod)
deriving DecidableEq, Repr

/-- A Face: the line in stages 1 to 9, the round-robin pointer (R153), the tables, and the lines waiting in its host
output buffer, with their rings (R479). `src` tells, by table bank, how the foreman filled it since Boot (R378). `old` is the
context of the line in the Face as it stood at its disable, where it has been enabled again since (R149). -/
structure Face where
  line : Option (Nat × RawLine) := none
  old : Option FCtx := none
  rr : Nat := 3
  tbl : SMap Word := []
  src : SMap (List TblOp) := []
  wait : List (Nat × List Byte) := []
deriving DecidableEq, Repr

/-- A tile being accumulated (R176): h, hn, N, D. -/
structure TileAcc where
  h : List Nat := []
  hn : List Nat := []
  n : Nat := 0
  d : Nat := 0
deriving DecidableEq, Repr

/-- A region (R178 to R183). -/
structure Region where
  id : Nat
  cls : Nat
  seedRow : Nat
  seedCol : Nat
  ref : Nat
  hist : List Nat
  ntiles : Nat
  sumw : Nat
  firstRow : Nat
  lastRow : Nat
  /-- member tiles: column index, LNUM of the first and last arrival of the row -/
  tiles : List (Nat × BitVec 32 × BitVec 32)
  fl : LFlags
deriving DecidableEq, Repr

/-- A search-image line: pixels, LNUM, flags, and the LNUM of the paired PLANE_B line (R169). -/
structure SearchLine where
  pix : List Nat
  lnum : BitVec 32
  fl : LFlags
  lnumB : Option (BitVec 32)
deriving DecidableEq, Repr

/-- The Seam-wide settings in effect for a context (R188, R189), as register values. -/
structure SeamCfg where
  ctrl : Word := 0x00400
  mag : Word := 0x00030
  votes : Word := 0x00020
  mass : Word := 0x01000
  dot : Word := 0x60318
  lin : Word := 0x040A0
  grid : Word := 0x030B0
  ori : Word := 0x00002
  mint : Word := 0x02082
deriving DecidableEq, Repr

/-- A context of a Seam (R169 to R185). -/
structure SCtx where
  cfg : SeamCfg := {}
  /-- arrivals since the last restart and the last five search lines, newest first -/
  arrivals : Nat := 0
  win : List SearchLine := []
  /-- the most recent PLANE_B line since the restart -/
  lineB : Option SearchLine := none
  /-- tiles of the row in progress, its first and last LNUM and its flags -/
  tiles : List TileAcc := []
  rowFirst : BitVec 32 := 0
  rowLast : BitVec 32 := 0
  rowFl : LFlags := {}
  /-- BOFS source: (LNUM, LNUM of the paired line) of recent search lines, newest first -/
  pairs : List (BitVec 32 × BitVec 32) := []
  /-- region of each tile of the previous row -/
  prev : List (Option Nat) := []
  regions : List Region := []
  nextId : Nat := 0
  /-- slab in progress, candidates in it, candovf raised for it -/
  slab : Option Nat := none
  slabCnt : Nat := 0
  ovf : Bool := false
deriving DecidableEq, Repr

/-- A candidate record (R184), with the plane roles and mode of its search image. -/
structure Cand where
  ctx : Nat
  seam : Nat
  head : Nat
  planeA : Nat
  planeB : Nat
  mode : Nat
  cls : Nat
  trunc : Bool
  cut : Bool
  fl : LFlags
  score : Nat
  ntiles : Nat
  angle : Nat
  cx : Nat
  cy : BitVec 36
  hu : Nat
  hv : Nat
  bofs : Int
  slabno : Nat
  time : BitVec 64
deriving DecidableEq, Repr

/-- A stockpile's control (R193, R194). -/
structure Stock where
  newest : BitVec 32 := 0
  /-- a line has been made resident since the epoch began -/
  any : Bool := false
  closed : BitVec 32 := 0
  anyClosed : Bool := false
  epoch : BitVec 8 := 0
  /-- luma width of its lines (R191) -/
  w : Nat := 0
deriving DecidableEq, Repr

/-- A closing record of a head's slab (R194): plane, first and last LNUM of its lines, and how it closed. -/
structure ClosingRec where
  last : List (Nat × BitVec 32 × BitVec 32)
  close : SlabClose
deriving DecidableEq, Repr

/-- The geometry of one set (R196): A0, A1, A2, RIGHT per head and UPC per channel, as register values. -/
structure GeoSet where
  regs : SMap Word := []
deriving DecidableEq, Repr

/-- The states of a Riddle entry (R207). -/
inductive EntSt where
  | pending | ready | shadow | cut | decode | held
deriving DecidableEq, Repr

/-- A result slot of the Riddle: the ashlar fields that the completion port takes from a result block (R280), with the
payload. -/
structure ReadRes where
  sym : Nat := 0
  cause : Nat := 0
  /-- GS1, GS1ERR, ECI, MIRROR, LIGHT, GRADED -/
  flags : BitVec 6 := 0
  pos : BitVec 48 := 0
  cross : BitVec 32 := 0
  angle : Nat := 0
  module : Nat := 0
  cols : Nat := 0
  rows : Nat := 0
  extu : Nat := 0
  extv : Nat := 0
  grades : BitVec 40 := 0
  spare : Nat := 0
  rchk : Nat := 0
  errs : Nat := 0
  eras : Nat := 0
  scv : Nat := 0
  pgx : Nat := 0
  pgy : Nat := 0
  payload : List Byte := []
deriving DecidableEq, Repr

/-- An oriented box on the web: the angle of its axes in 0.01 degrees, its centre (across in 2^-16 µm, along in 48.16
counts), and its extents in 2^-16 µm (R199). -/
structure WebBox where
  phi : Nat := 0
  xc : Int := 0
  yc : BitVec 64 := 0
  eu : Nat := 0
  ev : Nat := 0
deriving DecidableEq, Repr

/-- An entry of the Riddle table (R199 to R219). -/
structure Entry where
  st : EntSt
  chan : Nat
  cls : Nat
  planeA : Nat
  planeB : Nat
  mode : Nat
  box : WebBox
  /-- the box before margins (R199, R218) -/
  tight : WebBox
  /-- pieces joined in it (R197, R201, R202) -/
  joined : Bool := false
  /-- HEADB is HEADA unless XJOIN -/
  headA : Nat
  headB : Nat
  xjoin : Bool := false
  solo : Bool := false
  trunc : Bool := false
  retry : Bool := false
  part : Bool := false
  late : Bool := false
  clipped : Bool := false
  cutF : Bool := false
  fl : LFlags
  score : Nat
  ntiles : Nat
  /-- TIMEs of its deadline and of the line at its trailing edge -/
  deadline : BitVec 64
  edgeTime : BitVec 64
  /-- AON time and number of its arrival -/
  arrived : BitVec 64
  order : Nat
  gset : Bool
  /-- it reaches the end of its head's line on the -cross and the +cross side and the head has a neighbour there
  (R200); head and Seam context of each piece whose continuation it awaits (R202) -/
  fragM : Bool := false
  fragP : Bool := false
  trk : List (Nat × Nat) := []
  /-- the entry that is its shadow -/
  shadow : Option Nat := none
  bench : Nat := 0
  slot : Nat := 0
  /-- LNUM ranges used: head, plane, lowest, highest (R215) -/
  used : List (Nat × Nat × BitVec 32 × BitVec 32) := []
  /-- the head and plane 4h + p that supplied each pixel of the patch, 64 for none, in run lengths (R243) -/
  src : List (Nat × Nat) := []
  /-- patch size and pitch in 2^-10 µm, interpolation (R211, R218) -/
  wid : Nat := 0
  hgt : Nat := 0
  q : Nat := 0
  cubic : Bool := false
  /-- the hewer that took its ticket -/
  hewer : Nat := 255
  /-- how it completed: 0 not yet, 1 read, 2 NOREAD, 3 NOREAD at its deadline in the Riddle -/
  done : Nat := 0
deriving DecidableEq, Repr

/-- A history record (R206). -/
structure HistRec where
  chan : Nat
  cls : Nat
  xc : Int
  yc : BitVec 64
  phi : Nat
  read : Bool
deriving DecidableEq, Repr

/-- A read of a geometry target (R197): its head and channel, the source column of its centre in 2^-8 pixels, the text's
x and y in µm, and its POSITION. -/
structure TargetRead where
  head : Nat
  chan : Nat
  col : Int
  x : Int
  y : Int
  pos : BitVec 48
deriving DecidableEq, Repr

/-- The Riddle (R196 to R220). -/
structure Riddle where
  queue : List Cand := []
  table : SMap (Option Entry) := []
  /-- the result slots in DRAM (R279) -/
  slots : SMap (Option ReadRes) := []
  history : List HistRec := []
  /-- the two geometry sets, the one in force, a held commit -/
  geo0 : GeoSet := {}
  geo1 : GeoSet := {}
  gset : Bool := false
  gpend : Bool := false
  order : Nat := 0
  lastBench : Nat := 7
  lastOvf : Option (BitVec 64) := none
  /-- target reads since the last calibration, newest first (R197) -/
  target : List TargetRead := []
deriving DecidableEq, Repr, Inhabited

/-- A Kerf: the entry it cuts with NEWEST of the stockpiles the cut uses when it began (R210, R215), when that was, and the
output pixels not yet counted in PIX (R221). -/
structure Kerf where
  job : Option (Nat × List (Nat × BitVec 32)) := none
  began : BitVec 64 := 0
  rem : Nat := 0
deriving DecidableEq, Repr

end Sys2Proof.Machine
end

