-- ==== Sys2Proof/Machine/StateBench.lean ====
section
/-!
DEFINITION. The parts of the state that compute and talk: benches, hewers, ECC units, DMA, mailboxes.
-/
namespace Sys2Proof.Machine

/-- A destination register of a result (R306, R308). -/
inductive Target where
  | d (n : Nat)
  | a (n : Nat)
  | acc (n : Nat)
deriving DecidableEq, Repr

/-- The value of a result in flight: a word, an accumulator value, or a term added to the accumulator when the result
lands (R317). -/
inductive FVal where
  | word (w : Word)
  | accSet (v : BitVec 48)
  | accAdd (p : Int)
deriving DecidableEq, Repr

/-- A result in flight: destination, value and the bundle from which it can be read (R269). -/
structure Flight where
  tgt : Target
  val : FVal
  land : Nat
deriving DecidableEq, Repr

/-- An access through the shared port (R264): performed in bundle `at_`, a load's result landing in `land`. -/
structure PortAcc where
  addr : Nat
  wr : Option Word
  tgt : Option Target
  at_ : Nat
  land : Nat
deriving DecidableEq, Repr

/-- The flags Z, N, C, V (R309). -/
structure Flags where
  z : Bool := false
  n : Bool := false
  c : Bool := false
  v : Bool := false
deriving DecidableEq, Repr

/-- What the BR syllable of a bundle decided: nothing, a taken branch, a loop start, a halt (R326 to R329). -/
inductive BrAct where
  | none_
  | goto (pc : Nat)
  | loop (i : Nat) (first last : Nat) (count : Word)
  | halt
deriving DecidableEq, Repr

/-- The operations of the opcode maps. -/
inductive TOp where
  | alNop | mov | add | sub | neg | abs | addc | subc | and | or | xor | andn | not | cmp | tst | min | max | minu | maxu
  | shl | shr | sar | rol | clz | crcs | par | brev | dadd | dadc | dsub | dsbc | dsl | dsr | d2b | b2d
  | muNop | mul | mulu | fmul | mpya | fmpya | mac | msu | fmac | fmsu | clra | movta | ext | divq | divr | fdiv
  | muCrcs | muPar | muBrev | lsNop | ld | st | brNop | b | call | jr | loop | loopi | halt
deriving DecidableEq, Repr

/-- A syllable as it is read: an extension, a reserved slot code, or a slot syllable with the operation its opcode names. -/
inductive RawSyl where
  | ext (w : Word)
  | reserved
  | slot (o : Option TOp) (y : Syl)
deriving DecidableEq, Repr

/-- The bundle being issued: slots occupied, its number of syllables, staged flags with the slot that wrote them (R306),
stores to own memory by slot, results, the shared-range access of LS0 and that of LS1 with its other results (R264), the BR
action, sticky bits to set. -/
structure Bundle where
  slots : List Slot := []
  syls : Nat := 0
  flags : Option (Nat × Flags) := none
  stores : List (Nat × Nat × Word) := []
  flights : List Flight := []
  port0 : Option PortAcc := none
  port1 : Option (PortAcc × List Flight) := none
  br : BrAct := .none_
  /-- the taken branch is a call with this link register (R305) -/
  link : Option Nat := none
  sat : Bool := false
  dz : Bool := false
  ill : Bool := false
deriving DecidableEq, Repr

/-- A hewer or the foreman (R262 to R270, R282, R308, R309, R326 to R332). (DESIGN CHOICE, log 7) -/
structure Hewer where
  d : SMap Word := []
  a : SMap Word := []
  acc : SMap (BitVec 48) := []
  fl : Flags := {}
  sat : Bool := false
  dz : Bool := false
  illop : Bool := false
  illadr : BitVec 16 := 0
  pc : BitVec 16 := 0
  running : Bool := false
  halting : Bool := false
  /-- LB, LE, LC and the active loops in start order, oldest first (R329, R331) -/
  lb : SMap (BitVec 16) := []
  le : SMap (BitVec 16) := []
  lc : SMap Word := []
  loops : List Nat := []
  dmem : SMap Word := []
  imem : SMap (BitVec 40) := []
  /-- bundles issued: the number of the next bundle -/
  cyc : Nat := 0
  flight : List Flight := []
  ports : List PortAcc := []
  /-- pending branches: delay bundles left, target; a pending halt: delay bundles left -/
  branch : List (Nat × Nat) := []
  haltIn : Option Nat := none
  /-- the bundle in progress: its syllables as commands give them, and what the ones taken in do -/
  raw : List RawSyl := []
  cur : Bundle := {}
  /-- a hewer of a bench that the foreman owns: RUN has halted the symbology firmware on it (R282) -/
  fwOff : Bool := false
deriving DecidableEq, Repr

/-- State of a ticket-queue entry (R271). -/
inductive TqSt where
  | free | waiting | taken
deriving DecidableEq, Repr

/-- A ticket-queue entry: state and words. -/
structure TqEnt where
  st : TqSt := .free
  words : List Word := []
  /-- it was freed and no ticket has occupied it since: its words are undefined (R273) -/
  stale : Bool := false
deriving DecidableEq, Repr

/-- An ECC job (R231): the configuration, codeword and erasure list at GO; a refused job carries none of them. -/
structure EccJob where
  refused : Bool
  gf113 : Bool := false
  fcr : Nat := 1
  poly : Nat := 0x12D
  alpha : Nat := 3
  n : Nat := 0
  r : Nat := 0
  cw : Nat := 0x80000
  era : Nat := 0x80000
  nera : Nat := 0
  /-- the codeword and erasure words as they stood at GO (R232) -/
  cwWords : List Word := []
  eraWords : List Word := []
  /-- one of them has been changed since -/
  dirty : Bool := false
deriving DecidableEq, Repr

/-- A copy of the completion port in progress (R279). -/
structure CmpJob where
  entry : Nat
  result : Nat
  block : List Word
  payload : List Word
deriving DecidableEq, Repr

/-- A bench (R262 to R289). -/
structure Bench where
  shared : SMap Word := []
  tq : SMap TqEnt := []
  /-- waiting entries, oldest first -/
  order : List Nat := []
  eccOwner : Nat := 0
  ecc : Option EccJob := none
  /-- results of the last ECC job are undefined (R232) -/
  cmp : SMap (Option CmpJob) := []
  leased : Bool := false
  /-- base of the lease buffer (R287), and the patch area and ECC registers as they stood at the lease (R289) -/
  buf : Option Nat := none
  saved : List Word := []
  cyc : BitVec 64 := 0
  /-- the DMA channel served last, and the units left of its block (R277) -/
  dmaCh : Nat := 8
  dmaLeft : Nat := 0
  /-- the foreman is restarting the bench (R426): its BENCHES bit as it stood before -/
  restart : Option Bool := none
deriving DecidableEq, Repr

/-- One end's outgoing queue with its flags (R335, R336): words with their LAST marks. -/
structure BoxEnd where
  out : List (Word × Bool) := []
  txovf : Bool := false
  rxund : Bool := false
deriving DecidableEq, Repr

/-- A mailbox (R333 to R345). -/
structure Mbx where
  near : BoxEnd := {}
  far : BoxEnd := {}
  /-- owner number of the wedge, 0 free -/
  wedge : Nat := 0
deriving DecidableEq, Repr

/-- A request in the foreman's system window (R286). -/
structure SwReq where
  addr : BitVec 40
  wr : Option Word
  pos : Nat
deriving DecidableEq, Repr

end Sys2Proof.Machine
end

