-- ==== Sys2Proof/Machine/StateSys.lean ====
section
/-!
DEFINITION. The parts of the state outside the image path: serial ports, command-line channels, firmware settings,
result staging, flash, Spoil log, host link, JTAG.
-/
namespace Sys2Proof.Machine

/-- Driver enable of UART0 (R391). -/
inductive DePhase where
  | idle | active | tail
deriving DecidableEq, Repr

/-- A serial port (R386 to R393). -/
structure Uart where
  /-- receive FIFO, oldest first, as RX words (R397) -/
  rx : List (BitVec 12) := []
  tx : List (BitVec 9) := []
  /-- the character being sent -/
  shift : Option (BitVec 9) := none
  muted : Bool := true
  /-- re-arms only after a sample that reads high (R386) -/
  waitHigh : Bool := false
  line : Bool := true
  de : DePhase := .idle
  /-- characters sent on TXD, oldest first -/
  sent : List (BitVec 9) := []
  /-- registers to be written after the last stop bit of `ok` (R393) -/
  after : List (Nat × Word) := []
deriving DecidableEq, Repr

/-- The error codes of R359. -/
inductive ErrCode where
  | syntax_ | verb | ambig | range | unit | busy | state | owned | refused | checksum | toolong | overrun
  | nospace | record | flash | level
deriving DecidableEq, Repr

/-- The causes named by `synclost` (R361). -/
inductive SyncCause where
  | word | reserved | tick | silence | edges | ring
deriving DecidableEq, Repr

/-- The events of R361 with their arguments. -/
inductive Event where
  | ready (set_ : Option Nat) (err : Option ErrCode)
  | drop (f c : Nat)
  | candovf (s c : Nat)
  | riddleovf
  | resultfull
  | trend (t : Nat) (low : Bool) (param : String) (mean : Nat)
  | encindex (e : Nat) (dev : Int)
  | synclost (c : SyncCause)
  | fault (cls : SpoilClass) (unit_ : BitVec 8) (out : SpoilOutcome) (rep : Nat)
deriving DecidableEq, Repr

/-- The record kinds of R435 that carry tables, and boot images. -/
inductive RecKind where
  | table (k : TblKind)
  | bootImage
deriving DecidableEq, Repr

/-- A flash record (R435): kind, name, payload, WSEQ, and whether copies 1 and 2 pass their check. -/
structure FlashRec where
  kind : RecKind
  name : String
  payload : List Byte
  wseq : Nat
  ok1 : Bool := true
  ok2 : Bool := true
deriving DecidableEq, Repr

/-- A configuration set in flash (R378): its name, the text of its commands line by line, and its check word; whether its area
can be read (R427). -/
structure CfgSet where
  name : String
  lines : List (List Byte)
  crc : BitVec 32
  readable : Bool := true
deriving DecidableEq, Repr

/-- A boot image record in flash (R437): whether it passes its check and its level range, versions, payload. -/
structure BootImg where
  ok : Bool := true
  cl1 : Bool := true
  fwf : BitVec 24 := 0x010000
  fwb : BitVec 24 := 0x010000
  payload : List Byte := []
deriving DecidableEq, Repr

/-- A command whose response is not complete: its tag, whether its response carries checksums, whether it was broadcast (R356,
R357, R369). -/
structure CurCmd where
  tag : List Byte := []
  check : Bool := false
  broadcast : Bool := false
  /-- UART0: an address character came meanwhile, so nothing is sent (R370) -/
  dropped : Bool := false
deriving DecidableEq, Repr

/-- What a long command works on (R364, R382): `load` and `save` of a set, `riddle calibrate`, one boot image or both, calibration
records, `lease` and `return` of a bench, a Face table with the records it reads. -/
inductive LongWork where
  | load | save | calibrate
  | image (b : Option Bool)
  | record (names : List String)
  | lease (b : Nat)
  | table (f : Nat) (names : List String)
deriving DecidableEq, Repr

/-- What stands again where flash fails a long command (R359, R378, R435): a set, a record, an image, or, for a load, no
enable. -/
inductive Undo where
  | nothing
  | set (n : Nat) (old : Option CfgSet)
  | record (name : String) (old : Option FlashRec)
  | image (b : Bool) (old : BootImg)
  | enables (n : Nat)
deriving DecidableEq, Repr

/-- A long command that holds its channel (R364): an I2C transaction, a measurement, or work that is done and whose response
is to come. -/
inductive LongCmd where
  | i2c (p : Nat) (rlen : Nat)
  | cal (f c : Nat)
  | work (w : LongWork) (lines : List (List Byte)) (fail : Bool) (u : Undo)
deriving DecidableEq, Repr

/-- A received character of a channel: the character, whether it came under the broadcast address (R369), and on a
terminator whether its line lost characters (R350) or had more than 512 (R349). -/
structure InChar where
  ch : Byte
  bcast : Bool := false
  bad : Bool := false
  tooLong : Bool := false
deriving DecidableEq, Repr

/-- A command-line channel (R348 to R373). Output characters carry the address bit in bit 8. -/
structure CmdChan where
  inp : List InChar := []
  /-- a character of the line in progress was lost (R350); one after its 512th was discarded (R349) -/
  lost : Bool := false
  tooLong : Bool := false
  out : List (BitVec 9) := []
  lostEv : Nat := 0
  echo : Bool := false
  events : Bool := true
  check : Bool := false
  cur : CurCmd := {}
  long : Option LongCmd := none
  /-- UART0: addressed alone, or by broadcast; failed broadcasts; queued events (R367 to R371) -/
  addressed : Bool := false
  bcast : Bool := false
  bcastFail : Nat := 0
  evq : List (List Byte) := []
  /-- text-result queue of a UART and its losses (R260) -/
  textq : List (List Byte) := []
  textLost : Nat := 0
deriving DecidableEq, Repr

/-- The settings of a symbology (R240, R242) and its counts since the last report (R241). -/
structure SymSet where
  on : Bool := false
  pol : Tri := .auto
  mirror : Tri := .auto
  eraseConf : Nat := 64
  eraseMax : Nat := 50
  reserve : Nat := 0
  scans : Nat := 8
  agree : Nat := 2
  qz : Nat := 5
  check : Bool := false
  fullascii : Bool := false
  lenMin : Nat := 1
  lenMax : Nat := 80
  lens : List Nat := []
  grade : Bool := true
  reads : Nat := 0
  /-- NOREADs by cause code -/
  noreads : SMap Nat := []
deriving DecidableEq, Repr

/-- A trend monitor (R249, R250). -/
structure TrendMon where
  sym : Option Nat := none
  heads : List Nat := []
  planes : List Nat := []
  param : GradeParam := .overall
  window : Nat := 1
  below : Nat := 0
  above : Nat := 0
  noread : Bool := false
  low : Bool := false
  /-- last WINDOW entries, newest first -/
  entries : List Nat := []
  total : Nat := 0
deriving DecidableEq, Repr

/-- The firmware settings of `sym`, `grade` and `result` (R240, R261). -/
structure FwSet where
  syms : SMap SymSet := []
  orderLin : List Nat := [4, 8, 9, 10, 11, 6, 7]
  orderGrid : List Nat := [1, 2]
  orderDot : List Nat := [3, 1]
  gs1Strict : Bool := false
  aper : Nat := 80
  /-- K_hp as (percent, y8), by 4h + p (R243) -/
  refl : SMap (Nat × Nat) := []
  trends : SMap (Option TrendMon) := []
  text : Option Nat := none
  detail : Bool := false
deriving DecidableEq, Repr, Inhabited

/-- A released result waiting in staging (R257): its ashlar but for the posting fields, its payload, and what the
trend monitors and text lines need. -/
structure Staged where
  seq : BitVec 20
  ashlar : List Byte
  payload : List Byte
  time : BitVec 64
  /-- its copies in DRAM are undefined or unreadable (R428, R433) -/
  undef : Bool := false
deriving DecidableEq, Repr

/-- Result staging and posting (R256 to R258). -/
structure Results where
  staging : List Staged := []
  nextSeq : BitVec 20 := 0
  lastPost : Option (BitVec 64) := none
  lastFull : Option (BitVec 64) := none
deriving DecidableEq, Repr, Inhabited

/-- Flash and OTP (R434 to R437). (DESIGN CHOICE, log 8) -/
structure Flash where
  recs : List FlashRec := []
  sets : SMap (Option CfgSet) := []
  imgA : BootImg := {}
  imgB : BootImg := {}
  preferB : Bool := false
  bootSet : Option Nat := none
  serial : BitVec 24 := 0
  otpOk : Bool := true
  trimOk : Bool := true
deriving DecidableEq, Repr, Inhabited

/-- STATE of a Spoil entry (R432). -/
inductive SpoilSt where
  | new | inhand | handled
deriving DecidableEq, Repr

/-- A Spoil entry (R422, R432). -/
structure SpoilEnt where
  cls : SpoilClass
  fw : Bool
  unit_ : BitVec 8
  st : SpoilSt := .new
  prior : Bool := false
  rep : Nat := 1
  out : SpoilOutcome
  time : BitVec 64
  detail : BitVec 80
deriving DecidableEq, Repr

/-- The Spoil log, the units out of service, and the times of recent transient outcomes (R421 to R432). -/
structure Spoil where
  ents : List SpoilEnt := []
  lost : BitVec 20 := 0
  out : List (BitVec 8) := []
  transients : List (SpoilClass × BitVec 8 × BitVec 64) := []
deriving DecidableEq, Repr, Inhabited

/-- The PCI Express endpoint (R469 to R475). -/
structure Pcie where
  up : Bool := false
  width : Nat := 0
  speed : Nat := 0
  bme : Bool := false
  mse : Bool := false
  d3 : Bool := false
  perst : Bool := false
  /-- writable configuration registers, by register number -/
  cfg : SMap (BitVec 32) := []
  /-- last completion: Unsupported Request, poisoned, data -/
  ur : Bool := false
  ep : Bool := false
  data : List Byte := []
  /-- host memory writing was stopped and the mirror has not been rewritten since (R475) -/
  stale : Bool := false
  /-- stream ring served last (R476) -/
  lastRing : Nat := 47
deriving DecidableEq, Repr, Inhabited

/-- The IEEE 1149.1 TAP (R466). -/
inductive TapSt where
  | reset | idle | selDr | capDr | shDr | ex1Dr | pauDr | ex2Dr | updDr
  | selIr | capIr | shIr | ex1Ir | pauIr | ex2Ir | updIr
deriving DecidableEq, Repr

/-- JTAG (R466). -/
structure Jtag where
  tap : TapSt := .reset
  ir : BitVec 4 := 2
  irSh : BitVec 4 := 0
  /-- the selected data register while it is shifted, first bit out first -/
  dr : List Bool := []
  /-- boundary cells as updated: what EXTEST drives -/
  upd : List Bool := []
  /-- TDO, where it is driven (R454) -/
  tdo : Option Bool := none
deriving DecidableEq, Repr, Inhabited

/-- A calibration measurement in progress (R440 to R442). -/
structure CalJob where
  chNo : Nat
  flat : Bool
  f : Nat
  c : Nat
  plane : Nat
  target : Nat
  lines : Nat
  tol : Nat
  name : String
  /-- lines taken in the run in progress and their column sums; means of the first run; pairs run -/
  got : Nat := 0
  sums : List Nat := []
  first : Option (List Nat) := none
  pairs : Nat := 0
  started : BitVec 64 := 0
deriving DecidableEq, Repr

end Sys2Proof.Machine
end

