-- ==== Sys2Proof/Machine/State.lean ====
section
/-!
DEFINITION. The state of the engine: every register, memory, queue, buffer and mode the manual gives it, the queue of
waiting commands, the faults and refusals, and the state after reset.
-/
namespace Sys2Proof.Machine

/-- The scope of an undefined result of R433 that lasts until a reset: the registers and outputs of a block (its number
and instances, and the part of it that has an enable of its own), or everything. -/
inductive Scope where
  | part (b : BlockId) (i j p : Nat)
  | all
deriving DecidableEq, Repr

/-- The engine. Maps are sparse (`SMap`): a key that is not listed has its default, which is the reset value of what
the key names. (DESIGN CHOICE, log 2) -/
structure State where
  /-- commands waiting, first in, first out (the model's own; log 2) -/
  pending : List Instr := []
  /-- free values drawn so far (the model's own; log 1) -/
  free : Nat := 0
  /-- what the last register read of each reader returned (the model's own) -/
  rd : SMap (BitVec 32) := []
  /-- cycles of the AON clock; TIME (R45) is this count plus the offset that lock-step alignment sets (R76) -/
  time : BitVec 64 := 0
  tofs : BitVec 64 := 0
  pw : Power := {}
  /-- device registers by fabric address: the value a read returns, for fields that are not computed -/
  regs : SMap Word := []
  /-- the values of RWS registers that are in effect (R8) -/
  act : SMap Word := []
  /-- latches by reader and address (R490) -/
  latch : SMap Word := []
  /-- units released by `own` (R376) -/
  released : List OwnUnit := []
  /-- DRAM by offset from 0x10_0000_0000, and host memory by address, as the engine wrote it -/
  dram : SMap Byte := []
  hostMem : SMap Byte := []
  /-- allocations in the foreman's DRAM pool: base offset, size (R160, R195) -/
  pool : List (Nat × Nat) := []
  encs : SMap Enc := []
  scheds : SMap Sched := []
  heads : SMap Head := []
  seqs : SMap Seq := []
  sync : Sync := {}
  gpio : Gpio := {}
  ports : SMap Port := []
  faces : SMap Face := []
  fctxs : SMap FCtx := []
  sctxs : SMap SCtx := []
  /-- last candidate record of each Seam (R184) -/
  seamLast : SMap (Option Cand) := []
  stocks : SMap Stock := []
  closings : SMap (List ClosingRec) := []
  riddle : Riddle := {}
  kerfs : SMap Kerf := []
  benches : SMap Bench := []
  /-- bench hewers 8b + h, the foreman 64 -/
  cores : SMap Hewer := []
  boxes : SMap Mbx := []
  swq : List SwReq := []
  uarts : SMap Uart := []
  chans : SMap CmdChan := []
  /-- the channel whose command was begun last (R364) -/
  turn : Nat := 9
  fw : FwSet := {}
  res : Results := {}
  flash : Flash := {}
  spoil : Spoil := {}
  pcie : Pcie := {}
  jtag : Jtag := {}
  /-- calibration measurements in progress, at most one for each channel (R364) -/
  cal : List CalJob := []
  /-- the undefined results of R433 that last until a reset -/
  undef : List Scope := []
deriving DecidableEq, Repr, Inhabited

/-- The faults: none. Each undefined case of R433 confines its result to a scope, and the engine goes on. -/
inductive Fault where
deriving DecidableEq, Repr

/-- Any state: what an undefined result of R433 may leave, by the number of the draw. -/
opaque Config.anyState : Nat → State

/-- The refusals. -/
inductive Refusal where
  /-- a command whose meaning is not written yet; raised by `exec` alone; safe -/
  | notModelled (mnemonic : String)
deriving DecidableEq, Repr

/-- The outcome of a command. -/
abbrev Out := Host.Outcome State Fault Refusal

/-- The engine in Reset, right after the 3.3 V standby input has first become valid (R26, R27): only PD0 is on, every
register holds its reset value, every memory, queue and table is empty. (DESIGN CHOICE, log 4) (DESIGN CHOICE, log 5)
(DESIGN CHOICE, log 6) -/
def State.reset : State := {}

end Sys2Proof.Machine
end

