-- ==== Sys2Proof/Machine/Ops.lean ====
section
/-!
DEFINITION. The named operations over the state: sparse maps, register fields, counters, latches, free values, memory
bytes, time, domains, ownership, the access codes of R8 and the live-unsafe rule of R489.
-/
namespace Sys2Proof

/-- The value at a key; the key's default where the map lists none. -/
def SMap.get {α : Type} (d : Nat → α) : SMap α → Nat → α
  | [], k => d k
  | (j, v) :: m, k => if k = j then v else SMap.get d m k

/-- A listed value put in its place; keys stay rising. -/
def SMap.insert {α : Type} (k : Nat) (v : α) : SMap α → SMap α
  | [] => [(k, v)]
  | (j, w) :: m => if k < j then (k, v) :: (j, w) :: m else if k = j then (k, v) :: m else (j, w) :: SMap.insert k v m

/-- No value listed at a key. -/
def SMap.erase {α : Type} (k : Nat) (m : SMap α) : SMap α := m.filter (fun e => e.1 ≠ k)

/-- A value set at a key: writing the key's default removes the entry. -/
def SMap.set {α : Type} [DecidableEq α] (d : Nat → α) (m : SMap α) (k : Nat) (v : α) : SMap α :=
  if v = d k then SMap.erase k m else SMap.insert k v m

/-- The canonical form: keys strictly rising, no listed value equal to its key's default. -/
def SMap.wf {α : Type} [DecidableEq α] (d : Nat → α) : SMap α → Bool
  | [] => true
  | [(k, v)] => v ≠ d k
  | (k, v) :: (j, w) :: m => decide (k < j) && decide (v ≠ d k) && SMap.wf d ((j, w) :: m)

/-- A map brought to its canonical form. -/
def SMap.canon {α : Type} [DecidableEq α] (d : Nat → α) (m : SMap α) : SMap α :=
  m.foldl (fun k e => SMap.set d k e.1 e.2) []

/-- A run of consecutive keys set from a list. -/
def SMap.setRun {α : Type} [DecidableEq α] (d : Nat → α) (m : SMap α) (k : Nat) : List α → SMap α
  | [] => m
  | v :: vs => SMap.setRun d (SMap.set d m k v) (k + 1) vs

/-- A run of consecutive keys read. -/
def SMap.getRun {α : Type} (d : Nat → α) (m : SMap α) (k n : Nat) : List α :=
  (List.range n).map (fun i => SMap.get d m (k + i))

namespace Machine

/-- UART0 is muted after reset (R390). -/
def Uart.init (u : Nat) : Uart := { muted := u == 0 }

/-- The register, by fabric address. -/
def State.reg (s : State) (k : Nat) : Word := SMap.get (RegMap.reset) s.regs k

/-- The state with that register replaced. -/
def State.setReg (s : State) (k : Nat) (v : Word) : State := { s with regs := SMap.set (RegMap.reset) s.regs k v }

/-- The value in effect of an RWS register. -/
def State.eff (s : State) (k : Nat) : Word := SMap.get (RegMap.reset) s.act k

/-- The state with that value in effect of an RWS register replaced. -/
def State.setEff (s : State) (k : Nat) (v : Word) : State := { s with act := SMap.set (RegMap.reset) s.act k v }

/-- The latch, by reader and address. -/
def State.latched (s : State) (k : Nat) : Word := SMap.get (fun _ => (0 : Word)) s.latch k

/-- The state with that latch replaced. -/
def State.setLatch (s : State) (k : Nat) (v : Word) : State := { s with latch := SMap.set (fun _ => (0 : Word)) s.latch k v }

/-- The last value read, by reader. -/
def State.rdVal (s : State) (k : Nat) : BitVec 32 := SMap.get (fun _ => (0 : BitVec 32)) s.rd k

/-- The state with that last value read replaced. -/
def State.setRd (s : State) (k : Nat) (v : (BitVec 32)) : State := { s with rd := SMap.set (fun _ => (0 : BitVec 32)) s.rd k v }

/-- The byte of DRAM, by offset from its base. -/
def State.dramByte (s : State) (k : Nat) : Byte := SMap.get (fun _ => (0 : Byte)) s.dram k

/-- The state with that byte of DRAM replaced. -/
def State.setDramByte (s : State) (k : Nat) (v : Byte) : State := { s with dram := SMap.set (fun _ => (0 : Byte)) s.dram k v }

/-- The byte of host memory. -/
def State.hostByte (s : State) (k : Nat) : Byte := SMap.get (fun _ => (0 : Byte)) s.hostMem k

/-- The state with that byte of host memory replaced. -/
def State.setHostByte (s : State) (k : Nat) (v : Byte) : State := { s with hostMem := SMap.set (fun _ => (0 : Byte)) s.hostMem k v }

/-- The encoder channel. -/
def State.enc (s : State) (k : Nat) : Enc := SMap.get (fun _ => ({} : Enc)) s.encs k

/-- The state with that encoder channel replaced. -/
def State.setEnc (s : State) (k : Nat) (v : Enc) : State := { s with encs := SMap.set (fun _ => ({} : Enc)) s.encs k v }

/-- The schedule of a channel. -/
def State.sched (s : State) (k : Nat) : Sched := SMap.get (fun _ => ({} : Sched)) s.scheds k

/-- The state with that schedule of a channel replaced. -/
def State.setSched (s : State) (k : Nat) (v : Sched) : State := { s with scheds := SMap.set (fun _ => ({} : Sched)) s.scheds k v }

/-- The head. -/
def State.head (s : State) (k : Nat) : Head := SMap.get (fun _ => ({} : Head)) s.heads k

/-- The state with that head replaced. -/
def State.setHead (s : State) (k : Nat) (v : Head) : State := { s with heads := SMap.set (fun _ => ({} : Head)) s.heads k v }

/-- The sequencer. -/
def State.seq (s : State) (k : Nat) : Seq := SMap.get (fun _ => ({} : Seq)) s.seqs k

/-- The state with that sequencer replaced. -/
def State.setSeq (s : State) (k : Nat) (v : Seq) : State := { s with seqs := SMap.set (fun _ => ({} : Seq)) s.seqs k v }

/-- The camera port. -/
def State.port (s : State) (k : Nat) : Port := SMap.get (fun _ => ({} : Port)) s.ports k

/-- The state with that camera port replaced. -/
def State.setPort (s : State) (k : Nat) (v : Port) : State := { s with ports := SMap.set (fun _ => ({} : Port)) s.ports k v }

/-- The Face. -/
def State.face (s : State) (k : Nat) : Face := SMap.get (fun _ => ({} : Face)) s.faces k

/-- The state with that Face replaced. -/
def State.setFace (s : State) (k : Nat) (v : Face) : State := { s with faces := SMap.set (fun _ => ({} : Face)) s.faces k v }

/-- The Face context, by 4f + c. -/
def State.fctx (s : State) (k : Nat) : FCtx := SMap.get (fun _ => ({} : FCtx)) s.fctxs k

/-- The state with that Face context replaced. -/
def State.setFctx (s : State) (k : Nat) (v : FCtx) : State := { s with fctxs := SMap.set (fun _ => ({} : FCtx)) s.fctxs k v }

/-- The Seam context, by 4s + c. -/
def State.sctx (s : State) (k : Nat) : SCtx := SMap.get (fun _ => ({} : SCtx)) s.sctxs k

/-- The state with that Seam context replaced. -/
def State.setSctx (s : State) (k : Nat) (v : SCtx) : State := { s with sctxs := SMap.set (fun _ => ({} : SCtx)) s.sctxs k v }

/-- The last record of a Seam. -/
def State.lastCand (s : State) (k : Nat) : Option Cand := SMap.get (fun _ => (none : Option Cand)) s.seamLast k

/-- The state with that last record of a Seam replaced. -/
def State.setLastCand (s : State) (k : Nat) (v : (Option Cand)) : State := { s with seamLast := SMap.set (fun _ => (none : Option Cand)) s.seamLast k v }

/-- The stockpile, by 4h + p. -/
def State.stock (s : State) (k : Nat) : Stock := SMap.get (fun _ => ({} : Stock)) s.stocks k

/-- The state with that stockpile replaced. -/
def State.setStock (s : State) (k : Nat) (v : Stock) : State := { s with stocks := SMap.set (fun _ => ({} : Stock)) s.stocks k v }

/-- The closing records of a head. -/
def State.closing (s : State) (k : Nat) : List ClosingRec := SMap.get (fun _ => ([] : List ClosingRec)) s.closings k

/-- The state with that closing records of a head replaced. -/
def State.setClosing (s : State) (k : Nat) (v : (List ClosingRec)) : State := { s with closings := SMap.set (fun _ => ([] : List ClosingRec)) s.closings k v }

/-- The Kerf. -/
def State.kerf (s : State) (k : Nat) : Kerf := SMap.get (fun _ => ({} : Kerf)) s.kerfs k

/-- The state with that Kerf replaced. -/
def State.setKerf (s : State) (k : Nat) (v : Kerf) : State := { s with kerfs := SMap.set (fun _ => ({} : Kerf)) s.kerfs k v }

/-- The bench. -/
def State.bench (s : State) (k : Nat) : Bench := SMap.get (fun _ => ({} : Bench)) s.benches k

/-- The state with that bench replaced. -/
def State.setBench (s : State) (k : Nat) (v : Bench) : State := { s with benches := SMap.set (fun _ => ({} : Bench)) s.benches k v }

/-- The hewer core, by 8b + h, the foreman 64. -/
def State.core (s : State) (k : Nat) : Hewer := SMap.get (fun _ => ({} : Hewer)) s.cores k

/-- The state with that hewer core replaced. -/
def State.setCore (s : State) (k : Nat) (v : Hewer) : State := { s with cores := SMap.set (fun _ => ({} : Hewer)) s.cores k v }

/-- The mailbox. -/
def State.box (s : State) (k : Nat) : Mbx := SMap.get (fun _ => ({} : Mbx)) s.boxes k

/-- The state with that mailbox replaced. -/
def State.setBox (s : State) (k : Nat) (v : Mbx) : State := { s with boxes := SMap.set (fun _ => ({} : Mbx)) s.boxes k v }

/-- The serial port. -/
def State.uart (s : State) (k : Nat) : Uart := SMap.get (Uart.init) s.uarts k

/-- The state with that serial port replaced. -/
def State.setUart (s : State) (k : Nat) (v : Uart) : State := { s with uarts := SMap.set (Uart.init) s.uarts k v }

/-- The command-line channel. -/
def State.chan (s : State) (k : Nat) : CmdChan := SMap.get (fun _ => ({} : CmdChan)) s.chans k

/-- The state with that command-line channel replaced. -/
def State.setChan (s : State) (k : Nat) (v : CmdChan) : State := { s with chans := SMap.set (fun _ => ({} : CmdChan)) s.chans k v }

/-- The state with `sync` replaced. -/
def State.setSync (s : State) (v : Sync) : State := { s with sync := v }

/-- The state with `gpio` replaced. -/
def State.setGpio (s : State) (v : Gpio) : State := { s with gpio := v }

/-- The state with `pw` replaced. -/
def State.setPw (s : State) (v : Power) : State := { s with pw := v }

/-- The state with `time` replaced. -/
def State.setTime (s : State) (v : (BitVec 64)) : State := { s with time := v }

/-- The state with `tofs` replaced. -/
def State.setTofs (s : State) (v : (BitVec 64)) : State := { s with tofs := v }

/-- The state with `riddle` replaced. -/
def State.setRiddle (s : State) (v : Riddle) : State := { s with riddle := v }

/-- The state with `fw` replaced. -/
def State.setFw (s : State) (v : FwSet) : State := { s with fw := v }

/-- The state with `res` replaced. -/
def State.setRes (s : State) (v : Results) : State := { s with res := v }

/-- The state with `turn` replaced. -/
def State.setTurn (s : State) (v : Nat) : State := { s with turn := v }

/-- The state with `flash` replaced. -/
def State.setFlash (s : State) (v : Flash) : State := { s with flash := v }

/-- The state with `spoil` replaced. -/
def State.setSpoil (s : State) (v : Spoil) : State := { s with spoil := v }

/-- The state with `pcie` replaced. -/
def State.setPcie (s : State) (v : Pcie) : State := { s with pcie := v }

/-- The state with `jtag` replaced. -/
def State.setJtag (s : State) (v : Jtag) : State := { s with jtag := v }

/-- The state with `cal` replaced. -/
def State.setCal (s : State) (v : (List CalJob)) : State := { s with cal := v }

/-- The state with `swq` replaced. -/
def State.setSwq (s : State) (v : (List SwReq)) : State := { s with swq := v }

/-- The state with `released` replaced. -/
def State.setReleased (s : State) (v : (List OwnUnit)) : State := { s with released := v }

/-- The state with `pool` replaced. -/
def State.setPool (s : State) (v : (List (Nat × Nat))) : State := { s with pool := v }

/-- The state with `free` replaced. -/
def State.setFree (s : State) (v : Nat) : State := { s with free := v }

/-- The state with `undef` replaced. -/
def State.setUndef (s : State) (v : (List Scope)) : State := { s with undef := v }

/-- The state with `pending` replaced. -/
def State.setPending (s : State) (v : (List Instr)) : State := { s with pending := v }

/-! ### Numbers and bits -/

/-- Bits `hi` to `lo` of a number. -/
def bits (v hi lo : Nat) : Nat := (v >>> lo) % 2 ^ (hi + 1 - lo)

/-- Bit `i` of a number. -/
def bit (v i : Nat) : Bool := v.testBit i

/-- A Boolean as 0 or 1. -/
def b2n (b : Bool) : Nat := if b then 1 else 0

/-- A 48-bit difference read as signed (R36). -/
def diff48 (a b : BitVec 48) : Int := (a - b).toInt

/-- A 32-bit difference read as signed. -/
def diff32 (a b : BitVec 32) : Int := (a - b).toInt

/-- `(n + d/2) / d`: division rounded to nearest, halves up. -/
def rdiv (n d : Nat) : Nat := (2 * n + d) / (2 * d)

/-- Integer division rounded to nearest, halves up (towards +∞). -/
def ridiv (n : Int) (d : Nat) : Int := (2 * n + d).fdiv (2 * d)

/-- Clamp to 0 and a maximum. -/
def clampN (x : Int) (hi : Nat) : Nat := if x < 0 then 0 else min x.toNat hi

/-- Saturation of a signed value. -/
def satInt (x lo hi : Int) : Int := max lo (min hi x)

/-- The list element at an index, 0 beyond the end. -/
def at0 (l : List Nat) (i : Nat) : Nat := l.getD i 0

/-- A number's low bytes, least significant first. -/
def leBytes (v : Nat) : Nat → List Byte
  | 0 => []
  | n + 1 => BitVec.ofNat 8 v :: leBytes (v / 256) n

/-- The number that bytes spell, least significant first. -/
def leNat : List Byte → Nat
  | [] => 0
  | b :: bs => b.toNat + 256 * leNat bs

/-- A list with the element at an index replaced. -/
def setAt {α : Type} (l : List α) (i : Nat) (v : α) : List α := l.set i v

/-- `f` applied to 0 … n−1 in order. -/
def upTo {α : Type} (n : Nat) (f : Nat → α → α) (a : α) : α := (List.range n).foldl (fun x i => f i x) a

/-! ### Registers -/

/-- A field of a register as a read returns it. -/
def State.fld (s : State) (a hi lo : Nat) : Nat := bits (s.reg a).toNat hi lo

/-- A field of an RWS register as it is in effect. -/
def State.efld (s : State) (a hi lo : Nat) : Nat := bits (s.eff a).toNat hi lo

/-- A one-bit field of a register. -/
def State.flag (s : State) (a i : Nat) : Bool := (s.reg a).toNat.testBit i

/-- A word with bits `hi` to `lo` replaced. -/
def putBits (w : Word) (hi lo v : Nat) : Word := Fld.put ⟨hi, lo, .ro, 0, [], false⟩ w v

/-- The state with a field of a register replaced. -/
def State.setFld (s : State) (a hi lo v : Nat) : State := s.setReg a (putBits (s.reg a) hi lo v)

/-- The state with a one-bit field of a register replaced. -/
def State.setFlag (s : State) (a i : Nat) (b : Bool) : State := s.setFld a i i (b2n b)

/-- A 20-bit counter advanced, saturating (R8). -/
def State.addCnt (s : State) (a n : Nat) : State := s.setReg a (BitVec.ofNat 20 (min ((s.reg a).toNat + n) 0xFFFFF))

/-- A 20-bit counter advanced by one. -/
def State.incr (s : State) (a : Nat) : State := s.addCnt a 1

/-- The shadow of an RWS register takes effect. -/
def State.adopt (s : State) (a : Nat) : State := s.setEff a (s.reg a)

/-- Several shadows take effect. -/
def State.adoptAll (s : State) (l : List Nat) : State := l.foldl State.adopt s

/-- Three 16-bit registers as one 48-bit value. -/
def State.reg48 (s : State) (l m h : Nat) : BitVec 48 :=
  BitVec.ofNat 48 ((s.reg l).toNat % 65536 + 65536 * ((s.reg m).toNat % 65536) + 2 ^ 32 * ((s.reg h).toNat % 65536))

/-- A signed value of `w` bits. -/
def sext (w v : Nat) : Int := if v % 2 ^ w < 2 ^ (w - 1) then ((v % 2 ^ w : Nat) : Int) else ((v % 2 ^ w : Nat) : Int) - (2 ^ w : Nat)

/-! ### Free values, time, domains -/

/-- The next free value and the state that has drawn it (log 1). -/
def State.draw (s : State) : Nat × State := (Config.freeNat s.free, s.setFree (s.free + 1))

/-- `n` free values, each below `m`, and the state that has drawn them. -/
def State.drawList (s : State) (n m : Nat) : List Nat × State :=
  ((List.range n).map (fun i => Config.freeNat (s.free + i) % m), s.setFree (s.free + n))

/-- 5 ns units passed since a moment of the AON clock. -/
def State.since (s : State) (t : BitVec 64) : Nat := (s.time - t).toNat

/-- TIME (R45). -/
def State.tm (s : State) : BitVec 64 := s.time + s.tofs

/-- A microsecond in units of TIME. -/
def usT : Nat := 200

/-- A millisecond in units of TIME. -/
def msT : Nat := 200000

/-- A power domain is on (R404). -/
def State.on (s : State) (d : Nat) : Bool := s.pw.on.toNat.testBit d

/-- In Run, draining or not (R25, R409). -/
def State.inRun (s : State) : Bool := s.pw.st == .run || s.pw.st == .drain

/-- PD0 has its supply. -/
def State.powered (s : State) : Bool := s.pw.st != .unpowered

/-- The power domain of port p, head p's port or Face p/4 (R12). -/
def portPd (p : Nat) : Nat := if p < 8 then 2 else 3

/-- The power domain of Face f and sequencer f. -/
def facePd (f : Nat) : Nat := if f < 2 then 2 else 3

/-- The power domain of bench b. -/
def benchPd (b : Nat) : Nat := if b < 4 then 5 else 6

/-! ### Memory -/

/-- Base of usable DRAM in the fabric address space (R485). -/
def dramBase : Nat := 0x1000000000

/-- Bytes of usable DRAM (R473, R485). -/
def dramSize : Nat := 0x700000000

/-- DRAM bytes from an offset. -/
def State.dramRun (s : State) (o n : Nat) : List Byte := SMap.getRun (fun _ => (0 : Byte)) s.dram o n

/-- DRAM bytes written from an offset; bytes beyond usable DRAM are discarded. -/
def State.putDram (s : State) (o : Nat) (bs : List Byte) : State :=
  { s with dram := SMap.setRun (fun _ => (0 : Byte)) s.dram o (bs.take (dramSize - o)) }

/-- Host memory written by the engine. -/
def State.putHost (s : State) (a : Nat) (bs : List Byte) : State :=
  { s with hostMem := SMap.setRun (fun _ => (0 : Byte)) s.hostMem a bs }

/-! ### Readers and latches (R490) -/

/-- The number of a reader: all host agents together 0, hewer b.h 8b + h + 1, the foreman 65. -/
def readerOf : Agent → Nat
  | .host => 0
  | .hewer b h => 8 * b.val + h.val + 1
  | .foreman => 65

/-- The key of a reader's latch of a register. -/
def latchKey (r a : Nat) : Nat := r * 2 ^ 40 + a

/-- What a read returned to its reader. (DESIGN CHOICE, log 142) -/
def State.ret (s : State) (ag : Agent) (v : BitVec 32) : State := s.setRd (readerOf ag) v

/-- What a register read returned to its reader. -/
def State.retW (s : State) (ag : Agent) (w : Word) : State := s.ret ag (w.setWidth 32)

/-! ### Ownership (R376, R377, R287) -/

/-- The unit of R376 that a block belongs to. -/
def Hit.unit (h : Hit) : Option OwnUnit :=
  match h.blk with
  | .enc | .trgc | .trgh | .gpio | .sync => some .aon
  | .port => some (.port (Fin.ofNat 16 h.i))
  | .seq => some (.seq (Fin.ofNat 4 h.i))
  | .face | .fctx | .fsrc => some (.face (Fin.ofNat 4 h.i))
  | .seam | .sctx => some (.seam (Fin.ofNat 4 h.i))
  | .riddle | .kerf | .stock => some .rk
  | _ => none

/-- A unit is released (R376). -/
def State.isReleased (s : State) (u : OwnUnit) : Bool := s.released.contains u

/-- An agent may write a block: the foreman every block; others released units (R377), leased benches (R287), and the
blocks that have rules of their own (SYS recovery, R438; consumer registers are judged by R480). (DEDUCED, log 85) -/
def State.mayWrite (s : State) (ag : Agent) (h : Hit) : Bool :=
  match ag with
  | .foreman => true
  | _ =>
    match h.unit with
    | some u => s.isReleased u
    | none =>
      match h.blk with
      | .bench => (s.bench h.i).leased
      | .sys | .spoil | .mbxFar | .mbxNear => true
      | _ => false

/-! ### Plain register writes (R8, R9, R489) -/

/-- One field after a write of `w` to a register that held `old`, and whether the encoding was reserved (R8, R9). -/
def Fld.write (f : Fld) (old w : Word) : Word × Bool :=
  match f.acc with
  | .ro | .rc | .wo => (old, false)
  | .w1c => (f.put old (f.get (old &&& ~~~ w)), false)
  | .rwl | .rws => if f.ok (f.get w) then (f.put old (f.get w), false) else (f.put old f.reset, true)

/-- A register after a write, and whether any encoding was reserved. -/
def RegDesc.write (d : RegDesc) (old w : Word) : Word × Bool :=
  d.flds.foldl (fun p f => let q := f.write p.1 w; (q.1, p.2 || q.2)) (old, false)

/-- The status register and bit that hold a block's CFGERR (R9). -/
def Hit.cfgerr (h : Hit) : Option (Nat × Nat) :=
  match h.blk with
  | .enc => some (Adr.encStatus h.i, 4)
  | .uart => some (Adr.uartStatus h.i, 16)
  | .port => if h.desc.off < 0x200 then some (Adr.portStatus h.i, 6) else some (Adr.portI2cStatus h.i, 5)
  | .face | .fctx | .fsrc => some (Adr.faceStatusCfgerr h.i, 0)
  | .seq => some (Adr.seqStatus h.i, 3)
  | .seam | .sctx => some (Adr.seamStatus h.i, 0)
  | .riddle => some (Adr.riddleStatus, 0)
  | .kerf => some (Adr.kerfStatus h.i, 1)
  | .bench =>
    if h.desc.off < 0x80000 then some (Adr.benchStatus h.i, 0)
    else if h.desc.off < 0x90000 then some (Adr.benchTqStatusCfgerr h.i, 0)
    else if h.desc.off < 0xA0000 then some (Adr.benchDmaStat h.i h.k, 4)
    else if h.desc.off < 0xC0000 then some (Adr.benchCmpStat h.i h.k, 3)
    else some (Adr.benchEccStatus h.i, 7)
  | .pcie => some (Adr.pcieStatus, 11)
  | .foreman => some (Adr.foremanSwStatusCfgerr, 0)
  | _ => none

/-- CFGERR of a found register's block set. -/
def State.cfgerr (s : State) (h : Hit) : State :=
  match h.cfgerr with
  | some (a, i) => s.setFlag a i true
  | none => s

/-- The enable that governs a block's live-unsafe fields (R489), as its register and bit; for SYNC the role, for an
ECC unit, a DMA channel, a completion window and an I2C controller BUSY. -/
def State.governs (s : State) (h : Hit) : Bool :=
  match h.blk with
  | .enc => s.flag (Adr.encCtrl h.i) 0
  | .trgc => s.flag (Adr.trgcCtrl h.i) 0
  | .trgh => s.flag (Adr.trghCtrl h.i) 0
  | .sync => s.fld Adr.syncCtrl 1 0 != 0
  | .port => if h.desc.off < 0x200 then s.flag (Adr.portCtrl h.i) 0 else s.flag (Adr.portI2cStatus h.i) 0
  | .seq => s.flag (Adr.seqCtrl h.i) 0
  | .stock => s.flag (Adr.stockCtrl h.i h.j) 0
  | .riddle => s.flag Adr.riddleBenches h.k
  | .bench =>
    if h.desc.off < 0xA0000 then s.flag (Adr.benchDmaStat h.i h.k) 0
    else if h.desc.off < 0xC0000 then s.flag (Adr.benchCmpStat h.i h.k) 0
    else s.flag (Adr.benchEccStatus h.i) 0
  | .pcie =>
    if h.desc.off < 0x20 then s.flag Adr.pcieCtrl 1
    else if h.desc.off < 0x100 then s.flag Adr.pcieCtrl 0
    else s.flag (Adr.pcieStreamCtrlEn h.k) 0
  | _ => false

/-- The bit of the register itself that is its block's governing enable, if the register holds it. (DEDUCED, log 18) -/
def Hit.enableBits (h : Hit) : Option (Nat × Nat) :=
  match h.blk with
  | .enc | .trgc | .trgh | .seq | .stock => if h.desc.name = "CTRL" then some (0, 0) else none
  | .port => if h.desc.off = 0 then some (0, 0) else none
  | .sync => if h.desc.off = 0 then some (1, 0) else none
  | _ => none

/-- R489: the write changes a live-unsafe field while the governing enable is 1 and does not clear that enable. The
contexts of a Face (R149) and the steps of a sequencer (R94) have undefined cases of their own. -/
def State.liveUnsafe (s : State) (h : Hit) (a : Nat) (w : Word) : Bool :=
  match h.blk with
  | .fsrc => false
  | _ =>
    s.governs h
      && h.desc.flds.any (fun f => f.live && decide (f.get (f.write (s.reg a) w).1 ≠ f.get (s.reg a)))
      && !(match h.enableBits with
           | some (hi, lo) => bits (h.desc.write (s.reg a) w).1.toNat hi lo == 0
           | none => false)

/-- The stored fields of a register after a write; CFGERR where an encoding is reserved (R9). -/
def State.store (s : State) (h : Hit) (a : Nat) (w : Word) : State :=
  let r := h.desc.write (s.reg a) w
  let s := s.setReg a r.1
  if r.2 then s.cfgerr h else s

/-! ### Undefined results (R6, R433): what they leave lasts until the next reset -/

/-- The part of its block that a register belongs to: the I2C controller of a port, a DMA channel, a completion window or
the ECC unit of a bench, the mirror, the result ring or a stream ring of PCIE; 0 for a block that has no parts. -/
def Hit.part (h : Hit) : Nat :=
  match h.blk with
  | .port => if h.desc.off < 0x200 then 0 else 1
  | .bench =>
    if h.desc.off < 0x90000 then 0
    else if h.desc.off < 0xA0000 then 16 + h.k
    else if h.desc.off < 0xB0000 then 0
    else if h.desc.off < 0xC0000 then 32 + h.k
    else 48
  | .pcie => if h.desc.off < 0x20 then 0 else if h.desc.off < 0x100 then 1 else 2 + h.k
  | _ => 0

/-- The scope of an undefined result of a found register's block. -/
def Hit.scope (h : Hit) : Scope := .part h.blk h.i h.j h.part

/-- A found register's values are undefined until the next reset (R6, R433). -/
def State.isUndef (s : State) (h : Hit) : Bool := s.undef.contains h.scope || s.undef.contains .all

/-- The addresses of the registers that share a found register's scope. -/
def Hit.addrs (h : Hit) : List Nat :=
  match RegMap.blocks.find? (fun b => b.id == h.blk) with
  | none => []
  | some b =>
    b.regs.flatMap (fun d =>
      ((List.range d.arr.1).filter (fun k => { h with k := k, desc := d }.part == h.part)).map
        (fun k => b.base + h.i * b.i1.2 + h.j * b.i2.2 + d.off + k * d.arr.2))

/-- What a block holds besides its registers, taken from another state. -/
def State.withPart (s x : State) (h : Hit) : State :=
  match h.blk with
  | .enc => s.setEnc h.i (x.enc h.i)
  | .trgc => s.setSched h.i (x.sched h.i)
  | .trgh => s.setHead h.i (x.head h.i)
  | .sync => s.setSync { x.sync with out := s.sync.out }
  | .seq => s.setSeq h.i (x.seq h.i)
  | .port =>
    if h.part = 0 then s.setPort h.i { x.port h.i with i2c := (s.port h.i).i2c }
    else s.setPort h.i { s.port h.i with i2c := (x.port h.i).i2c }
  | .stock => s.setStock (4 * h.i + h.j) (x.stock (4 * h.i + h.j))
  | .riddle => s.setRiddle x.riddle
  | .bench =>
    if h.part = 48 then s.setBench h.i { s.bench h.i with ecc := (x.bench h.i).ecc, eccOwner := (x.bench h.i).eccOwner }
    else if 32 ≤ h.part then s.setBench h.i { s.bench h.i with cmp := (x.bench h.i).cmp }
    else s
  | _ => s

/-- The registers and outputs of a block become undefined, until the next reset (R433): every register of the scope, and what
the block holds besides them, takes a free value, now and whenever the fabric reaches the block again.
(DESIGN CHOICE, log 11) -/
def State.undefine (s : State) (h : Hit) : State :=
  let x := Config.anyState s.free
  let s := (h.addrs.foldl (fun s a => s.setReg a (x.reg a)) (s.withPart x h)).setFree (s.free + 1)
  if s.undef.contains h.scope then s else s.setUndef (s.undef ++ [h.scope])

/-- A read whose value the manual leaves open: a free value. -/
def State.freeRead (s : State) : Word × State := (BitVec.ofNat 20 s.draw.1, s.draw.2)

/-- A read of a register whose values are undefined (R433): a free value. -/
def State.undefRead (s : State) (h : Hit) : Word × State := (s.undefine h).freeRead

/-- A read of a register: `r` where its values are defined. -/
def State.definedOr (s : State) (a : Nat) (r : Word × State) : Word × State :=
  match RegMap.find a with
  | some h => if s.isUndef h then s.undefRead h else r
  | none => r

/-- A register's values are undefined. -/
def State.undefAt (s : State) (a : Nat) : Bool := (RegMap.find a).any s.isUndef

/-- Any data, register and output becomes undefined, until the next reset (R433): everything takes a free value but the
queue of commands, what readers got before, the supplies and the state of R26, flash, JTAG and the levels on pins. -/
def State.undefineAll (s : State) : State :=
  let x := Config.anyState s.free
  { x with
    pending := s.pending, free := s.free + 1, rd := s.rd, pw := s.pw, flash := s.flash, jtag := s.jtag,
    gpio := { x.gpio with pins := s.gpio.pins },
    dram := SMap.canon (fun _ => (0 : Byte)) x.dram, hostMem := SMap.canon (fun _ => (0 : Byte)) x.hostMem,
    undef := [.all] }

/-- The check that precedes every register write by an agent: a powered-off domain or an unassigned address ignores
it (R33, R486); a write to a block that the foreman owns, and a live-unsafe change, make the scope of R433 undefined
(R489), and an undefined block stays so. `k` is what the write does otherwise. (DEDUCED, log 10) -/
def State.guardWrite (s : State) (ag : Agent) (a : Nat) (w : Word) (k : Hit → State → Out) : Out :=
  match RegMap.find a with
  | none => .next s
  | some h =>
    if !s.on h.domain then .next s
    else if !s.mayWrite ag h then .next s.undefineAll
    else if s.isUndef h || s.liveUnsafe h a w then .next (s.undefine h)
    else k h s

end Machine
end Sys2Proof
end

