-- ==== Sys2Proof/Machine/Ecc.lean ====
section
/-!
DEFINITION. The Reed–Solomon decoder of the ECC units (R226, R231 to R236): field arithmetic, the decoder of R234, jobs.
-/
namespace Sys2Proof.Machine

/-! ### Fields -/

/-- The field of a job: GF(113) with generator `alpha`, or GF(2⁸) with polynomial `poly`. -/
structure Gf where
  prime : Bool
  poly : Nat := 0x12D
  alpha : Nat := 2
deriving DecidableEq, Repr

/-- A product in GF(2⁸), `n` bits of the multiplier to come. -/
def mul256 (poly : Nat) : Nat → Nat → Nat → Nat
  | 0, _, _ => 0
  | n + 1, a, b =>
    let r := mul256 poly n (let d := 2 * a; if d < 256 then d else (d ^^^ poly) % 256) (b / 2)
    if b % 2 = 1 then a ^^^ r else r

/-- A product. -/
def Gf.mul (g : Gf) (a b : Nat) : Nat := if g.prime then a * b % 113 else mul256 g.poly 8 a b
/-- A sum. -/
def Gf.add (g : Gf) (a b : Nat) : Nat := if g.prime then (a + b) % 113 else a ^^^ b
/-- A difference. -/
def Gf.sub (g : Gf) (a b : Nat) : Nat := if g.prime then (a + 113 - b % 113) % 113 else a ^^^ b
/-- The order of the multiplicative group. -/
def Gf.ord (g : Gf) : Nat := if g.prime then 112 else 255
/-- The primitive element. -/
def Gf.gen (g : Gf) : Nat := if g.prime then g.alpha % 113 else 2

/-- A power by repeated squaring, `fuel` bits of the exponent. -/
def Gf.powBits (g : Gf) : Nat → Nat → Nat → Nat
  | 0, _, _ => 1
  | f + 1, a, n => let r := g.powBits f (g.mul a a) (n / 2); if n % 2 = 1 then g.mul a r else r

/-- A power. -/
def Gf.pow (g : Gf) (a n : Nat) : Nat := g.powBits 8 a (n % g.ord)

/-- The inverse of an element other than 0. -/
def Gf.inv (g : Gf) (a : Nat) : Nat := g.powBits 8 a (g.ord - 1)

/-- A power of the primitive element with any exponent. -/
def Gf.root (g : Gf) (n : Int) : Nat := g.pow g.gen (n % (g.ord : Int)).toNat

/-- The generator is primitive: POLY is a primitive polynomial, ALPHA a primitive element of GF(113) (R232). -/
def Gf.primitive (g : Gf) : Bool :=
  let p := fun n => g.powBits 8 g.gen n
  if g.prime then g.gen != 0 && p 56 != 1 && p 16 != 1 else p 255 == 1 && p 85 != 1 && p 51 != 1 && p 15 != 1

/-! ### Polynomials, lowest coefficient first -/

/-- A sum of polynomials. -/
def Gf.padd (g : Gf) : List Nat → List Nat → List Nat
  | [], b => b
  | a, [] => a
  | x :: a, y :: b => g.add x y :: g.padd a b

/-- A polynomial times a constant. -/
def Gf.pscale (g : Gf) (c : Nat) (a : List Nat) : List Nat := a.map (g.mul c)

/-- A product of polynomials. -/
def Gf.pmul (g : Gf) : List Nat → List Nat → List Nat
  | [], _ => []
  | x :: a, b => g.padd (g.pscale x b) (0 :: g.pmul a b)

/-- A polynomial's value. -/
def Gf.eval (g : Gf) (a : List Nat) (x : Nat) : Nat := a.foldr (fun c v => g.add c (g.mul x v)) 0

/-- The formal derivative. -/
def Gf.deriv (g : Gf) (a : List Nat) : List Nat :=
  (a.zipIdx.drop 1).map (fun p => if g.prime then g.mul (p.2 % 113) p.1 else if p.2 % 2 = 1 then p.1 else 0)

/-- The degree. -/
def degree (a : List Nat) : Nat := (a.zipIdx.foldl (fun d p => if p.1 = 0 then d else p.2) 0)

/-- Berlekamp–Massey over a list of syndromes: `c` the connection polynomial so far, `b` the one before its last change
with its discrepancy `bd`, `m` steps since, `l` the length, `n` syndromes taken. -/
def Gf.massey (g : Gf) (s : List Nat) : Nat → Nat → Nat → Nat → List Nat → List Nat → Nat → List Nat
  | 0, _, _, _, c, _, _ => c
  | fuel + 1, n, l, m, c, b, bd =>
    let d := (List.range (l + 1)).foldl (fun v i => g.add v (g.mul (at0 c i) (if i ≤ n then at0 s (n - i) else 0))) 0
    if d = 0 then g.massey s fuel (n + 1) l (m + 1) c b bd
    else
      let k := g.mul d (g.inv bd)
      let c1 := g.padd c ((List.replicate m 0 ++ g.pscale k b).map (fun x => g.sub 0 x))
      if 2 * l ≤ n then g.massey s fuel (n + 1) (n + 1 - l) 1 c1 c d
      else g.massey s fuel (n + 1) l (m + 1) c1 b bd

/-- The error locator of the modified syndromes. -/
def Gf.locator (g : Gf) (s : List Nat) : List Nat := g.massey s s.length 0 0 1 [1] [1] 1

/-! ### The decoder (R234) -/

/-- What a job delivers: whether it decoded, ERRS, ERAS, SPARE, and the corrected symbols by position. -/
structure EccRes where
  ok : Bool
  errs : Nat := 0
  eras : Nat := 0
  spare : Nat := 0
  fix : List (Nat × Nat) := []
deriving DecidableEq, Repr

/-- The decoder, over the symbols of the codeword and the distinct erasure positions. -/
def Gf.decode (g : Gf) (fcr r : Nat) (cw era : List Nat) : EccRes :=
  let n := cw.length
  let f := era.length
  let loc := fun (i : Nat) => g.root ((n : Int) - 1 - (i : Int))
  if r < f then { ok := false }
  else
    let s := (List.range r).map (fun k =>
      cw.foldl (fun v c => g.add (g.mul v (g.root (((fcr + k : Nat)) : Int))) c) 0)
    if s.all (· == 0) then { ok := true, spare := r }
    else
      let gamma := era.foldl (fun p j => g.pmul p [1, g.sub 0 (loc j)]) [1]
      let t := (g.pmul s gamma).take r
      let lambda := g.locator ((t ++ List.replicate r 0).take r |>.drop f)
      let e := degree lambda
      let psi := g.pmul lambda gamma
      let omega := (g.pmul s psi).take r
      let roots := (List.range n).filter (fun i => g.eval psi (g.inv (loc i)) == 0)
      if r < 2 * e + f || roots.length != e + f then { ok := false }
      else
        let dpsi := g.deriv psi
        { ok := true, errs := e, eras := f, spare := r - 2 * e - f,
          fix := roots.map (fun i =>
            let xi := g.inv (loc i)
            let q := g.mul (g.eval omega xi) (g.inv (g.eval dpsi xi))
            (i, g.add (at0 cw i) (g.mul (g.root ((1 - (fcr : Int)) * ((n : Int) - 1 - (i : Int)))) q))) }

/-- The symbols of a codeword's words and the positions to erase: the list's entries below n, and in GF(113) the
symbols of 113 or more, which count as 0; with BADPOS and RANGE (R233). -/
def readCodeword (prime : Bool) (cw era : List Nat) : List Nat × List Nat × Bool × Bool :=
  let n := cw.length
  let cw := cw.map (· % 256)
  let era := era.map (· % 256)
  let bad := prime && cw.any (113 ≤ ·)
  let pos := (List.range n).filter (fun i => era.contains i || (prime && decide (113 ≤ at0 cw i)))
  (cw.map (fun c => if prime && decide (113 ≤ c) then 0 else c), pos, era.any (n ≤ ·), bad)

/-! ### Jobs (R229 to R236) -/

/-- Words of a bench's shared memory. -/
def State.sharedRun (s : State) (b a n : Nat) : List Word := SMap.getRun (fun _ => (0 : Word)) (s.bench b).shared a n

/-- The ECC job in progress notes a change of its codeword or erasure list (R232). -/
def State.eccWatch (s : State) (b : Nat) : State :=
  match (s.bench b).ecc with
  | some j =>
    if j.dirty || (s.sharedRun b j.cw j.n == j.cwWords && s.sharedRun b j.era j.nera == j.eraWords) then s
    else s.setBench b { s.bench b with ecc := some { j with dirty := true } }
  | none => s

/-- A bench's shared memory written; addresses outside it are ignored. -/
def State.putShared (s : State) (b a : Nat) (ws : List Word) : State :=
  if a < 0x80000 || !s.on (benchPd b) then s
  else (s.setBench b { s.bench b with
    shared := SMap.setRun (fun _ => (0 : Word)) (s.bench b).shared a (ws.take (0x100000 - a)) }).eccWatch b

/-- GO by the owner (R231): the job is taken with the registers, the codeword and the list as they stand.
(DEDUCED, log 66) -/
def State.eccStart (s : State) (b : Nat) : State :=
  let st := Adr.benchEccStatus b
  if s.flag st 0 then s.setFlag st 7 true
  else
    let n := s.fld (Adr.benchEccLen b) 7 0
    let r := s.fld (Adr.benchEccLen b) 14 8
    let prime := s.flag (Adr.benchEccCfg b) 0
    let cw := (s.reg (Adr.benchEccCw b)).toNat
    let era := (s.reg (Adr.benchEccEra b)).toNat
    let ne := s.fld (Adr.benchEccNera b) 7 0
    let refused := n < 2 || decide ((if prime then 112 else 255) < n) || r < 1 || decide (80 < r) || decide (n ≤ r)
      || decide (r < ne) || decide (0x100000 < cw + n) || decide (0x100000 < era + ne)
    let s := s.setFld st 6 0 1
    s.setBench b { s.bench b with
      ecc := some (if refused then { refused := true }
        else { refused := false, gf113 := prime, fcr := s.fld (Adr.benchEccCfg b) 7 1, poly := s.fld (Adr.benchEccPoly b) 8 0,
               alpha := s.fld (Adr.benchEccAlpha b) 6 0, n := n, r := r, cw := cw, era := era, nera := ne,
               cwWords := s.sharedRun b cw n, eraWords := s.sharedRun b era ne }) }

/-- A job ended: STATUS with its flags, RES0, RES1 and the counters. -/
def State.eccEnd (s : State) (b : Nat) (ok refused badpos range : Bool) (res0 res1 : Nat) : State :=
  let st := Adr.benchEccStatus b
  let s := s.setFld st 6 0 (2 + 4 * b2n ok + 8 * b2n (!ok) + 16 * b2n refused + 32 * b2n badpos + 64 * b2n range)
  let s := (s.setReg (Adr.benchEccRes0 b) (BitVec.ofNat 20 (res0 % 65536))).setReg (Adr.benchEccRes1Spare b)
    (BitVec.ofNat 20 (res1 % 256))
  let s := (s.setBench b { s.bench b with ecc := none }).incr (Adr.benchEccJobs b)
  if ok then s else s.incr (Adr.benchEccFails b)

/-- A job whose result is undefined (R232): its flags, counts and the codeword's final contents are free values. -/
def State.eccFree (s : State) (b : Nat) (j : EccJob) : State :=
  let d := s.drawList (j.n + 5) (2 ^ 20)
  let s := d.2.putShared b j.cw ((d.1.drop 5).map (BitVec.ofNat 20 ·))
  s.eccEnd b (at0 d.1 0 % 2 == 1) false (at0 d.1 1 % 2 == 1) (at0 d.1 2 % 2 == 1) (at0 d.1 3) (at0 d.1 4)

/-- The corrected symbols written to shared memory. -/
def State.eccFix (s : State) (b cw : Nat) (fix : List (Nat × Nat)) : State :=
  fix.foldl (fun s p => s.putShared b (cw + p.1) [BitVec.ofNat 20 p.2]) s

/-- The end of a job (R231 to R234). RES0 and RES1 are valid only while OK is 1: free values otherwise. -/
def State.eccFinish (s : State) (b : Nat) (j : EccJob) : State :=
  let g : Gf := { prime := j.gf113, poly := j.poly, alpha := j.alpha }
  let d := s.drawList 2 65536
  if j.refused then d.2.eccEnd b false true false false (at0 d.1 0) (at0 d.1 1)
  else if j.dirty || !g.primitive || s.undefAt (Adr.benchEccCfg b) then s.eccFree b j
  else
    let c := readCodeword j.gf113 (j.cwWords.map (·.toNat)) (j.eraWords.map (·.toNat))
    let r := g.decode j.fcr j.r c.1 c.2.1
    if r.ok then
      (s.eccFix b j.cw r.fix).eccEnd b true false c.2.2.1 c.2.2.2 (r.errs + 256 * r.eras) r.spare
    else d.2.eccEnd b false false c.2.2.1 c.2.2.2 (at0 d.1 0) (at0 d.1 1)

/-- An agent may use the unit of a bench: its hewers and the foreman (R229). -/
def eccEntitled (ag : Agent) (b : Nat) : Bool :=
  match ag with
  | .foreman => true
  | .hewer c _ => c.val == b
  | .host => false

/-- A read of CLAIM (R229). -/
def State.eccClaim (s : State) (ag : Agent) (b : Nat) : Word × State :=
  if !eccEntitled ag b then (0xFF, s)
  else if (s.bench b).eccOwner = 0 then (0, s.setBench b { s.bench b with eccOwner := readerOf ag })
  else (BitVec.ofNat 20 (s.bench b).eccOwner, s)

/-- A write of CLAIM (R229). (DEDUCED, log 138) -/
def State.eccUnclaim (s : State) (ag : Agent) (b : Nat) (w : Word) : State :=
  if w.toNat % 256 == 0 && eccEntitled ag b && ((s.bench b).eccOwner == readerOf ag || readerOf ag == 65) then
    s.setBench b { s.bench b with eccOwner := 0 }
  else s

/-- The agent owns the unit (R230). -/
def State.eccOwns (s : State) (ag : Agent) (b : Nat) : Bool :=
  eccEntitled ag b && (s.bench b).eccOwner == readerOf ag

/-- A write of CFG: FCR 112 to 127 with FIELD 1 is a reserved encoding of FCR (R236). -/
def State.eccCfg (s : State) (b : Nat) (hit : Hit) (w : Word) : State :=
  let s := s.store hit (Adr.benchEccCfg b) w
  if s.flag (Adr.benchEccCfg b) 0 && decide (112 ≤ s.fld (Adr.benchEccCfg b) 7 1) then
    (s.setFld (Adr.benchEccCfg b) 7 1 1).cfgerr hit
  else s

/-- A write of a register of the unit by an agent (R230); a live-unsafe register changed while BUSY is undefined (R489). -/
def eccWrite (ag : Agent) (b : Nat) (a : Nat) (hit : Hit) (w : Word) (s : State) : Out :=
  if a = Adr.benchEccClaimOwner b then .next (s.eccUnclaim ag b w)
  else if !s.eccOwns ag b then .next s
  else if s.isUndef hit || s.liveUnsafe hit a w then .next (s.undefine hit)
  else if a = Adr.benchEccGo b then .next (if w.toNat.testBit 0 then s.eccStart b else s)
  else if a = Adr.benchEccCfg b then .next (s.eccCfg b hit w)
  else .next (s.store hit a w)

/-- An access of an agent to an ECC register through its own path: a hewer's port, or the fabric. -/
def eccAccess (ag : Agent) (b : Nat) (a : Nat) (w : Word) (s : State) : Out :=
  match RegMap.find a with
  | some hit => if s.on (benchPd b) then eccWrite ag b a hit w s else .next s
  | none => .next s

/-- `ECC_CLAIM` (R229). -/
def execEccClaim (ag : Agent) (b : Fin 8) (s : State) : Out :=
  if s.on (benchPd b) then
    let r := s.definedOr (Adr.benchEccClaimOwner b) (s.eccClaim ag b)
    .next (r.2.retW ag r.1)
  else .next (s.retW ag 0)

/-- `ECC_RELEASE` (R229): 0 written to CLAIM. -/
def execEccRelease (ag : Agent) (b : Fin 8) (s : State) : Out := eccAccess ag b (Adr.benchEccClaimOwner b) 0 s

/-- `ECC_GO` (R231): 1 written to GO. -/
def execEccGo (ag : Agent) (b : Fin 8) (s : State) : Out := eccAccess ag b (Adr.benchEccGo b) 1 s

/-- `ECC_JOB_DONE` (R231, R234). -/
def execEccJobDone (b : Fin 8) (s : State) : Out :=
  match (s.bench b).ecc with
  | some j => .next (s.eccFinish b j)
  | none => .next s

end Sys2Proof.Machine
end

