-- ==== Sys2Proof/Machine/Ashlar.lean ====
section
/-!
DEFINITION. The ashlar (R251 to R253) and the result block it is formed from (R280).
-/
namespace Sys2Proof.Machine

/-- The ashlar fields of a result block of 20 words and its payload words (R280). -/
def resOfBlock (w : List Word) (payload : List Word) : ReadRes :=
  let f := fun i hi lo => bits (w.getD i 0).toNat hi lo
  { sym := f 0 3 0, cause := f 0 7 4, flags := BitVec.ofNat 6 (f 1 5 0),
    pos := BitVec.ofNat 48 (f 2 15 0 + 65536 * f 3 15 0 + 2 ^ 32 * f 4 15 0),
    cross := BitVec.ofNat 32 (f 5 15 0 + 65536 * f 6 15 0),
    angle := f 7 15 0, module := f 8 15 0, cols := f 9 15 0, rows := f 10 15 0, extu := f 11 15 0, extv := f 12 15 0,
    grades := BitVec.ofNat 40 (f 13 19 0 + 2 ^ 20 * f 14 19 0),
    spare := f 15 7 0, rchk := f 15 15 8, errs := f 16 7 0, eras := f 16 15 8, scv := f 17 7 0, pgx := f 18 7 0,
    pgy := f 18 15 8, payload := payload.map (fun x => x.setWidth 8) }

/-- The mask of the planes an entry was found in. -/
def Entry.planes (e : Entry) : Nat := 2 ^ e.planeA ||| (if e.mode = 0 then 0 else 2 ^ e.planeB)

/-- Eleven flags of an entry: XJOIN, TRUNC, SOLO, RETRY, PARTIAL, LATE, CLIPPED, SUSPECT, CRCERR, SHORTLINE, CUT
(R218, R252). -/
def Entry.flags (e : Entry) : Nat :=
  b2n e.xjoin + 2 * b2n e.trunc + 4 * b2n e.solo + 8 * b2n e.retry + 16 * b2n e.part + 32 * b2n e.late
    + 64 * b2n e.clipped + 128 * b2n e.fl.suspect + 256 * b2n e.fl.crc + 512 * b2n e.fl.short + 1024 * b2n e.cutF

/-- The along-web centre of an entry in counts (R43). -/
def Entry.counts (e : Entry) : BitVec 48 := ((e.box.yc + 0x8000) >>> 16).setWidth 48

/-- Its cross-web centre in µm (R44). -/
def Entry.crossUm (e : Entry) : Int := ridiv e.box.xc 65536

/-- An extent in units of 10 µm (R253). -/
def tenths (e : Nat) : Nat := min 65535 (rdiv e 655360)

/-- A number's low byte. -/
def byteOf (n : Nat) : Byte := BitVec.ofNat 8 n

/-- The 64 bytes of an ashlar; STATUS.TREND, LATENCY and POFS are put in at posting (R251, R256). -/
def ashlarBytes (e : Entry) (r : ReadRes) (seq : BitVec 20) (uncertain : Bool) : List Byte :=
  let rd := e.done == 1
  let sym := if e.done = 3 then 0 else r.sym
  let cause := if rd then 0 else if e.done = 3 then 1 else r.cause
  let status := b2n uncertain + 2 * e.flags + (if rd then r.flags.toNat * 4096 else 0)
  let v := fun (a b : Nat) => if rd then a else b
  leBytes (seq.toNat + sym * 2 ^ 20 + cause * 2 ^ 24 + e.cls * 2 ^ 28 + b2n rd * 2 ^ 31) 4
    ++ leBytes status 4
    ++ leBytes (e.headA + 16 * e.headB + 256 * e.planes + 4096 * e.chan + 16384 * e.mode) 2
    ++ leBytes (if rd then r.pos else e.counts).toNat 6
    ++ leBytes (if rd then r.cross else BitVec.ofInt 32 e.crossUm).toNat 4
    ++ leBytes (v r.angle e.box.phi) 2
    ++ leBytes (v r.module 0) 2 ++ leBytes (v r.cols 0) 2 ++ leBytes (v r.rows 0) 2
    ++ leBytes (v r.extu (tenths e.box.eu)) 2 ++ leBytes (v r.extv (tenths e.box.ev)) 2
    ++ leBytes (if rd then r.grades else 0xFFFFFFFFFF).toNat 5
    ++ [byteOf (v r.spare 0), byteOf (v r.rchk 0), byteOf (v r.errs 0), byteOf (v r.eras 0), byteOf (v r.scv 0),
        byteOf (v r.pgx 0), byteOf e.hewer]
    ++ leBytes 0 4 ++ leBytes e.edgeTime.toNat 8 ++ leBytes 0 4
    ++ leBytes (v r.payload.length 0) 2 ++ [byteOf e.score, byteOf (v r.pgy 0)]

/-- Bytes with some replaced from an index on. -/
def patch (bs : List Byte) (i : Nat) (v : List Byte) : List Byte := bs.take i ++ v ++ bs.drop (i + v.length)

end Sys2Proof.Machine
end

