-- ==== Sys2Proof/Machine/Lines.lean ====
section
/-!
DEFINITION. The text of the Dadja command line as it leaves the engine: lines, tags, checksums, events, responses
(R348 to R373), the numbers of R355, and the frame that every command runs in.
-/
namespace Sys2Proof

namespace Machine

/-! ### Characters -/

/-- The characters of a text. -/
def bytesOf (t : String) : List Byte := t.toList.map (fun c => BitVec.ofNat 8 c.toNat)

/-- A number in decimal. -/
def decBytes (n : Nat) : List Byte := (Nat.toDigits 10 n).map (fun c => BitVec.ofNat 8 c.toNat)

/-- A signed number in decimal. -/
def intBytes (i : Int) : List Byte := if i < 0 then 0x2D :: decBytes i.natAbs else decBytes i.natAbs

/-- A hexadecimal digit, upper case. -/
def hexDigit (n : Nat) : Byte := BitVec.ofNat 8 (if n % 16 < 10 then 48 + n % 16 else 55 + n % 16)

/-- The exclusive OR of a line's characters (R357). -/
def lineXor (l : List Byte) : Byte := l.foldl (· ^^^ ·) 0

/-- A line with its tag and its checksum (R356, R357), without line end. -/
def tagLine (tag : List Byte) (check : Bool) (body : List Byte) : List Byte :=
  let l := if tag.isEmpty then body else tag ++ 0x20 :: body
  if check then l ++ [0x2A, hexDigit ((lineXor l).toNat / 16), hexDigit (lineXor l).toNat] else l

/-- A line as a channel sends it: CR LF on the UARTs (R368), LF on the consoles (R373). (DEDUCED, log 106) -/
def lineOut (ch : Nat) (l : List Byte) : List (BitVec 9) :=
  (l ++ (if ch < 2 then [0x0D, 0x0A] else [0x0A])).map (fun b => BitVec.setWidth 9 b)

/-! ### Events (R361, R362, R371) -/

/-- The code of an error (R359). -/
def ErrCode.code : ErrCode → Nat
  | .syntax_ => 1 | .verb => 2 | .ambig => 3 | .range => 4 | .unit => 5 | .busy => 6 | .state => 7 | .owned => 8
  | .refused => 9 | .checksum => 10 | .toolong => 11 | .overrun => 12 | .nospace => 13 | .record => 14 | .flash => 15
  | .level => 16

/-- The name of an error (R359). -/
def ErrCode.name : ErrCode → String
  | .syntax_ => "syntax" | .verb => "verb" | .ambig => "ambig" | .range => "range" | .unit => "unit"
  | .busy => "busy" | .state => "state" | .owned => "owned" | .refused => "refused" | .checksum => "checksum"
  | .toolong => "toolong" | .overrun => "overrun" | .nospace => "nospace" | .record => "record" | .flash => "flash"
  | .level => "level"

/-- The final line of a rejected command, without detail words (R358). -/
def ErrCode.line (e : ErrCode) : List Byte :=
  bytesOf "err " ++ decBytes e.code ++ 0x20 :: bytesOf e.name

end Machine

/-- The name of a class of Spoil report in an event line (R423). -/
def SpoilClass.text : SpoilClass → String
  | .dramUe => "dram_ue" | .fabric => "fabric" | .parity => "parity" | .hang => "hang" | .flashRead => "flash_read"
  | .flashWrite => "flash_write" | .calMeas => "cal_meas" | .otp => "otp" | .bootImage => "boot_image"
  | .encGlitch => "enc_glitch" | .encIndex => "enc_index" | .syncLock => "sync_lock" | .pwrOc => "pwr_oc"
  | .pwrDrain => "pwr_drain" | .undervolt => "undervolt" | .thermal => "thermal" | .thermalSd => "thermal_sd"
  | .clkRef => "clk_ref"

/-- The name of an outcome (R432). -/
def SpoilOutcome.text : SpoilOutcome → String
  | .pending => "pending" | .transient => "transient" | .lasting => "lasting" | .logged => "logged"

namespace Machine

/-- The name of a UNIT code (R423), in the form of the command line's instances. (DEDUCED, log 141) -/
def unitText (u : Nat) : List Byte :=
  if u < 0x10 then bytesOf "p" ++ decBytes u
  else if u < 0x14 then bytesOf "f" ++ decBytes (u - 0x10)
  else if u < 0x18 then bytesOf "q" ++ decBytes (u - 0x14)
  else if u < 0x1C then bytesOf "s" ++ decBytes (u - 0x18)
  else if u < 0x20 then bytesOf "riddle"
  else if u < 0x28 then bytesOf "k" ++ decBytes (u - 0x20)
  else if u < 0x30 then bytesOf "stock"
  else if u < 0x38 then bytesOf "b" ++ decBytes (u - 0x30)
  else if u < 0x40 then bytesOf "u" ++ decBytes u
  else if u = 0x40 then bytesOf "foreman"
  else if u = 0x41 then bytesOf "pci"
  else if u = 0x42 then bytesOf "memc"
  else if u = 0x43 then bytesOf "flash"
  else if u = 0x44 then bytesOf "otp"
  else if u < 0x4C then bytesOf "e" ++ decBytes (u - 0x48)
  else if u = 0x4C then bytesOf "sync"
  else if u = 0x4D then bytesOf "clk"
  else if u = 0x4E then bytesOf "pwr"
  else if u < 0x58 then bytesOf "pd" ++ decBytes (u - 0x50)
  else bytesOf "t" ++ decBytes (u - 0x58)

/-- The word that names why lock was lost (R361). -/
def SyncCause.text : SyncCause → String
  | .word => "word" | .reserved => "reserved" | .tick => "tick" | .silence => "silence" | .edges => "edges"
  | .ring => "ring"

/-- The detail words of an `err` line or a `fault` event: a free value of the draw that stands next. -/
def State.detailWords (s : State) : List Byte :=
  let d := (Config.detailText s.free).filter (fun b => decide (0x20 ≤ b.toNat) && decide (b.toNat ≤ 0x7E))
  if d.isEmpty then [] else 0x20 :: d

/-- The final line of a command rejected now (R358). -/
def State.errLine (s : State) (e : ErrCode) : List Byte := e.line ++ s.detailWords

/-- The line of an event (R361). -/
def Event.line : Event → List Byte
  | .ready set_ err =>
    bytesOf "! ready cl1 set " ++ (match set_ with | some n => decBytes n | none => bytesOf "none")
      ++ (match err with | some e => bytesOf " err " ++ decBytes e.code | none => [])
  | .drop f c => bytesOf "! drop f" ++ decBytes f ++ bytesOf " c" ++ decBytes c
  | .candovf s c => bytesOf "! candovf s" ++ decBytes s ++ bytesOf " c" ++ decBytes c
  | .riddleovf => bytesOf "! riddleovf"
  | .resultfull => bytesOf "! resultfull"
  | .trend t low p mean =>
    bytesOf "! trend t" ++ decBytes t ++ bytesOf (if low then " low " else " ok ") ++ bytesOf p ++ 0x20 :: decBytes (mean / 10)
      ++ 0x2E :: decBytes (mean % 10)
  | .encindex e dev => bytesOf "! encindex e" ++ decBytes e ++ 0x20 :: intBytes dev
  | .synclost c => bytesOf "! synclost " ++ bytesOf c.text
  | .fault cls u out rep =>
    bytesOf "! fault " ++ bytesOf cls.text ++ 0x20 :: unitText u.toNat ++ 0x20 :: bytesOf out.text
      ++ bytesOf " rep " ++ decBytes rep

/-- The line that tells how many events a channel lost (R361). (DEDUCED, log 80) -/
def lostLine (n : Nat) : List Byte := bytesOf "! lost " ++ decBytes n

/-- A line queued on a channel's output if the buffer of 8,192 characters has room for it (R362). -/
def CmdChan.offer (c : CmdChan) (ch : Nat) (l : List Byte) : CmdChan × Bool :=
  let o := lineOut ch (tagLine [] c.check l)
  if c.out.length + o.length ≤ 8192 then ({ c with out := c.out ++ o }, true) else (c, false)

/-- A channel with an event queued, or lost: UART0 keeps its events in a queue of 64 (R371), every other channel in
its output buffer (R362). -/
def CmdChan.event (c : CmdChan) (ch : Nat) (l : List Byte) : CmdChan :=
  if !c.events then c
  else if ch = 1 then
    let q := if c.lostEv = 0 then [l] else [lostLine c.lostEv, l]
    if c.evq.length + q.length ≤ 64 then { c with evq := c.evq ++ q, lostEv := 0 } else { c with lostEv := c.lostEv + 1 }
  else
    let o := (if c.lostEv = 0 then [] else lineOut ch (tagLine [] c.check (lostLine c.lostEv)))
      ++ lineOut ch (tagLine [] c.check l)
    if c.out.length + o.length ≤ 8192 then { c with out := c.out ++ o, lostEv := 0 } else { c with lostEv := c.lostEv + 1 }

/-- The line of an event raised now: a `fault` has detail words (R429). -/
def State.eventLine (s : State) (e : Event) : List Byte :=
  match e with
  | .fault _ _ _ _ => e.line ++ s.detailWords
  | _ => e.line

/-- An event raised on every channel (R361); the foreman raises events only in Run. -/
def State.raise (s : State) (e : Event) : State :=
  let l := s.eventLine e
  if s.inRun then upTo 10 (fun ch s => s.setChan ch ((s.chan ch).event ch l)) s else s

/-! ### Responses (R356 to R358, R368, R369) -/

/-- A line of the response to the command in hand, with its tag and checksum. -/
def CmdChan.lineOf (c : CmdChan) (ch : Nat) (l : List Byte) : List (BitVec 9) :=
  lineOut ch (tagLine c.cur.tag (c.cur.check || c.check) l)

/-- A response queued on its channel, as characters; on UART0 an address character precedes it (R368), and a broadcast
command is answered by nothing, a failure counted (R369). The command in hand ends. -/
def State.sendResponse (s : State) (ch : Nat) (o : List (BitVec 9)) (fail : Bool) : State :=
  let c := s.chan ch
  if ch = 1 && c.cur.broadcast then
    s.setChan ch { c with cur := {}, bcastFail := c.bcastFail + b2n fail }
  else if c.cur.dropped then s.setChan ch { c with cur := {} }
  else
    let pre : List (BitVec 9) := if ch = 1 && s.flag (Adr.uartFmt 0) 1 then [0x100 ||| (s.reg (Adr.uartNode 0)).setWidth 9] else []
    s.setChan ch { c with cur := {}, out := c.out ++ pre ++ o }

/-- A response of lines. -/
def State.respond (s : State) (ch : Nat) (lines : List (List Byte)) (fail : Bool) : State :=
  s.sendResponse ch (lines.flatMap ((s.chan ch).lineOf ch)) fail

/-- The response of a command that succeeded: report lines, then `ok`. -/
def State.respondOk (s : State) (ch : Nat) (report : List (List Byte)) : State :=
  s.respond ch (report ++ [bytesOf "ok"]) false

/-- The response of a command that was rejected. -/
def State.respondErr (s : State) (ch : Nat) (e : ErrCode) : State := s.respond ch [s.errLine e] true

/-- What a command that is accepted does: its new state, its report lines, whether its response is given already or comes with
the end of a transaction or measurement, and for another long command what it works on (R364). -/
structure CmdOk where
  st : State
  report : List (List Byte) := []
  hold : Bool := false
  long : Option (LongWork × Undo) := none

/-- A command's check and effect: an error code, or what it does (R353). -/
abbrev CmdM (α : Type) := Except ErrCode α

/-- A check of a command. -/
def check (ok : Bool) (e : ErrCode) : CmdM Unit := if ok then .ok () else .error e

/-- The channel may begin its next command: no long command holds it, and its responses fit its output buffer (R362 to
R364). (DESIGN CHOICE, log 105) -/
def CmdChan.ready (c : CmdChan) : Bool := c.long.isNone && decide (c.out.length ≤ 8192)

/-- What a long command answers at its end. -/
def CmdOk.answer (r : CmdOk) : List (List Byte) := r.report ++ [bytesOf "ok"]

/-- A command accepted (R358, R364): its response, or the hold of its channel until then. (DESIGN CHOICE, log 160) -/
def State.accept (s : State) (ch : Chan) (r : CmdOk) : State :=
  match r.hold, r.long with
  | true, _ => s
  | false, none => s.respondOk ch r.report
  | false, some (w, u) => s.setChan ch { s.chan ch with long := some (.work w r.answer false u) }

/-- The frame of every command (R348, R353, R358, R362, R364, R409): commands are served in Run only; a channel that is not
ready waits; during a drain every command is rejected; a rejected command changes nothing. (DEDUCED, log 102) -/
def runCmd (ch : Chan) (s : State) (f : State → CmdM CmdOk) : State :=
  if !s.inRun || !(s.chan ch).ready then s
  else if s.pw.st == .drain then s.respondErr ch .state
  else
    match f s with
    | .error e => s.respondErr ch e
    | .ok r => r.st.accept ch r

/-! ### Long commands (R364, R382) -/
end Machine

/-- What commands write and long commands work on: a unit of R376, a bench, the power of a domain, a set, a record, a boot image, the
preference among the images, firmware settings, the host link, the serial ports, the settings of power. -/
inductive CmdRes where
  | unit (u : OwnUnit)
  | bench (b : Nat)
  | domain (d : Nat)
  | set (n : Nat)
  | record (name : String)
  | image (b : Bool)
  | prefer | fw | host | uart | pwr
deriving DecidableEq, Repr

namespace Machine

/-- A saved or loaded set that a long command works on. -/
def Undo.setNo : Undo → Option Nat
  | .set n _ | .enables n => some n
  | _ => none

/-- A long command reads or writes a resource (R364): `load` and `save` all that a set covers; `lease` and `return` the bench
and RIDDLE.BENCHES; what stands in a domain needs its power. Transactions and measurements have checks of their own. -/
def LongCmd.uses : LongCmd → CmdRes → Bool
  | .work w _ _ u, r =>
    match w, r with
    | .load, .set n | .save, .set n => u.setNo == some n
    | .load, .record _ => true
    | .load, .bench _ | .load, .image _ | .load, .prefer => false
    | .save, .bench _ | .save, .image _ | .save, .prefer | .save, .record _ => false
    | .load, _ | .save, _ => true
    | .lease b, r => r == .bench b || r == .unit .rk || r == .domain (benchPd b) || r == .domain 4
    | .table f _, .unit (.face g) => g.val == f
    | .table f _, .domain d => d == facePd f
    | .table _ l, .record n => l.contains n
    | .calibrate, r => r == .unit .rk || r == .domain 4
    | .image w, .image b => w.all (· == b)
    | .image w, .prefer => w.isNone
    | .record l, .record n => l.contains n
    | _, _ => false
  | .i2c p _, r => r == .domain (portPd p)
  | .cal f _, r => r == .domain (facePd f)

/-- No long command works on what a command would write; the command's own channel has none (R359, R364). -/
def State.clear (s : State) (r : CmdRes) : CmdM Unit :=
  check ((List.range 10).all (fun k => (s.chan k).long.all (fun l => !l.uses r))) .busy

/-- Long commands whose work is done are answered. -/
def State.finishLong (s : State) : State :=
  upTo 10 (fun ch s =>
    match (s.chan ch).long with
    | some (.work _ lines fail _) => (s.setChan ch { s.chan ch with long := none }).respond ch lines fail
    | _ => s) s

/-- A command that only changes the state. -/
def done (s : State) : CmdM CmdOk := .ok { st := s }

/-- A report line of R358: characters of R349; it begins with neither `!` nor `@`, does not read `ok` and does not begin with
`err `. -/
def reportFree (l : List Byte) : Bool :=
  l.all (fun b => decide (0x20 ≤ b.toNat) && decide (b.toNat ≤ 0x7E)) && l.head? != some 0x21 && l.head? != some 0x40
    && l != bytesOf "ok" && l.take 4 != bytesOf "err "

/-- The lines of a report: their wording is a free value within R358 (log 9). -/
def reportLines (name : String) (vals : List Int) : List (List Byte) := (Config.reportText name vals).filter reportFree

/-- A command that only reports. -/
def reports (s : State) (name : String) (vals : List Int) : CmdM CmdOk :=
  .ok { st := s, report := reportLines name vals }

end Machine

open Machine

/-! ### Numbers (R355) -/

/-- A number has at most 18 significant digits. -/
def Qty.short (q : Qty) : Bool := decide (q.m.natAbs < 10 ^ 18)

/-- A number scaled by `num / den` and rounded to nearest, halves up. -/
def Qty.scaled (q : Qty) (num den : Nat) : CmdM Int :=
  if q.short then .ok (ridiv (q.m * num) (10 ^ q.e * den)) else .error .syntax_

/-- A time, in units of `ns` nanoseconds. -/
def Qty.time (q : Qty) (ns : Nat) : CmdM Int :=
  match q.u with
  | .ns => q.scaled 1 ns
  | .us => q.scaled 1000 ns
  | .ms => q.scaled 1000000 ns
  | .s => q.scaled 1000000000 ns
  | _ => .error .unit

/-- A lane rate in Mb/s. -/
def Qty.rate (q : Qty) : CmdM Int :=
  match q.u with
  | .mbps => q.scaled 1 1
  | .gbps => q.scaled 1000 1
  | _ => .error .unit

/-- A length, in units of `den / num` micrometres. -/
def Qty.len (q : Qty) (num den : Nat) : CmdM Int :=
  match q.u with
  | .none | .um => q.scaled num den
  | .mm => q.scaled (1000 * num) den
  | .m => q.scaled (1000000 * num) den
  | _ => .error .unit

/-- An angle, in units of `den / num` degrees. -/
def Qty.angle (q : Qty) (num den : Nat) : CmdM Int :=
  match q.u with
  | .none | .deg => q.scaled num den
  | _ => .error .unit

/-- A percentage, in units of `den / num` percent. -/
def Qty.pct (q : Qty) (num den : Nat) : CmdM Int :=
  match q.u with
  | .none | .pct => q.scaled num den
  | _ => .error .unit

/-- A number without a unit, in units of `den / num`. -/
def Qty.plain (q : Qty) (num den : Nat) : CmdM Int :=
  match q.u with
  | .none => q.scaled num den
  | _ => .error .unit

namespace Machine

/-- A value within a range. (DEDUCED, log 100) -/
def within (lo hi : Int) (v : Int) : CmdM Nat := if lo ≤ v && v ≤ hi then .ok v.toNat else .error .range

/-- A signed value within a range. -/
def withinI (lo hi : Int) (v : Int) : CmdM Int := if lo ≤ v && v ≤ hi then .ok v else .error .range

end Machine

/-- A count within a range. -/
def Qty.count (q : Qty) (lo hi : Int) : CmdM Nat := do within lo hi (← q.plain 1 1)

namespace Machine

/-- An optional setting: what the command does where it is given. -/
def given {α : Type} (o : Option α) (s : State) (f : State → α → CmdM State) : CmdM State :=
  match o with
  | some a => f s a
  | none => .ok s

/-- An optional setting checked and converted. (DEDUCED, log 101) -/
def conv {α β : Type} (o : Option α) (f : α → CmdM β) : CmdM (Option β) :=
  match o with
  | some a => do return some (← f a)
  | none => .ok none

/-- A list of settings checked and converted. -/
def convAll {α β : Type} (f : α → CmdM β) : List α → CmdM (List β)
  | [] => .ok []
  | a :: l => do
    let b ← f a
    return b :: (← convAll f l)

/-- A unit is not released (R377), its power domain is on, and no long command works on it (R364). (DEDUCED, log 107) -/
def State.avail (s : State) (u : OwnUnit) (d : Nat) : CmdM Unit := do
  check (s.on d) .state
  check (!s.isReleased u) .owned
  s.clear (.unit u)

/-- A number of a report. -/
def State.num (s : State) (a : Nat) : Int := ((s.reg a).toNat : Int)

end Machine

end Sys2Proof
end

