-- ==== Sys2Proof/Machine/SpoilLog.lean ====
section
/-!
DEFINITION. Reports to the Spoil log (R421 to R423).
-/
namespace Sys2Proof.Machine

/-- Who retries the operation of a class (R423). -/
inductive Retry where
  | hardware | firmware | none_
deriving DecidableEq, Repr

/-- The retry column of R423. -/
def retryOf : SpoilClass → Retry
  | .dramUe | .fabric => .hardware
  | .parity | .hang | .flashRead | .flashWrite | .calMeas | .otp => .firmware
  | _ => .none_

/-- The CLASS code (R423). -/
def classCode : SpoilClass → Nat
  | .dramUe => 1 | .fabric => 2 | .parity => 3 | .hang => 4 | .flashRead => 5 | .flashWrite => 6 | .calMeas => 7
  | .otp => 8 | .bootImage => 9 | .encGlitch => 10 | .encIndex => 11 | .syncLock => 12 | .pwrOc => 13
  | .pwrDrain => 14 | .undervolt => 15 | .thermal => 16 | .thermalSd => 17 | .clkRef => 18

/-- Classes that the foreman firmware or the boot code writes (R423). -/
def byFirmware : SpoilClass → Bool
  | .hang | .flashRead | .flashWrite | .calMeas | .otp | .bootImage | .pwrDrain => true
  | _ => false

/-- The OUTCOME code (R432). -/
def outCode : SpoilOutcome → Nat
  | .pending => 0 | .transient => 1 | .lasting => 2 | .logged => 3

/-- The worse of two outcomes, in the order pending, transient, lasting (R422). -/
def worse (a b : SpoilOutcome) : SpoilOutcome :=
  if b == .logged then a else if outCode a < outCode b && a != .logged then b else a

/-- An entry merged with a further report of its class and unit (R422, R425). -/
def SpoilEnt.merge (e : SpoilEnt) (out : SpoilOutcome) : SpoilEnt :=
  { e with
    rep := min (e.rep + 1) 0x3FFFF
    out := if e.st == .inhand && retryOf e.cls == .firmware then .lasting else worse e.out out }

/-- An entry of the class and unit is open: NEW or INHAND. -/
def SpoilEnt.isOpen (e : SpoilEnt) (cls : SpoilClass) (u : BitVec 8) : Bool :=
  e.cls == cls && e.unit_ == u && e.st != .handled

/-- A report reaches the log: merged, discarded at 64 entries, or written as a new entry (R422). -/
def State.spoilAdd (s : State) (cls : SpoilClass) (u : Nat) (out : SpoilOutcome) (detail : Nat) : State :=
  let sp := s.spoil
  let u8 := BitVec.ofNat 8 u
  if sp.ents.any (·.isOpen cls u8) then
    s.setSpoil { sp with ents := sp.ents.map (fun e => if e.isOpen cls u8 then e.merge out else e) }
  else if 64 ≤ sp.ents.length then
    s.setSpoil { sp with lost := BitVec.ofNat 20 (min (sp.lost.toNat + 1) 0xFFFFF) }
  else
    s.setSpoil { sp with
      ents := sp.ents ++ [{ cls := cls, fw := byFirmware cls, unit_ := u8, out := out, time := s.tm,
                            detail := BitVec.ofNat 80 detail }] }

/-- A report of a class that is only logged: it carries no outcome. (DESIGN CHOICE, log 17) -/
def State.spoilLog (s : State) (cls : SpoilClass) (u detail : Nat) : State := s.spoilAdd cls u .pending detail

/-- A unit is out of service (R427). -/
def State.outOfService (s : State) (u : Nat) : Bool := s.spoil.out.contains (BitVec.ofNat 8 u)

/-- A bench is retired: out of service (R284, R427). -/
def State.retired (s : State) (b : Nat) : Bool := s.outOfService (0x30 + b)

/-- The Riddle takes candidates in: EN is 1, and the Riddle and the stockpile control are in service (R221, R427). -/
def State.riddleOn (s : State) : Bool := s.flag Adr.riddleCtrlEn 0 && !s.outOfService 0x1C && !s.outOfService 0x28

end Sys2Proof.Machine
end

