-- ==== Sys2Proof/Machine/FaceMath.lean ====
section
/-!
DEFINITION. The arithmetic of a line: CSI-2 packing groups (R108, R155), the Face's tables (R142, R145) and its stages 1
to 9 (R125 to R139), the scaler and the formats of DISP and CODE (R162 to R165). Components are lists of numbers.
-/
namespace Sys2Proof.Machine

/-! ### Data types and packing groups (R100, R108) -/

/-- Bits per component of a data type. -/
def dtBits (dt : Nat) : Nat :=
  if dt = 0x2B then 10 else if dt = 0x2C then 12 else if dt = 0x2D then 14 else if dt = 0x2E then 16 else 8

/-- The data type is RGB888. -/
def dtRgb (dt : Nat) : Bool := dt == 0x24

/-- Pixels per packing group. -/
def groupPix (dt : Nat) : Nat := if dt = 0x2B then 4 else if dt = 0x2C then 2 else if dt = 0x2D then 4 else 1

/-- Bytes per packing group. -/
def groupBytes (dt : Nat) : Nat :=
  if dtRgb dt then 3 else if dt = 0x2E then 2 else if dt = 0x2B then 5 else if dt = 0x2C then 3 else if dt = 0x2D then 7 else 1

/-- The pixels of one packing group, as the CSI-2 standard orders its bytes: RAW10 to RAW14 send the upper 8 bits of
each pixel and then the low bits, least significant pixel first; RAW16 its low byte first; RGB888 B, G, R (PRESUMED,
log 30). A pixel of RGB888 is 65536 R + 256 G + B. (PRESUMED, log 30) -/
def unpackGroup (dt : Nat) (g : List Byte) : List Nat :=
  if dtRgb dt || dt == 0x2E || groupBytes dt == 1 then [leNat g]
  else
    let n := groupPix dt
    let lb := dtBits dt - 8
    let low := leNat (g.drop n)
    (List.range n).map (fun j => (g.getD j 0).toNat * 2 ^ lb + low / 2 ^ (j * lb) % 2 ^ lb)

/-- The bytes of one packing group. -/
def packGroup (dt : Nat) (p : List Nat) : List Byte :=
  if dtRgb dt || dt == 0x2E || groupBytes dt == 1 then leBytes (at0 p 0) (groupBytes dt)
  else
    let n := groupPix dt
    let lb := dtBits dt - 8
    let hi := (List.range n).map (fun j => BitVec.ofNat 8 (at0 p j / 2 ^ lb))
    let low := (List.range n).foldl (fun v j => v + at0 p j % 2 ^ lb * 2 ^ (j * lb)) 0
    hi ++ leBytes low (groupBytes dt - n)

/-- A list cut into whole pieces of n elements, at most `fuel` of them; an incomplete piece is left out. -/
def pieces {α : Type} (n : Nat) : Nat → List α → List (List α)
  | 0, _ => []
  | fuel + 1, l => if n = 0 || decide (l.length < n) then [] else l.take n :: pieces n fuel (l.drop n)

/-- The pixels of a payload: whole packing groups (R108). -/
def unpackLine (dt : Nat) (bs : List Byte) : List Nat :=
  (pieces (groupBytes dt) bs.length bs).flatMap (unpackGroup dt)

/-- The bytes of a line as the port packs it; an incomplete final group is filled with zero pixels. -/
def packLine (dt : Nat) (p : List Nat) : List Byte :=
  let n := groupPix dt
  let p := p ++ List.replicate ((n - p.length % n) % n) 0
  (pieces n p.length p).flatMap (packGroup dt)

/-- The components of a line's pixels: one list, or red, green and blue. -/
def compsOf (dt : Nat) (p : List Nat) : List (List Nat) :=
  if dtRgb dt then [p.map (· / 65536 % 256), p.map (· / 256 % 256), p.map (· % 256)] else [p]

/-! ### Tables (R142, R143, R145) -/

/-- The number of entries of a table of a kind (0 black, 1 flat-field, 2 defect, 3 tone). -/
def tblLen (kind : Nat) : Nat := if kind = 2 then 8192 else if kind = 3 then 1025 else 16384

/-- The key of a table entry in a Face: kind, context, plane or channel, bank, entry. A defect table belongs to the
Face, and only flat-field and tone tables have an index. -/
def tblKey (kind ctx idx : Nat) (bank : Bool) (e : Nat) : Nat :=
  let ctx := if kind = 2 then 0 else ctx
  let idx := if kind = 1 || kind = 3 then idx else 0
  (((kind * 4 + ctx) * 4 + idx) * 2 + b2n bank) * 16384 + e

/-- The Boot contents of a table entry (R145). -/
def tblBoot (key : Nat) : Word :=
  let kind := key / 2 ^ 19
  let e := key % 16384
  if kind = 1 then 0x10000
  else if kind = 3 then BitVec.ofNat 20 (if e = 1024 then 0xFFFF else 64 * e)
  else 0

/-- A table entry of a Face. -/
def Face.tblAt (fc : Face) (kind ctx idx : Nat) (bank : Bool) (e : Nat) : Nat :=
  (SMap.get tblBoot fc.tbl (tblKey kind ctx idx bank e)).toNat

/-- The non-empty defect entries of a bank that name a context, in entry order: column and method (R127). -/
def Face.defects (fc : Face) (bank : Bool) (ctx : Nat) : List (Nat × Nat) :=
  let base := tblKey 2 0 0 bank 0
  fc.tbl.filterMap (fun e =>
    if base ≤ e.1 && e.1 < base + 8192 && bits e.2.toNat 3 2 != 0 && bits e.2.toNat 19 18 == ctx then
      some (bits e.2.toNat 17 4, bits e.2.toNat 3 2)
    else none)

/-- The entries of a context that are in strictly ascending order, and how many are ignored for order (R127). -/
def orderDefects : Option Nat → List (Nat × Nat) → List (Nat × Nat) × Nat
  | _, [] => ([], 0)
  | prev, (c, m) :: l =>
    if prev.any (fun p => decide (c ≤ p)) then
      let r := orderDefects prev l
      (r.1, r.2 + 1)
    else
      let r := orderDefects (some c) l
      ((c, m) :: r.1, r.2)

/-! ### Stages 1 to 4 (R125 to R130) -/

/-- 2^20 − 1. -/
def max20 : Nat := 0xFFFFF

/-- Stage 1: a raw value of n bits in the 20-bit scale (R125). -/
def unpack20 (n v : Nat) : Nat := v * 2 ^ (20 - n)

/-- Stage 2: black level (R126). -/
def blackLevel (u k : Nat) (g : Int) : Nat := clampN ((u : Int) - k - g) max20

/-- The neighbour of column c at distance d, if it lies in the same line or half line [lo, hi). -/
def nbr (l : List Nat) (lo hi : Nat) (c d : Int) : Option Nat :=
  let j := c + d
  if (lo : Int) ≤ j && j < hi then some (at0 l j.toNat) else none

/-- The value of a listed pixel (R128): 1 mean, 2 copy c − s, 3 copy c + s. -/
def listedValue (method own : Nat) (n1 n2 : Option Nat) : Nat :=
  match n1, n2 with
  | some a, some b => if method = 1 then (a + b + 1) / 2 else if method = 2 then a else b
  | some a, none => a
  | none, some b => b
  | none, none => own

/-- The half line that column c lies in, for lines of w pixels at stride 2 (R127); the whole line at stride 1. -/
def halfOf (s w c : Nat) : Nat × Nat := if s = 2 then (if c < w / 2 then (0, w / 2) else (w / 2, w)) else (0, w)

/-- Static replacement of a component (R128). -/
def staticStage (s : Nat) (defs : List (Nat × Nat)) (b : List Nat) : List Nat :=
  b.mapIdx (fun c v =>
    match defs.find? (fun d => d.1 == c) with
    | some (_, m) =>
      let h := halfOf s b.length c
      listedValue m v (nbr b h.1 h.2 c (-s)) (nbr b h.1 h.2 c s)
    | none => v)

/-- The dynamic test of a component (R129): the corrected values and which of them were replaced. -/
def dynamicStage (s hi lo : Nat) (defs : List (Nat × Nat)) (b : List Nat) : List (Nat × Bool) :=
  b.mapIdx (fun c v =>
    let h := halfOf s b.length c
    match nbr b h.1 h.2 c (-s), nbr b h.1 h.2 c s with
    | some a, some d =>
      if defs.any (fun e => e.1 == c) then (v, false)
      else if max a d + hi < v || v + lo < min a d then ((a + d + 1) / 2, true)
      else (v, false)
    | _, _ => (v, false))

/-- Stage 4, and white balance: a gain in Q4.16 (R130, R136). -/
def gain16 (b g : Nat) : Nat := min ((b * g + 32768) / 65536) max20

/-! ### Stages 6 to 9 (R133, R134, R136 to R139) -/

/-- The 16 most significant bits of a component (R134). -/
def held16 (v : Nat) : Nat := v / 16 * 16

/-- Two-line interpolation of half lines A and B of W pixels (R133): red, green, blue. -/
def twoLine (a b : List Nat) (w : Nat) : List (List Nat) :=
  let avg (l : List Nat) (x : Nat) : Nat := (at0 l (x - 1) + at0 l (x + 1) + 1) / 2
  let red := (List.range w).map (fun x => if x % 2 = 0 then at0 a x else if x + 1 = w then at0 a (x - 1) else avg a x)
  let green := (List.range w).map (fun x => if x % 2 = 0 then at0 b x else at0 a x)
  let blue := (List.range w).map (fun x =>
    if x % 2 = 1 then at0 b x
    else if x = 0 then at0 b 1
    else if x + 1 = w then at0 b (x - 1)
    else avg b x)
  [red, green, blue].map (·.map held16)

/-- Stage 8 for one output component: the row of the matrix (R137). -/
def matrixRow (m : List Int) (w : List Nat) : Nat :=
  clampN (((m.zip w).foldl (fun (a : Int) (p : Int × Nat) => a + p.1 * p.2) 0 + 16384).fdiv 32768) max20

/-- Stage 9: the tone curve at x (R138). -/
def toneAt (t : Nat → Nat) (x : Nat) : Nat :=
  let i := x / 1024 % 1024
  ((t i : Int) + (((t (i + 1) : Int) - t i) * (x % 1024 : Nat) + 512).fdiv 1024).toNat

/-- The 16-bit luma of a stage 9 line (R139). -/
def luma16 (ch : List (List Nat)) : List Nat :=
  match ch with
  | [r, g, b] => (r.zip (g.zip b)).map (fun p => (19595 * p.1 + 38470 * p.2.1 + 7471 * p.2.2 + 32768) / 65536)
  | [y] => y
  | _ => []

/-- 8 bits of a 16-bit value (R139, R162). -/
def to8 (v : Nat) : Nat := min ((v + 128) / 256) 255

/-- The 8-bit components that DISP and CODE start from (R162). -/
def rgb8 (ch : List (List Nat)) : List (List Nat) :=
  match ch with
  | [y] => [y.map to8, y.map to8, y.map to8]
  | _ => ch.map (·.map to8)

/-! ### Scaler, DISP, CODE (R162 to R165) -/

/-- The factor that an SX or SY code gives. -/
def scaleOf (code : Nat) : Nat := 2 ^ code

/-- One component of a scaled line: the average of boxes of sx columns over the lines (R162). -/
def boxAverage (sx : Nat) (lines : List (List Nat)) : List Nat :=
  let w := (lines.map List.length).foldl min (lines.headD []).length
  (List.range (w / sx)).map (fun i =>
    let sum := (lines.flatMap (fun l => (l.drop (i * sx)).take sx)).foldl (· + ·) 0
    (sum + sx * lines.length / 2) / (sx * lines.length))

/-- A scaled line of three components from the lines of a box. -/
def scaleBox (sx : Nat) (lines : List (List (List Nat))) : List (List Nat) :=
  (List.range 3).map (fun k => boxAverage sx (lines.map (fun l => l.getD k [])))

/-- The bytes of a DISP line (R163). -/
def dispBytes (c : List (List Nat)) : List Byte :=
  ((c.getD 0 []).zip ((c.getD 1 []).zip (c.getD 2 []))).flatMap
    (fun p => [BitVec.ofNat 8 p.1, BitVec.ofNat 8 p.2.1, BitVec.ofNat 8 p.2.2])

/-- BT.709 components of a pixel (R165): luma, Cb, Cr. -/
def yuv (r g b : Nat) : Nat × Nat × Nat :=
  let f (x : Int) : Nat := ((x + 128).fdiv 256 + 128).toNat
  ((47 * r + 157 * g + 16 * b + 128) / 256 + 16,
   f (-26 * (r : Int) - 86 * g + 112 * b), f (112 * (r : Int) - 102 * g - 10 * b))

/-- The converted pixels of a scaled line, in even number (R165). -/
def yuvLine (c : List (List Nat)) : List (Nat × Nat × Nat) :=
  let px := ((c.getD 0 []).zip ((c.getD 1 []).zip (c.getD 2 []))).map (fun p => yuv p.1 p.2.1 p.2.2)
  px.take (px.length / 2 * 2)

/-- The Y bytes of a CODE line. -/
def codeY (c : List (List Nat)) : List Byte := (yuvLine c).map (fun p => BitVec.ofNat 8 p.1)

/-- The chroma row of a pair of lines: 2 × 2 averages (R165). A line without a partner is paired with itself. -/
def codeChroma (c1 c2 : List (List Nat)) : List Byte :=
  let a := yuvLine c1
  let b := yuvLine c2
  (List.range (min a.length b.length / 2)).flatMap (fun i =>
    let q := [a.getD (2 * i) (0, 0, 0), a.getD (2 * i + 1) (0, 0, 0), b.getD (2 * i) (0, 0, 0), b.getD (2 * i + 1) (0, 0, 0)]
    let cb := (q.map (fun p => p.2.1)).foldl (· + ·) 0
    let cr := (q.map (fun p => p.2.2)).foldl (· + ·) 0
    [BitVec.ofNat 8 ((cb + 2) / 4), BitVec.ofNat 8 ((cr + 2) / 4)])

/-- A line tag as 20 bytes, bit 0 first (R40). (DESIGN CHOICE, log 171) -/
def Tag.bytes (t : Tag) : List Byte :=
  let hi := t.step.toNat + t.plane.toNat * 2 ^ 6 + t.head.toNat * 2 ^ 8 + t.index.toNat * 2 ^ 12 + b2n t.dir * 2 ^ 25
    + b2n t.snap * 2 ^ 26 + t.skip.toNat * 2 ^ 27 + t.node.toNat * 2 ^ 30
  leBytes t.x.toNat 8 ++ leBytes t.time.toNat 8 ++ leBytes hi 4

end Sys2Proof.Machine
end

