-- ==== Sys2Proof/Machine/Stock.lean ====
section
/-!
DEFINITION. Raw spools and stockpiles in DRAM (R155, R160, R191 to R195).
-/
namespace Sys2Proof.Machine

/-! ### Regions -/

/-- A DRAM address from its two base registers: bits [31:12] and [39:32]. -/
def State.dramAddr (s : State) (l h : Nat) : Nat := s.fld h 7 0 * 2 ^ 32 + (s.reg l).toNat * 2 ^ 12

/-- Context c of Face f is enabled. -/
def State.ctxEn (s : State) (f c : Nat) : Bool := s.flag (Adr.fsrcSrc f c) 0

/-- It is in-line. -/
def State.ctxInline (s : State) (f c : Nat) : Bool := s.flag (Adr.fsrcSrc f c) 1

/-- The port of context c: 4f + PORT, which is also its head. -/
def State.ctxPort (s : State) (f c : Nat) : Nat := 4 * f + s.fld (Adr.fsrcSrc f c) 3 2

/-- The image stream of context c: 0 IMG0, 1 IMG1. -/
def State.ctxStream (s : State) (f c : Nat) : Nat := s.fld (Adr.fsrcSrc f c) 4 4

/-- The context writes its head's stockpiles. -/
def State.ctxStock (s : State) (f c : Nat) : Bool := s.flag (Adr.fsrcSrc f c) 5

/-- FILT of a port's stream (R119). -/
def Adr.portFilt (p st : Nat) : Nat := if st = 0 then Adr.portImg0Filt p else Adr.portImg1Filt p

/-- WIDTH − 1 register of a port's stream (R119). -/
def Adr.portWidth (p st : Nat) : Nat := if st = 0 then Adr.portImg0Width p else Adr.portImg1Width p

/-- The width of a stream in pixels. -/
def State.strWidth (s : State) (p st : Nat) : Nat := s.fld (Adr.portWidth p st) 13 0 + 1

/-- The data type of a stream. -/
def State.strDt (s : State) (p st : Nat) : Nat := s.fld (Adr.portFilt p st) 9 4

/-- The packed payload of w pixels in whole packing groups (R108, R155). -/
def packedBytes (dt w : Nat) : Nat := (w + groupPix dt - 1) / groupPix dt * groupBytes dt

/-- The stride of a spool line (R155). -/
def spoolStride (dt w : Nat) : Nat := 64 + (packedBytes dt w + 63) / 64 * 64

/-- SLABS of a spool. -/
def State.spoolSlabs (s : State) (f c : Nat) : Nat := s.fld (Adr.fsrcSpool f c) 6 0

/-- LINES of a spool. -/
def State.spoolLines (s : State) (f c : Nat) : Nat := s.fld (Adr.fsrcSpool f c) 19 7 + 1

/-- The stride of context c's spool. -/
def State.ctxStride (s : State) (f c : Nat) : Nat :=
  let p := s.ctxPort f c
  spoolStride (s.strDt p (s.ctxStream f c)) (s.strWidth p (s.ctxStream f c))

/-- A spool's first DRAM address and size (R155). -/
def State.spoolRegion (s : State) (f c : Nat) : Nat × Nat :=
  (s.dramAddr (Adr.fsrcSpoolBaseL f c) (Adr.fsrcSpoolBaseH f c),
   s.spoolSlabs f c * s.spoolLines f c * s.ctxStride f c)

/-- DEPTH of a stockpile (R191). -/
def State.stockDepth (s : State) (h p : Nat) : Nat := 256 * (s.fld (Adr.stockCtrl h p) 8 1 + 1)

/-- EN of a stockpile. -/
def State.stockEn (s : State) (h p : Nat) : Bool := s.flag (Adr.stockCtrl h p) 0

/-- BASE of a stockpile. -/
def State.stockBase (s : State) (h p : Nat) : Nat := s.dramAddr (Adr.stockBaseL h p) (Adr.stockBaseH h p)

/-- The line stride of a stockpile of luma width w (R191). -/
def stockStride (w : Nat) : Nat := (w + 63) / 64 * 64

/-- A stockpile's first DRAM address and size (R191). -/
def State.stockRegion (s : State) (h p : Nat) : Nat × Nat :=
  (s.stockBase h p, s.stockDepth h p * (stockStride (s.stock (4 * h + p)).w + 32))

/-- Two regions overlap. -/
def clash (a b : Nat × Nat) : Bool := decide (a.1 < b.1 + b.2) && decide (b.1 < a.1 + a.2)

/-- The lease buffer: 16 MiB (R287). -/
def leaseSize : Nat := 0x1000000

/-- A size in whole blocks of 4 KiB. -/
def poolSize (n : Nat) : Nat := (n + 4095) / 4096 * 4096

/-- The DRAM that stays beside what the foreman allocates at Boot: the stockpiles of 8 GiB and raw spools of 1.5 GiB that both
fit (01_engine_at_a_glance.md, Rates and how they add up). -/
def bootRoom : Nat := 0x260000000

/-- Regions in usable DRAM leave that room, in one piece. -/
def bootLeaves (l : List (Nat × Nat)) : Bool :=
  (0 :: l.map (fun p => poolSize (p.1 + p.2))).any (fun o =>
    decide (o + bootRoom ≤ dramSize) && l.all (fun p => !clash p (o, bootRoom)))

/-- What the foreman allocates at Boot, as offsets in usable DRAM and sizes: free but for the room that it leaves.
(DEDUCED, log 144) -/
def bootRegions : List (Nat × Nat) := if bootLeaves Config.bootPlaces then Config.bootPlaces else []

/-- A region overlaps what the foreman allocates at Boot: result staging with its payloads, the result slots and the
firmware images. The manual gives their places nowhere. -/
def bootClash (r : Nat × Nat) : Bool := bootRegions.any (fun b => clash r (dramBase + b.1, b.2))

/-- A region overlaps an enabled spool or stockpile other than the one with the number given (spools 4f + c, stockpiles
16 + 4h + p), a lease buffer, or a region of the foreman's. -/
def State.regionClash (s : State) (self : Nat) (r : Nat × Nat) : Bool :=
  bootClash r || (List.range 8).any (fun b => (s.bench b).buf.any (fun a => clash r (a, leaseSize))) ||
  (List.range 16).any (fun i =>
      i != self && s.ctxEn (i / 4) (i % 4) && !s.ctxInline (i / 4) (i % 4) && clash r (s.spoolRegion (i / 4) (i % 4)))
    || (List.range 64).any (fun i =>
      16 + i != self && s.stockEn (i / 4) (i % 4) && clash r (s.stockRegion (i / 4) (i % 4)))

/-- Staged results and result slots undefined: another region lies over them (R160, R195, R433). -/
def State.spoilStaging (s : State) : State :=
  let d := s.draw
  let s := d.2.setRes { d.2.res with staging := d.2.res.staging.map (fun r => { r with undef := true }) }
  s.setRiddle { s.riddle with slots := (Config.anyState d.1).riddle.slots }

/-- Bytes written to a region of DRAM: free values where the region overlaps another, whose contents are undefined
then (R160, R195, R433); nothing outside usable DRAM. -/
def State.putRegion (s : State) (self : Nat) (r : Nat × Nat) (a : Nat) (bs : List Byte) : State :=
  if a < dramBase then s
  else if s.regionClash self r then
    let d := s.drawList bs.length 256
    let s := d.2.putDram (a - dramBase) (d.1.map (BitVec.ofNat 8 ·))
    if bootClash r then s.spoilStaging else s
  else s.putDram (a - dramBase) bs

/-! ### Stockpiles -/

/-- The flags of a line as four bits: SUSPECT, CRCERR, SHORTLINE, LONGLINE. -/
def LFlags.num (f : LFlags) : Nat := b2n f.suspect + 2 * b2n f.crc + 4 * b2n f.short + 8 * b2n f.long

/-- The flags that four bits spell. -/
def LFlags.ofNum (n : Nat) : LFlags :=
  { suspect := n.testBit 0, crc := n.testBit 1, short := n.testBit 2, long := n.testBit 3 }

/-- A line record with VALID 1 (R192). -/
def stockRecord (t : Tag) (n : BitVec 32) (fl : LFlags) (epoch : BitVec 8) : List Byte :=
  t.bytes ++ leBytes n.toNat 4 ++ [BitVec.ofNat 8 (1 + 2 * fl.num), epoch] ++ List.replicate 6 0

/-- A line written to its head's stockpile of its plane (R191 to R193). -/
def State.stockLine (s : State) (h p : Nat) (t : Tag) (n : BitVec 32) (fl : LFlags) (y : List Nat) : State :=
  if !s.stockEn h p then s
  else
    let k := 4 * h + p
    let s := s.setStock k { s.stock k with w := y.length }
    let d := s.stockDepth h p
    let st := stockStride y.length
    let r := s.stockRegion h p
    let i := n.toNat % d
    let s := s.putRegion (16 + k) r (r.1 + i * st) (y.map (BitVec.ofNat 8 ·))
    let s := s.putRegion (16 + k) r (r.1 + d * st + i * 32) (stockRecord t n fl (s.stock k).epoch)
    s.setStock k { s.stock k with newest := n, any := true }

/-- The epoch of a stockpile moves on (R193): no line of it is resident any more. (DEDUCED, log 44) -/
def State.bumpEpoch (s : State) (h p : Nat) : State :=
  let k := 4 * h + p
  s.setStock k { s.stock k with epoch := (s.stock k).epoch + 1, any := false }

/-- The record of a line of a stockpile, as it stands in DRAM. -/
def State.stockRec (s : State) (h p : Nat) (n : BitVec 32) : List Byte :=
  let r := s.stockRegion h p
  let d := s.stockDepth h p
  s.dramRun (r.1 + d * stockStride (s.stock (4 * h + p)).w + n.toNat % d * 32 - dramBase) 32

/-- A line is resident: its record shows VALID, the wanted LNUM and the current EPOCH (R193). -/
def State.resident (s : State) (h p : Nat) (n : BitVec 32) : Bool :=
  let r := s.stockRec h p n
  s.stockEn h p && (s.stock (4 * h + p)).any && ((r.getD 24 0).toNat).testBit 0
    && leNat ((r.drop 20).take 4) == n.toNat && r.getD 25 0 == (s.stock (4 * h + p)).epoch

/-- The position FRAC and POSITION of a line's tag, as 48.16 counts. -/
def State.stockPos (s : State) (h p : Nat) (n : BitVec 32) : BitVec 64 :=
  BitVec.ofNat 64 (leNat ((s.stockRec h p n).take 8))

/-- TIME of a line's tag. -/
def State.stockTime (s : State) (h p : Nat) (n : BitVec 32) : BitVec 64 :=
  BitVec.ofNat 64 (leNat (((s.stockRec h p n).drop 8).take 8))

/-- SNAP of a line's tag (R40). -/
def State.stockSnap (s : State) (h p : Nat) (n : BitVec 32) : Bool :=
  (leNat (((s.stockRec h p n).drop 16).take 4)).testBit 26

/-- The flags of a line's record. -/
def State.stockFlags (s : State) (h p : Nat) (n : BitVec 32) : LFlags :=
  LFlags.ofNum (((s.stockRec h p n).getD 24 0).toNat / 2 % 16)

/-- A pixel of a stockpile line; a column outside the line takes the nearest (R213). -/
def State.stockPix (s : State) (h p : Nat) (n : BitVec 32) (x : Int) : Nat :=
  let r := s.stockRegion h p
  let w := (s.stock (4 * h + p)).w
  let x := clampN x (w - 1)
  (s.dramByte (r.1 + n.toNat % s.stockDepth h p * stockStride w + x - dramBase)).toNat

/-- The newest pair of consecutive resident lines (i, i + 1) with pos(i) ≤ y < pos(i+1), going back from line n over at
most `fuel` lines (R212). -/
def State.findLines (s : State) (h p : Nat) (y : BitVec 64) : Nat → BitVec 32 → Option (BitVec 32)
  | 0, _ => none
  | fuel + 1, n =>
    if s.resident h p (n - 1) && s.resident h p n
        && decide ((y - s.stockPos h p (n - 1)).toInt ≥ 0) && decide ((y - s.stockPos h p n).toInt < 0) then some (n - 1)
    else s.findLines h p y fuel (n - 1)

/-- The closing of a slab recorded (R194), for each enabled plane that had lines of it; the last 256 are kept. -/
def State.stockClose (s : State) (h : Nat) (last : List (Nat × BitVec 32 × BitVec 32)) (cl : SlabClose) : State :=
  let last := last.filter (fun e => s.stockEn h e.1)
  if last.isEmpty then s
  else
    let l := s.closing h ++ [{ last := last, close := cl }]
    let s := s.setClosing h (l.drop (l.length - 256))
    last.foldl (fun s (e : Nat × BitVec 32 × BitVec 32) =>
      s.setStock (4 * h + e.1) { s.stock (4 * h + e.1) with closed := e.2.2, anyClosed := true }) s

/-- A write of STOCK.h.p.CTRL: EN going to 1 moves the epoch on (R193). -/
def State.writeStockCtrl (s : State) (h p : Nat) (hit : Hit) (w : Word) : State :=
  let was := s.stockEn h p
  let s := s.store hit (Adr.stockCtrl h p) w
  if !was && s.stockEn h p then s.bumpEpoch h p else s

/-- `STOCK_ENABLE` (R191, R193). (DEDUCED, log 135) -/
def execStockEnable (ag : Agent) (h : Fin 16) (p : Fin 4) (s : State) : Out :=
  let w := putBits (s.reg (Adr.stockCtrl h p)) 0 0 1
  s.guardWrite ag (Adr.stockCtrl h p) w (fun hit s => .next (s.writeStockCtrl h p hit w))

end Sys2Proof.Machine
end

