-- ==== Sys2Proof/Machine/Trig.lean ====
section
/-!
DEFINITION. Sine, cosine and arctangent in integers, for the angles of the Seam and the Riddle (R181, R182, R199). The
angle unit is 0.005 degrees, half of the 0.01 degrees that registers hold.
-/
namespace Sys2Proof.Machine

/-- π / 36,000, the angle unit in radians, in 2^-80. -/
def unitRad : Nat := 105498679823231627244

/-- Sine and cosine of x radians given in 2^-80, in 2^-80: the series, `fuel` terms of each from term `k` on. -/
def trigSeries (x2 : Int) : Nat → Nat → Int → Int
  | 0, _, _ => 0
  | fuel + 1, k, t => t + trigSeries x2 fuel (k + 2) (-(t * x2).fdiv (2 ^ 80 * ((k + 1) * (k + 2) : Nat)))

/-- Sine of n units, 0 ≤ n ≤ 18,000, in 2^-80. -/
def sinQuad (n : Nat) : Int :=
  let x : Int := ((n * unitRad : Nat) : Int)
  trigSeries ((x * x).fdiv (2 ^ 80)) 20 1 x

/-- Sine of any number of units, in 2^-80. -/
def sinUnits (n : Int) : Int :=
  let m := (n % 72000).toNat
  if m ≤ 18000 then sinQuad m
  else if m ≤ 36000 then sinQuad (36000 - m)
  else if m ≤ 54000 then -sinQuad (m - 36000)
  else -sinQuad (72000 - m)

/-- Cosine of any number of units, in 2^-80. -/
def cosUnits (n : Int) : Int := sinUnits (n + 18000)

/-- A value in 2^-80 rounded to signed Q1.15; one takes the largest code (log 31). (DEDUCED, log 31) -/
def toQ15 (v : Int) : Int := min 32767 ((2 * v + 2 ^ 65).fdiv (2 ^ 66))

/-- Cosine of an angle in 0.01 degrees, in Q1.15. -/
def cosQ15 (a : Nat) : Int := toQ15 (cosUnits (2 * a))

/-- Sine of an angle in 0.01 degrees, in Q1.15. -/
def sinQ15 (a : Nat) : Int := toQ15 (sinUnits (2 * a))

/-- The greatest number of 0.01 degrees whose lower rounding boundary the direction (x, y), y ≥ 0, has reached, found
bit by bit from `b` bits down: the angle of (x, y) is at least (m − ½) · 0.01 degrees when
y · cos − x · sin ≥ 0 there. -/
def atanBits (x y : Int) : Nat → Nat → Nat
  | 0, m => m
  | b + 1, m =>
    let t := m + 2 ^ b
    let u : Int := 2 * (t : Int) - 1
    if t ≤ 18000 && decide (0 ≤ y * cosUnits u - x * sinUnits u) then atanBits x y b t else atanBits x y b m

/-- atan2(y, x) in 0.01 degrees, 0 to 35,999, rounded to nearest with halves up; 0 for the zero vector. -/
def atan2c (y x : Int) : Nat :=
  if x = 0 && y = 0 then 0
  else if y < 0 || (y == 0 && decide (x < 0)) then (18000 + atanBits (-x) (-y) 15 0) % 36000 else atanBits x y 15 0

end Sys2Proof.Machine
end

