-- ==== Sys2Proof/Machine/Gpio.lean ====
section
/-!
DEFINITION. Position-scheduled GPIO outputs (R80, R81).
-/
namespace Sys2Proof.Machine

/-- No pulse runs on a pin that is not listed. -/
def noPulse : Nat → Option (BitVec 64 × Bool) := fun _ => none

/-- A pin's output latch set (R81). -/
def State.gpioLatch (s : State) (pin : Nat) (b : Bool) : State := s.setFlag Adr.gpioOut pin b

/-- An event fires (R80, R81): set, clear, or a pulse, which drives the latch to 1 and restarts on a pin already
pulsing. A set or a clear wins over a pulse that the pin runs and ends it. A WIDTH of 0 ends the pulse at once.
(DEDUCED, log 16) -/
def State.gpioFire (s : State) (e : GpioEv) : State :=
  let pin := e.pin.toNat
  let ended := s.setGpio { s.gpio with pulses := SMap.set noPulse s.gpio.pulses pin none }
  if e.action = 0 then ended.gpioLatch pin true
  else if e.action = 1 then ended.gpioLatch pin false
  else
    let prev := match SMap.get noPulse s.gpio.pulses pin with
      | some (_, b) => b
      | none => s.flag Adr.gpioOut pin
    let stop := s.time + BitVec.ofNat 64 (e.width.toNat * usT)
    (s.setGpio { s.gpio with pulses := SMap.set noPulse s.gpio.pulses pin (some (stop, prev)) }).gpioLatch pin true

/-- The pending events of a channel that `hits` selects fire in push order and leave the queue. -/
def State.gpioPass (s : State) (c : Nat) (hits : BitVec 48 → Bool) : State :=
  let due := s.gpio.pend.filter (fun e => e.chan.toNat == c && hits e.pos)
  let s := s.setGpio { s.gpio with pend := s.gpio.pend.filter (fun e => !(e.chan.toNat == c && hits e.pos)) }
  due.foldl State.gpioFire s

/-- The event staged in EV_L/M/H and EV_CTRL. -/
def State.gpioStaged (s : State) : GpioEv :=
  { pin := BitVec.ofNat 3 (s.fld Adr.gpioEvCtrl 2 0), chan := BitVec.ofNat 2 (s.fld Adr.gpioEvCtrl 6 5),
    pos := s.reg48 Adr.gpioEvL Adr.gpioEvM Adr.gpioEvH, action := BitVec.ofNat 2 (s.fld Adr.gpioEvCtrl 4 3),
    width := BitVec.ofNat 12 (s.fld Adr.gpioEvCtrl 19 8) }

/-- A push of an event (R80): refused at 32 pending, late if its position is not ahead of the count. -/
def State.gpioPush (s : State) (e : GpioEv) (lateFire : Bool) : State :=
  if 32 ≤ s.gpio.pend.length then s.incr Adr.gpioEvDrop
  else if diff48 e.pos (s.enc e.chan.toNat).count ≤ 0 then
    if lateFire then s.gpioFire e else s.incr Adr.gpioEvDrop
  else s.setGpio { s.gpio with pend := s.gpio.pend ++ [e] }

/-- Every pending event discarded (R80). -/
def State.gpioFlush (s : State) : State := s.setGpio { s.gpio with pend := [] }

/-- A write of GPIO.EV_PUSH: PUSH, then FLUSH. -/
def State.writeEvPush (s : State) (w : Word) : State :=
  let s := if w.toNat.testBit 0 then s.gpioPush s.gpioStaged (s.flag Adr.gpioEvCtrl 7) else s
  if w.toNat.testBit 1 then s.gpioFlush else s

/-- `GPIO_EV_PUSH` (R80). -/
def execGpioEvPush (ag : Agent) (s : State) : Out :=
  s.guardWrite ag Adr.gpioEvPush 1 (fun _ s => .next (s.writeEvPush 1))

/-- `GPIO_EV_FLUSH` (R80). -/
def execGpioEvFlush (ag : Agent) (s : State) : Out :=
  s.guardWrite ag Adr.gpioEvPush 2 (fun _ s => .next (s.writeEvPush 2))

/-- `GPIO_PULSE_END` (R80): when the width of the pin's pulse has expired the output latch returns. -/
def execGpioPulseEnd (pin : Fin 8) (s : State) : Out :=
  match SMap.get noPulse s.gpio.pulses pin with
  | some (stop, prev) =>
    if (stop - s.time).toInt ≤ 0 then
      .next ((s.setGpio { s.gpio with pulses := SMap.set noPulse s.gpio.pulses pin none }).gpioLatch pin prev)
    else .next s
  | none => .next s

end Sys2Proof.Machine
end

