-- ==== Sys2Proof/Machine/Seq.lean ====
section
/-!
DEFINITION. Sequencers (R84 to R98): the state of a point, change points, retirement, and the writes of SEQ.q.CTRL.
-/
namespace Sys2Proof.Machine

/-! ### Registers of triggers and sequencers -/

/-- TRG.h.CTRL.EN -/
def State.headEn (s : State) (h : Nat) : Bool := s.flag (Adr.trghCtrl h) 0

/-- TRG.h.CTRL.CHAN -/
def State.headChan (s : State) (h : Nat) : Nat := s.fld (Adr.trghCtrl h) 2 1

/-- TRG.c.CTRL.EN -/
def State.schedOn (s : State) (c : Nat) : Bool := s.flag (Adr.trgcCtrl c) 0

/-- SEQ.q.CTRL.CHAN -/
def State.seqChan (s : State) (q : Nat) : Nat := s.fld (Adr.seqCtrl q) 2 1

/-- SEQ.q.CTRL.EN as last written. -/
def State.seqEn (s : State) (q : Nat) : Bool := s.flag (Adr.seqCtrl q) 0

/-- SEQ.q.CTRL.BANK as last written. -/
def State.seqBank (s : State) (q : Nat) : Bool := s.flag (Adr.seqCtrl q) 3

/-- The length in force of a bank of sequencer q (R98). -/
def State.seqLen (s : State) (q : Nat) (bank : Bool) : Nat := if bank then s.fld (Adr.seqLen q) 13 8 else s.fld (Adr.seqLen q) 5 0

/-- The heads that sequencer q serves (R84). -/
def seqHeads (q : Nat) : List Nat := [4 * q, 4 * q + 1, 4 * q + 2, 4 * q + 3]

/-- The served heads that are enabled and on the sequencer's channel (R92, R93). -/
def State.seqBound (s : State) (q : Nat) : List Nat :=
  (seqHeads q).filter (fun h => s.headEn h && s.headChan h == s.seqChan q)

/-- The point index that a register of its bits [31:0] names (R67): the one within 2^31 of the last reached point. -/
def fullIndex (last : BitVec 48) (low : Nat) : BitVec 48 :=
  last + BitVec.ofInt 48 (sext 32 (low + 2 ^ 32 - last.toNat % 2 ^ 32))

/-! ### The state of a point (R85, R91) -/

/-- What a point sends: STEP, light state, exposure, and whether a table record governs it. -/
structure PointState where
  step : Nat
  chans : Nat
  int : Nat
  plane : Nat
  exp : Nat
  table : Bool
  /-- the governing bank was written while in use (R94) -/
  taint : Bool
deriving DecidableEq, Repr

/-- A LIGHT and an EXP register as the state of a point (R86). -/
def pointState (step : Nat) (light exp : Word) (table taint : Bool) : PointState :=
  { step := step, chans := bits light.toNat 19 12, int := bits light.toNat 11 8, plane := bits light.toNat 7 6,
    exp := exp.toNat, table := table, taint := taint }

/-- The fixed state of sequencer q (R91). -/
def State.fixedState (s : State) (q : Nat) : PointState :=
  pointState 0 (s.reg (Adr.seqFixed q)) (s.reg (Adr.seqFixedExp q)) false false

/-- The record that governs point k: the newer one from the change point on, the older one before it (R91). -/
def Seq.record (sq : Seq) (k : BitVec 48) : Option SeqRec :=
  match sq.older with
  | some o => if diff48 k sq.kc < 0 then some o else sq.newer
  | none => sq.newer

/-- The step of point k under a table record (R91). -/
def recStep (k k0 : BitVec 48) (len : Nat) : Nat := (Int.emod (diff48 k k0) (max len 1 : Nat)).toNat

/-- The state of point k under the records of sequencer q (R91). -/
def State.seqPoint (s : State) (q : Nat) (k : BitVec 48) : PointState :=
  match (s.seq q).record k with
  | some (.table k0 bank len) =>
    let st := recStep k k0 len
    if bank then pointState st (s.reg (Adr.seqStep1Light q st)) (s.reg (Adr.seqStep1Exp q st)) true (s.seq q).taint1
    else pointState st (s.reg (Adr.seqStep0Light q st)) (s.reg (Adr.seqStep0Exp q st)) true (s.seq q).taint0
  | _ => s.fixedState q

/-- The state of point k for head h: a head on another channel than its sequencer gets the fixed state (R85). -/
def State.headPoint (s : State) (h : Nat) (k : BitVec 48) : PointState :=
  if s.headChan h == s.seqChan (h / 4) then s.seqPoint (h / 4) k else s.fixedState (h / 4)

/-! ### Change points and retirement (R92, R93) -/

/-- A record uses a bank. -/
def SeqRec.uses (bank : Bool) : Option SeqRec → Bool
  | some (.table _ b _) => b == bank
  | _ => false

/-- A bank is in use (R94). -/
def Seq.inUse (sq : Seq) (bank : Bool) : Bool := SeqRec.uses bank sq.newer || SeqRec.uses bank sq.older

/-- The undefined case of R94 ends when its bank is retired. -/
def Seq.untaint (sq : Seq) : Seq :=
  { sq with taint0 := sq.taint0 && sq.inUse false, taint1 := sq.taint1 && sq.inUse true }

/-- The least index beyond the last reached point and the pointers of the bound heads (R92). -/
def State.seqFloor (s : State) (q : Nat) : BitVec 48 :=
  (s.seqBound q).foldl (fun k h => let n := (s.head h).m + 1; if diff48 n k > 0 then n else k) ((s.sched (s.seqChan q)).k + 1)

/-- The least index from k on at which a cycle of the record in force completes (R92). -/
def cycleEnd (k : BitVec 48) : Option SeqRec → BitVec 48
  | some (.table k0 _ len) =>
    let r := recStep k k0 len
    if r = 0 then k else k + BitVec.ofNat 48 (len - r)
  | _ => k

/-- The change point of a change (R92). -/
def State.seqChangePoint (s : State) (q : Nat) (bankChange : Bool) : BitVec 48 :=
  let k := s.seqFloor q
  if bankChange then
    let at_ := fullIndex (s.sched (s.seqChan q)).k ((s.reg (Adr.seqAtL q)).toNat + 65536 * (s.reg (Adr.seqAtH q)).toNat)
    let k := if s.flag (Adr.seqCtrl q) 8 && decide (diff48 at_ k > 0) then at_ else k
    cycleEnd k (s.seq q).newer
  else k

/-- A record put in force: at once where the schedule does not run, from the change point where it does (R92). While
no record is kept the points before the change point send the fixed state, as under a fixed record (R91).
(DEDUCED, log 22) (DESIGN CHOICE, log 168) -/
def State.seqChange (s : State) (q : Nat) (mk : BitVec 48 → SeqRec) (bankChange : Bool) : State :=
  let sq := s.seq q
  if s.schedOn (s.seqChan q) then
    let kc := s.seqChangePoint q bankChange
    s.setSeq q { sq with newer := some (mk kc), older := some (sq.newer.getD .fixed), kc := kc, swap := true }
  else
    let r := s.draw
    r.2.setSeq q ({ sq with newer := some (mk (BitVec.ofNat 48 r.1)), older := none }).untaint

/-- The change that EN and BANK make against the values they held (R92). BANK is in effect from here on. -/
def State.seqApply (s : State) (q : Nat) (en0 bank0 : Bool) : State :=
  let en := s.seqEn q
  let bank := s.seqBank q
  let s := s.adopt (Adr.seqCtrl q)
  let table : BitVec 48 → SeqRec := fun k => .table k bank (s.seqLen q bank)
  if en && !en0 then s.seqChange q table false
  else if en0 && !en then s.seqChange q (fun _ => .fixed) false
  else if en && bank != bank0 then s.seqChange q table true
  else s

/-- Every bound head has passed the point before the change point, or the schedule has stopped (R93). -/
def State.seqPassed (s : State) (q : Nat) : Bool :=
  !s.schedOn (s.seqChan q) || (s.seqBound q).all (fun h => decide (diff48 (s.head h).m ((s.seq q).kc - 1) ≥ 0))

/-- Retirement of a change whose heads have all passed it (R93). -/
def State.seqRetire (s : State) (q : Nat) : State :=
  if (s.seq q).swap && s.seqPassed q then
    s.setSeq q ({ s.seq q with older := none, swap := false }).untaint
  else s

/-- Retirement, and the held write that acts when SWAP clears (R93). -/
def State.seqSettle (s : State) (q : Nat) : State :=
  let s := s.seqRetire q
  if (s.seq q).swap then s
  else
    match (s.seq q).held with
    | some (en0, bank0) => ((s.setSeq q { s.seq q with held := none }).seqApply q en0 bank0).seqRetire q
    | none => s

/-- EN and BANK as just written make a change against the values they held, or are held while a change is not retired
(R92, R93). -/
def State.seqWritten (s : State) (q : Nat) (en0 bank0 : Bool) : State :=
  if (s.seq q).swap then s.setSeq q { s.seq q with held := some ((s.seq q).held.getD (en0, bank0)) }
  else (s.seqApply q en0 bank0).seqSettle q

/-- A change of CHAN drops every record, a held write and the highest point issued, and SWAP clears (R92, R98). -/
def State.seqDrop (s : State) (q : Nat) : State :=
  s.setSeq q { s.seq q with
    newer := none, older := none, swap := false, held := none, hiK := none, taint0 := false, taint1 := false }

/-- A write of SEQ.q.CTRL (R92, R93, R98, R489): where it clears EN and changes CHAN, the sequencer first stops on the old
channel, and CHAN then changes. -/
def State.writeSeqCtrl (s : State) (q : Nat) (hit : Hit) (w : Word) : State :=
  let a := Adr.seqCtrl q
  let en0 := s.seqEn q
  let bank0 := s.seqBank q
  let chan0 := s.seqChan q
  let t := s.store hit a w
  if t.seqChan q == chan0 then t.seqWritten q en0 bank0
  else if en0 && !t.seqEn q then
    (((s.store hit a (putBits w 2 1 chan0)).seqWritten q en0 bank0).store hit a w).seqDrop q
  else (t.seqDrop q).seqWritten q en0 bank0

/-- A write of SEQ.q.CTRL by an agent. -/
def seqCtrlWrite (ag : Agent) (q : Nat) (w : Word) (s : State) : Out :=
  s.guardWrite ag (Adr.seqCtrl q) w (fun hit s => .next (s.writeSeqCtrl q hit w))

/-- The records at the start of the schedule of channel c: the newer record takes the starting k, the older one is
dropped (R92). -/
def State.seqAnchor (s : State) (c : Nat) (k0 : BitVec 48) : State :=
  upTo 4 (fun q s =>
    if s.seqChan q = c then
      let sq := s.seq q
      let newer := match sq.newer with
        | some (.table _ b l) => some (.table k0 b l)
        | r => r
      s.setSeq q ({ sq with newer := newer, older := none, swap := false, hiK := none }).untaint
    else s) s

/-- Every sequencer on channel c settles after heads or the schedule have moved (R93). -/
def State.seqSettleAll (s : State) (c : Nat) : State :=
  upTo 4 (fun q s => if s.seqChan q = c then s.seqSettle q else s) s

/-- The lowest-numbered enabled sequencer bound to a channel (R96). -/
def State.seqLowest (s : State) (c : Nat) : Option Nat :=
  (List.range 4).find? (fun q => s.seqEn q && s.seqChan q == c)

/-- The STEP of a TICK for point k (R96). -/
def State.tickStep (s : State) (c : Nat) (k : BitVec 48) : Nat :=
  match s.seqLowest c with
  | some q => (s.seqPoint q k).step
  | none => 0

/-! ### The commands -/

/-- `SEQ_ENABLE` (R92): SEQ.q.CTRL.EN written 1. -/
def execSeqEnable (ag : Agent) (q : Fin 4) (s : State) : Out :=
  seqCtrlWrite ag q (putBits (s.reg (Adr.seqCtrl q)) 0 0 1) s

/-- `SEQ_DISABLE` (R92): SEQ.q.CTRL.EN written 0. -/
def execSeqDisable (ag : Agent) (q : Fin 4) (s : State) : Out :=
  seqCtrlWrite ag q (putBits (s.reg (Adr.seqCtrl q)) 0 0 0) s

/-- `SEQ_BANK_WRITE` (R92): SEQ.q.CTRL.BANK written. -/
def execSeqBankWrite (ag : Agent) (q : Fin 4) (bank : Bool) (s : State) : Out :=
  seqCtrlWrite ag q (putBits (s.reg (Adr.seqCtrl q)) 3 3 (b2n bank)) s

/-- `SEQ_CHAN_WRITE` (R92): SEQ.q.CTRL.CHAN written. -/
def execSeqChanWrite (ag : Agent) (q : Fin 4) (chan : Fin 4) (s : State) : Out :=
  seqCtrlWrite ag q (putBits (s.reg (Adr.seqCtrl q)) 2 1 chan) s

end Sys2Proof.Machine
end

