-- ==== Sys2Proof/Machine/Trigger.lean ====
section
/-!
DEFINITION. The trigger schedule (R66 to R73), the issue of a trigger with its tag, tally word and TRIG pulse (R40, R41,
R87 to R89), and the TICK words a master sends (R75).
-/
namespace Sys2Proof.Machine

/-! ### Points in 48.16 fixed point -/

/-- A count as a 48.16 position. -/
def fix48 (c : BitVec 48) : BitVec 64 := (c.setWidth 64) <<< 16

/-- The integer part of a 48.16 position. -/
def int48 (x : BitVec 64) : BitVec 48 := (x >>> 16).setWidth 48

/-- The count ⌈x⌉ of a 48.16 position, modulo 2^48. -/
def ceil48 (x : BitVec 64) : BitVec 48 := int48 x + (if x.setWidth 16 = (0 : BitVec 16) then 0 else 1)

/-- The pitch P of channel c in 2^-16 counts (R66). -/
def State.pitch (s : State) (c : Nat) : Nat :=
  (s.reg (Adr.trgcPitchInt c)).toNat * 65536 + (s.reg (Adr.trgcPitchFrac c)).toNat % 65536

/-- The delay D_h of head h in counts (R38). -/
def State.delay (s : State) (h : Nat) : Int :=
  sext 24 ((s.reg (Adr.trghDelayL h)).toNat % 65536 + 65536 * ((s.reg (Adr.trghDelayH h)).toNat % 256))

/-- The position x + D at which point x triggers head h. -/
def State.trigAt (s : State) (h : Nat) (x : BitVec 64) : BitVec 64 := x + BitVec.ofInt 64 (s.delay h * 65536)

/-- The number of pitches from position x that a target has reached: ⌊(target − x) / P⌋, the difference taken as in R36. -/
def reached (target x : BitVec 64) (p : Nat) : Int := (target - x).toInt.fdiv (max p 1 : Nat)

/-- A position moved by n pitches. -/
def movePitch (x : BitVec 64) (n : Int) (p : Nat) : BitVec 64 := x + BitVec.ofInt 64 (n * p)

/-! ### SYNC words (R75) -/

/-- A word sent on SYNC_OUT. -/
def State.syncSend (s : State) (ws : List (BitVec 16)) : State :=
  s.setSync { s.sync with out := s.sync.out ++ ws, lastSent := s.time }

/-- SYNC.CTRL.ROLE: 1 master, 2 slave. -/
def State.syncRole (s : State) : Nat := s.fld Adr.syncCtrl 1 0

/-- SYNC.CTRL.CHAN -/
def State.syncChan (s : State) : Nat := s.fld Adr.syncCtrl 9 8

/-- SYNC.STATUS.LOCKED -/
def State.syncLocked (s : State) : Bool := s.flag Adr.syncStatus 0

/-- The master's TICK for point k of channel c (R75, R96). -/
def State.syncTick (s : State) (c : Nat) (k : BitVec 48) : State :=
  if s.inRun && s.syncRole == 1 && s.syncChan == c then
    s.syncSend [BitVec.ofNat 16 (0x2000 + (s.tickStep c k % 64) * 128 + k.toNat % 128)]
  else s

/-- A slave that is not locked issues nothing on its SYNC channel (R48). -/
def State.mutedChan (s : State) (c : Nat) : Bool := s.syncRole == 2 && s.syncChan == c && !s.syncLocked

/-! ### The issue of a trigger -/

/-- Even parity bit over a number's bits. -/
def parity (n : Nat) : Nat := ((List.range 16).filter (fun i => n.testBit i)).length % 2

/-- The tally word of a point (R87). -/
def tallyWord (p : PointState) : BitVec 16 :=
  let w := 0x8000 + p.chans % 256 * 128 + p.int % 16 * 8 + p.plane % 4 * 2
  BitVec.ofNat 16 (w + parity w)

/-- A free point state, for the undefined cases of R89 and R94: step, light and exposure. -/
def State.freePoint (s : State) (p : PointState) : PointState × State :=
  let r := s.drawList 5 (2 ^ 20)
  ({ p with chans := at0 r.1 0 % 256, int := at0 r.1 1 % 16, plane := at0 r.1 2 % 4, exp := at0 r.1 3,
            step := at0 r.1 4 % 64 }, r.2)

/-- NODE of a tag (R40): the slave position, 0 for a master or a stand-alone engine. -/
def State.node (s : State) : Nat := if s.syncRole == 2 then s.fld Adr.syncCtrl 3 2 else 0

/-- An image stream of a port whose enable is in effect (R115). -/
def State.strAct (s : State) (p st : Nat) : Bool := (SMap.get (fun _ => ({} : PStream)) (s.port p).st st).act

/-- The tags that every enabled image stream of the port has passed leave the head's FIFO; with none enabled every tag
is passed and counted in TAG_DISC (R109). -/
def State.passTags (s : State) (p : Nat) : State :=
  let hd := s.head p
  let stOf (st : Nat) : PStream := SMap.get (fun _ => ({} : PStream)) (s.port p).st st
  if !s.strAct p 0 && !s.strAct p 1 then
    (s.setHead p { hd with tagBase := hd.tagBase + hd.tags.length, tags := [] }).addCnt (Adr.portTagDisc p) hd.tags.length
  else
    let lo := if !s.strAct p 0 then (stOf 1).ptr else if !s.strAct p 1 then (stOf 0).ptr else min (stOf 0).ptr (stOf 1).ptr
    s.setHead p { hd with tagBase := max hd.tagBase lo, tags := hd.tags.drop (lo - hd.tagBase) }

/-- A tag offered to a head's FIFO (R72): a full FIFO discards it, and SKIP and SNAP carry on. -/
def State.pushTag (s : State) (h : Nat) (t : Tag) (n : Nat) (trignum : BitVec 16) (undef : Bool) : State :=
  let hd := s.head h
  if 4096 ≤ hd.tags.length then s.incr (Adr.trghTagOvf h)
  else
    (s.setHead h { hd with
      tags := hd.tags ++ [{ tag := { t with skip := hd.skip, snap := hd.snap }, trignum := trignum, n := n, undef := undef }],
      skip := 0, snap := false }).passTags h

/-- The records of a sequencer's highest issued point (R98): LASTSTEP, RUN and WRAP_CNT. (DEDUCED, log 167) -/
def State.seqIssued (s : State) (q : Nat) (k : BitVec 48) (p : PointState) : State :=
  let sq := s.seq q
  let newest := match sq.hiK with
    | some j => decide (diff48 k j > 0)
    | none => true
  let s := if newest then s.setSeq q { sq with hiK := some k, lastStep := BitVec.ofNat 6 p.step, run := p.table } else s
  if p.table && p.step == 0 then s.incr (Adr.seqWrapCnt q) else s

/-- The place of the next trigger in its slab (R41, R73): a slab's length is fixed at its start, and the last trigger
of a slab clears EN and SLABSTOP where SLABSTOP is set. (DESIGN CHOICE, log 165) -/
def State.advanceSlab (s : State) (h : Nat) : State :=
  let hd := s.head h
  if hd.index + 1 < hd.slabLen then s.setHead h { hd with index := hd.index + 1 }
  else
    let s := s.setHead h { hd with index := 0 }
    if s.flag (Adr.trghCtrl h) 3 then (s.setFlag (Adr.trghCtrl h) 3 false).setFlag (Adr.trghCtrl h) 0 false else s

/-- A trigger issued for point k at position x (R70, R72, R87 to R89, R91): `late` is the delay of 0 to 3 cycles between
the edge and the tally word (R46). The tag carries the number of the triggers issued before it (R109). An issue less than
E + 0.96 µs after the edge of the one before is the undefined case of R89; under it, and under R94, the line is undefined. -/
def State.issue (s : State) (h : Nat) (k : BitVec 48) (x : BitVec 64) (dir : Bool) (late : Nat) : State :=
  let q := h / 4
  let p := s.headPoint h k
  let t0 := s.time + BitVec.ofNat 64 (late % 4)
  let taint := (s.head h).taint || decide (((s.head h).busyUntil - s.time).toInt > 0)
  let undef := taint || p.taint
  let (p, s) := if undef then s.freePoint p else (p, s)
  let (jitter, s) := if taint then s.draw else (0, s)
  let rise := t0 + BitVec.ofNat 64 (160 + jitter)
  let fall := rise + BitVec.ofNat 64 p.exp
  let s := if (s.head h).index = 0 then s.adopt (Adr.trghSlab h) else s
  let hd := s.head h
  let len := if hd.index = 0 then s.efld (Adr.trghSlab h) 12 0 + 1 else hd.slabLen
  let tally := s.flag (Adr.seqCtrl q) (4 + h % 4)
  let s := s.setHead h { hd with
    slabLen := len, trignum := hd.trignum + 1, lastIssue := some s.time, trig := true,
    tally := if tally then some (tallyWord p) else none, rise := rise, fall := fall,
    busyUntil := s.time + BitVec.ofNat 64 (192 + p.exp), taint := taint }
  let t : Tag := {
    x := x, time := rise + s.tofs, step := BitVec.ofNat 6 p.step, plane := BitVec.ofNat 2 p.plane,
    head := BitVec.ofNat 4 h, index := BitVec.ofNat 13 hd.index, dir := dir, node := BitVec.ofNat 2 s.node }
  ((s.pushTag h t len hd.trignum undef).seqIssued q k p).advanceSlab h

/-- TRIG of a head is high (R88): from its rise to its fall. -/
def State.trigHigh (s : State) (h : Nat) : Bool :=
  (s.head h).trig && decide (0 ≤ (s.time - (s.head h).rise).toInt) && decide ((s.time - (s.head h).fall).toInt < 0)

/-- A point skipped for a head (R70): counted, and one more in the SKIP of its next tag, up to 7. -/
def State.skip (s : State) (h n : Nat) : State :=
  let hd := s.head h
  (s.addCnt (Adr.trghSkipCnt h) n).setHead h { hd with skip := BitVec.ofNat 3 (min (hd.skip.toNat + n) 7) }

/-- A trigger that falls due (R48, R70, R98): nothing on a slave's channel without lock, a skip while the Face's domain
is off or within MIN_INT of the previous issue, otherwise issued. -/
def State.fallDue (s : State) (h : Nat) (k : BitVec 48) (x : BitVec 64) (dir : Bool) (late : Nat) : State :=
  if s.mutedChan (s.headChan h) then s
  else if !s.on (facePd (h / 4)) then s.skip h 1
  else
    match (s.head h).lastIssue with
    | some t => if s.since t < (s.reg (Adr.trghMinInt h)).toNat then s.skip h 1 else s.issue h k x dir late
    | none => s.issue h k x dir late

/-! ### The schedule under motion -/

/-- The last reached point after the count has come to c in forward motion (R68), with a TICK for each new point (R75). -/
def State.reachPoints (s : State) (c : Nat) : State :=
  let p := s.pitch c
  let n := (reached (fix48 (s.enc c).count) (s.sched c).x p).toNat
  upTo n (fun _ s =>
    let sc := s.sched c
    (s.setSched c { sc with k := sc.k + 1, x := movePitch sc.x 1 p, any := true }).syncTick c (sc.k + 1)) s

/-- A head's pointer in forward motion (R69): its next point falls due on the edge that brings the count to it. -/
def State.headForward (s : State) (c h late : Nat) : State :=
  let hd := s.head h
  let x := movePitch hd.x 1 (s.pitch c)
  if s.headEn h && s.headChan h == c && ceil48 (s.trigAt h x) == (s.enc c).count then
    let s := s.fallDue h (hd.m + 1) x false late
    s.setHead h { s.head h with m := hd.m + 1, x := x }
  else s

/-- A head's pointer in reverse motion with REV (R69). -/
def State.headReverse (s : State) (c h late : Nat) : State :=
  let hd := s.head h
  if s.headEn h && s.headChan h == c && ceil48 (s.trigAt h hd.x) - 1 == (s.enc c).count then
    let s := s.fallDue h hd.m hd.x true late
    s.setHead h { s.head h with m := hd.m - 1, x := movePitch hd.x (-1) (s.pitch c) }
  else s

/-- The schedule of channel c after an accepted edge (R38, R69). (DESIGN CHOICE, log 24) -/
def State.schedEdge (s : State) (c : Nat) (fwd : Bool) : State :=
  if !s.schedOn c then s
  else
    let r := s.draw
    if fwd then (upTo 16 (fun h s => s.headForward c h r.1) (r.2.reachPoints c)).seqSettleAll c
    else if s.flag (Adr.trgcCtrl c) 1 then (upTo 16 (fun h s => s.headReverse c h r.1) r.2).seqSettleAll c
    else s

/-- A head's points that a forward snap passes (R71): each is a skip, and on a slave without lock nothing is counted. -/
def State.headPass (s : State) (c h : Nat) : State :=
  let hd := s.head h
  if s.headEn h && s.headChan h == c then
    let p := s.pitch c
    let n := reached (fix48 (s.enc c).count) (s.trigAt h hd.x) p
    if n ≤ 0 then s
    else
      let s := if s.mutedChan c then s else s.skip h n.toNat
      s.setHead h { s.head h with m := hd.m + BitVec.ofNat 48 n.toNat, x := movePitch hd.x n p }
  else s

/-- The schedule of channel c after a forward snap (R64, R71). -/
def State.schedSnap (s : State) (c : Nat) : State :=
  if !s.schedOn c then s else (upTo 16 (fun h s => s.headPass c h) (s.reachPoints c)).seqSettleAll c

/-- A head's pointer placed before its first point ahead of the count, no earlier than the starting point (R68, R73). -/
def State.placeHead (s : State) (c h : Nat) : State :=
  let p := s.pitch c
  let sc := s.sched c
  let n := reached (fix48 (s.enc c).count) (s.trigAt h sc.x) p + 1
  let lo := diff48 sc.k0 sc.k
  let n := if n < lo then lo else n
  s.setHead h { s.head h with m := sc.k + BitVec.ofInt 48 (n - 1), x := movePitch sc.x (n - 1) p }

/-- Every enabled head on channel c placed. -/
def State.placeHeads (s : State) (c : Nat) : State :=
  upTo 16 (fun h s => if s.headEn h && s.headChan h == c then s.placeHead c h else s) s

/-- The schedule of channel c starts (R68): X0, the starting k, each head's first point, the sequencers' records. -/
def State.schedStart (s : State) (c : Nat) : State :=
  let cnt := (s.enc c).count
  let x0 : BitVec 64 := if s.flag (Adr.trgcCtrl c) 2 then fix48 (cnt + 1)
    else fix48 (s.reg48 (Adr.trgcOrgL c) (Adr.trgcOrgM c) (Adr.trgcOrgH c)) + (s.reg (Adr.trgcOrgF c)).setWidth 64
  let p := s.pitch c
  let n := reached (fix48 cnt) x0 p + 1
  let n := if n < 0 then 0 else n
  let k := BitVec.ofInt 48 n
  let s := s.setSched c { k0 := k, x0 := x0, k := k - 1, x := movePitch x0 (n - 1) p, any := false }
  (s.placeHeads c).seqAnchor c k

/-- A write of TRG.c.CTRL: EN set starts the schedule (R68), EN cleared stops every head on the channel (R73, R93). -/
def State.writeTrgcCtrl (s : State) (c : Nat) (hit : Hit) (w : Word) : State :=
  let was := s.schedOn c
  let s := s.store hit (Adr.trgcCtrl c) w
  if !was && s.schedOn c then s.schedStart c
  else if was && !s.schedOn c then s.seqSettleAll c
  else s

/-- A write of TRG.h.CTRL: EN set starts a slab at the head's first point ahead (R73); the sequencers of the channel that
the head leaves and of the one it joins see that it has stopped or moved (R93). -/
def State.writeTrghCtrl (s : State) (h : Nat) (hit : Hit) (w : Word) : State :=
  let was := s.headEn h
  let c0 := s.headChan h
  let s := s.store hit (Adr.trghCtrl h) w
  let c := s.headChan h
  let s := if !was && s.headEn h then
      let s := s.setHead h { s.head h with index := 0 }
      if s.schedOn c then s.placeHead c h else s
    else s
  (if c = c0 then s else s.seqSettleAll c0).seqSettleAll c

/-- A write of TRG.c.CTRL by an agent. -/
def trgcCtrlWrite (ag : Agent) (c : Nat) (w : Word) (s : State) : Out :=
  s.guardWrite ag (Adr.trgcCtrl c) w (fun hit s => .next (s.writeTrgcCtrl c hit w))

/-- A write of TRG.h.CTRL by an agent. -/
def trghCtrlWrite (ag : Agent) (h : Nat) (w : Word) (s : State) : Out :=
  s.guardWrite ag (Adr.trghCtrl h) w (fun hit s => .next (s.writeTrghCtrl h hit w))

/-! ### The commands -/

/-- `SCHEDULE_ENABLE` (R68). -/
def execScheduleEnable (ag : Agent) (c : Fin 4) (s : State) : Out :=
  trgcCtrlWrite ag c (putBits (s.reg (Adr.trgcCtrl c)) 0 0 1) s

/-- `SCHEDULE_DISABLE` (R73). -/
def execScheduleDisable (ag : Agent) (c : Fin 4) (s : State) : Out :=
  trgcCtrlWrite ag c (putBits (s.reg (Adr.trgcCtrl c)) 0 0 0) s

/-- `HEAD_TRIGGER_ENABLE` (R73). -/
def execHeadTriggerEnable (ag : Agent) (h : Fin 16) (s : State) : Out :=
  trghCtrlWrite ag h (putBits (s.reg (Adr.trghCtrl h)) 0 0 1) s

/-- `HEAD_TRIGGER_DISABLE` (R73). -/
def execHeadTriggerDisable (ag : Agent) (h : Fin 16) (s : State) : Out :=
  trghCtrlWrite ag h (putBits (s.reg (Adr.trghCtrl h)) 0 0 0) s

/-- `EXPOSURE_END` (R88): when TRIG's width has passed it falls; the output stage is free 0.16 µs later. -/
def execExposureEnd (h : Fin 16) (s : State) : Out :=
  let hd := s.head h
  if hd.trig && decide ((hd.fall - s.time).toInt ≤ 0) then .next (s.setHead h { hd with trig := false }) else .next s

end Sys2Proof.Machine
end

