-- ==== Sys2Proof/Machine/Geo.lean ====
section
/-!
DEFINITION. The geometry of the heads and boxes on the web (R42, R44, R196, R199 to R202, R212). Across the web lengths
are in 2^-16 µm; along it positions are 48.16 counts and lengths 2^-16 µm.
-/
namespace Sys2Proof.Machine

/-! ### The two geometry sets (R196) -/

/-- The geometry registers: A0, A1, A2 and RIGHT of each head, UPC of each channel. -/
def geoRegs : List Nat :=
  (List.range 16).flatMap (fun h => [Adr.riddleGeoA0L h, Adr.riddleGeoA0H h, Adr.riddleGeoA1L h, Adr.riddleGeoA1H h,
    Adr.riddleGeoA2 h, Adr.riddleGeoRight h]) ++ (List.range 4).map Adr.riddleUpc

/-- A geometry register as a set holds it. -/
def State.geo (s : State) (g : Bool) (a : Nat) : Nat :=
  (SMap.get RegMap.reset (if g then s.riddle.geo1 else s.riddle.geo0).regs a).toNat

/-- A0 of a head, in µm. -/
def State.geoA0 (s : State) (g : Bool) (h : Nat) : Int :=
  sext 24 (s.geo g (Adr.riddleGeoA0L h) % 65536 + 65536 * (s.geo g (Adr.riddleGeoA0H h) % 256))

/-- A1 of a head, in 2^-16 µm per pixel. -/
def State.geoA1 (s : State) (g : Bool) (h : Nat) : Int :=
  sext 24 (s.geo g (Adr.riddleGeoA1L h) % 65536 + 65536 * (s.geo g (Adr.riddleGeoA1H h) % 256))

/-- A2 of a head, in 2^-32 µm per pixel². -/
def State.geoA2 (s : State) (g : Bool) (h : Nat) : Int := sext 20 (s.geo g (Adr.riddleGeoA2 h))

/-- UPC of a channel, in 2^-10 µm per count. -/
def State.geoUpc (s : State) (g : Bool) (e : Nat) : Nat := s.geo g (Adr.riddleUpc e)

/-- The head that adjoins a head on its +cross side. -/
def State.rightOf (s : State) (g : Bool) (h : Nat) : Option Nat :=
  let r := s.geo g (Adr.riddleGeoRight h)
  if r.testBit 4 then some (r % 16) else none

/-- The head that adjoins a head on its -cross side: the lowest-numbered one whose RIGHT names it. -/
def State.leftOf (s : State) (g : Bool) (h : Nat) : Option Nat :=
  (List.range 16).find? (fun i => s.rightOf g i == some h)

/-! ### Across the web (R44, R212) -/

/-- A quotient rounded to nearest, halves up, for a divisor of either sign. -/
def sdiv (n d : Int) : Int := if d < 0 then ridiv (-n) d.natAbs else ridiv n d.natAbs

/-- The cross-web position of column c in 2^-4 pixels, in 2^-16 µm (R44). -/
def State.crossAt (s : State) (g : Bool) (h : Nat) (c : Int) : Int :=
  ridiv (s.geoA0 g h * 2 ^ 40 + s.geoA1 g h * c * 2 ^ 20 + s.geoA2 g h * c * c) (2 ^ 24)

/-- The local scale at column c in 2^-4 pixels, in 2^-16 µm per column (R199). -/
def State.scaleAt (s : State) (g : Bool) (h : Nat) (c : Int) : Int :=
  ridiv (s.geoA1 g h * 2 ^ 19 + s.geoA2 g h * c) (2 ^ 19)

/-- The column of a cross-web position, in 2^-8 pixels: the inverse of R44 as R212 computes it. (DEDUCED, log 59) -/
def State.columnOf (s : State) (g : Bool) (h : Nat) (x : Int) : Int :=
  let a0 := s.geoA0 g h * 65536
  let a1 := s.geoA1 g h
  let a2 := s.geoA2 g h
  let next := fun (c : Int) =>
    let f := a0 + ridiv (a1 * c) 65536 + ridiv (a2 * c * c) (2 ^ 48) - x
    c - sdiv (f * 65536) (a1 + ridiv (2 * a2 * c) (2 ^ 32))
  ridiv (next (next (sdiv ((x - a0) * 65536) a1))) 256

/-- Cosine and sine products: a length along an axis at an angle, split across and along, and back. -/
def turnX (a b : Int) (phi : Nat) : Int := ridiv (a * cosQ15 phi) 32768 - ridiv (b * sinQ15 phi) 32768
/-- The part along the web of a length (a, b) given on axes at an angle. -/
def turnY (a b : Int) (phi : Nat) : Int := ridiv (a * sinQ15 phi) 32768 + ridiv (b * cosQ15 phi) 32768

/-! ### Along the web (R36, R42) -/

/-- The difference of two 48.16 positions (R36). -/
def posDiff (a b : BitVec 64) : Int := (a - b).toInt

/-- Counts in 2^-16 as µm in 2^-16. -/
def toUm (upc : Nat) (d : Int) : Int := ridiv (d * upc) 1024

/-- µm in 2^-16 as counts in 2^-16. -/
def toCounts (upc : Nat) (d : Int) : Int := ridiv (d * 1024) upc

/-- A position moved by counts in 2^-16. -/
def posAdd (p : BitVec 64) (d : Int) : BitVec 64 := p + BitVec.ofInt 64 d

/-- The nominal pitch L·P/n_p of plane p at head h, in 2^-16 counts (R42, R95). (DESIGN CHOICE, log 170) -/
def State.planePitch (s : State) (h p : Nat) : Nat :=
  let q := h / 4
  let c := s.headChan h
  let r := if s.seqChan q == c then (s.seq q).newer else none
  match r with
  | some (.table _ bank len) =>
    let n := ((List.range len).filter (fun i =>
      bits (s.reg (if bank then Adr.seqStep1Light q i else Adr.seqStep0Light q i)).toNat 7 6 == p)).length
    rdiv (len * s.pitch c) (max n 1)
  | _ => s.pitch c

/-- The position of line i + f/16 of a stockpile, from the records of lines i and i + 1 (R42). -/
def State.linePos (s : State) (h p : Nat) (i : BitVec 32) (f : Nat) : BitVec 64 :=
  let a := s.stockPos h p i
  let b := s.stockPos h p (i + 1)
  if s.stockSnap h p (i + 1) then
    if f < 8 then posAdd a (ridiv (f * s.planePitch h p : Nat) 16)
    else posAdd b (-(ridiv ((16 - f) * s.planePitch h p : Nat) 16))
  else posAdd a (ridiv ((f : Int) * posDiff b a) 16)

/-- The newest resident line, going back from line n over at most `fuel` lines, that lies at or before a position. -/
def State.lineBefore (s : State) (h p : Nat) (y : BitVec 64) : Nat → BitVec 32 → Option (BitVec 32)
  | 0, _ => none
  | fuel + 1, n =>
    if !s.resident h p n then none
    else if 0 ≤ posDiff y (s.stockPos h p n) then some n
    else s.lineBefore h p y fuel (n - 1)

/-- TIME of the tag of the line at a position (R218): of the newest resident line at or before it. -/
def State.timeAt (s : State) (h p : Nat) (y : BitVec 64) : BitVec 64 :=
  let n := (s.stock (4 * h + p)).newest
  s.stockTime h p ((s.lineBefore h p y (s.stockDepth h p) n).getD n)

/-! ### Boxes (R199, R201) -/

/-- The half of a box's along-web extent, in 2^-16 µm. -/
def WebBox.alongHalf (b : WebBox) : Int :=
  ridiv ((b.eu : Int) * (sinQ15 b.phi).natAbs + (b.ev : Int) * (cosQ15 b.phi).natAbs) 65536

/-- The trailing along-web edge of a box (R203, R210). (DEDUCED, log 52) -/
def WebBox.trailing (b : WebBox) (upc : Nat) : BitVec 64 := posAdd b.yc (toCounts upc b.alongHalf)

/-- The corners of a box, across and along in 2^-16 µm, about a reference position. -/
def WebBox.corners (b : WebBox) (upc : Nat) (y0 : BitVec 64) : List (Int × Int) :=
  let x := b.xc
  let y := toUm upc (posDiff b.yc y0)
  let u := ridiv b.eu 2
  let v := ridiv b.ev 2
  [(u, v), (u, -v), (-u, v), (-u, -v)].map (fun c => (x + turnX c.1 c.2 b.phi, y + turnY c.1 c.2 b.phi))

/-- Least and greatest of a list's values, `d` for an empty list. -/
def spanOf (d : Int) : List Int → Int × Int
  | [] => (d, d)
  | a :: l => l.foldl (fun r x => (min r.1 x, max r.2 x)) (a, a)

/-- Points projected on an axis at an angle. -/
def onAxis (pts : List (Int × Int)) (phi : Nat) : Int × Int :=
  spanOf 0 (pts.map (fun p => ridiv (p.1 * cosQ15 phi) 32768 + ridiv (p.2 * sinQ15 phi) 32768))

/-- Points projected on the axis that is 90 degrees on. -/
def onNormal (pts : List (Int × Int)) (phi : Nat) : Int × Int :=
  spanOf 0 (pts.map (fun p => ridiv (p.2 * cosQ15 phi) 32768 - ridiv (p.1 * sinQ15 phi) 32768))

/-- The smallest box at an angle that contains points given about a reference position, widened on every side. -/
def boxOf (pts : List (Int × Int)) (phi upc : Nat) (y0 : BitVec 64) (margin : Int) : WebBox :=
  let u := onAxis pts phi
  let v := onNormal pts phi
  let um := ridiv (u.1 + u.2) 2
  let vm := ridiv (v.1 + v.2) 2
  { phi := phi, xc := turnX um vm phi, yc := posAdd y0 (toCounts upc (turnY um vm phi)),
    eu := (u.2 - u.1 + 2 * margin).toNat, ev := (v.2 - v.1 + 2 * margin).toNat }

/-- Two spans meet. -/
def spansMeet (a b : Int × Int) : Bool := decide (a.1 ≤ b.2) && decide (b.1 ≤ a.2)

/-- Two boxes overlap: their projections meet on the axes of both. -/
def WebBox.overlaps (a b : WebBox) (upc : Nat) : Bool :=
  let pa := a.corners upc a.yc
  let pb := b.corners upc a.yc
  [a.phi, b.phi].all (fun f => spansMeet (onAxis pa f) (onAxis pb f) && spansMeet (onNormal pa f) (onNormal pb f))

/-- The along-web extents of two boxes overlap. -/
def WebBox.alongMeet (a b : WebBox) (upc : Nat) : Bool :=
  decide ((toUm upc (posDiff b.yc a.yc)).natAbs ≤ a.alongHalf + b.alongHalf)

/-- Two angles of a class agree to within a limit (R201, R204): modulo 180 degrees for LINEAR, 90 degrees for GRID, not
checked for DOT. (DEDUCED, log 53) -/
def phiNear (cls a b lim : Nat) : Bool :=
  if cls = 5 then true
  else
    let m := if cls = 4 then 9000 else 18000
    let d := (a + m - b % m) % m
    decide (min d (m - d) ≤ lim)

end Sys2Proof.Machine
end

