-- ==== Sys2Proof/Machine/Riddle.lean ====
section
/-!
DEFINITION. The Riddle (R196 to R209, R219, R220): geometry commits, arrival, joins, duplicates, ranking, deadlines,
completion and release.
-/
namespace Sys2Proof.Machine

/-! ### The table (R207, R208) -/

/-- An entry of the table. -/
def State.ent (s : State) (i : Nat) : Option Entry := SMap.get (fun _ => (none : Option Entry)) s.riddle.table i

/-- The state with an entry replaced or removed. -/
def State.setEnt (s : State) (i : Nat) (e : Option Entry) : State :=
  s.setRiddle { s.riddle with table := SMap.set (fun _ => (none : Option Entry)) s.riddle.table i e }

/-- The entries in use with their numbers, in number order. -/
def State.entries (s : State) : List (Nat × Entry) := s.riddle.table.filterMap (fun p => p.2.map (fun e => (p.1, e)))

/-- The lowest free entry number. (DEDUCED, log 51) -/
def State.freeEnt (s : State) : Option Nat := (List.range 4096).find? (fun i => (s.ent i).isNone)

/-- Ranking: the earlier deadline, then the higher SCORE, then the earlier arrival (R207). -/
def Entry.before (a b : Entry) : Bool :=
  decide (a.deadline < b.deadline) || (a.deadline == b.deadline &&
    (decide (b.score < a.score) || (a.score == b.score && decide (a.order < b.order))))

/-- The entry of a list that comes before every other under an order. -/
def firstBy (lt : Entry → Entry → Bool) : List (Nat × Entry) → Option (Nat × Entry)
  | [] => none
  | x :: l => match firstBy lt l with
    | some y => some (if lt y.2 x.2 then y else x)
    | none => some x

/-- The entry of a list that arrived first. -/
def earliest (l : List (Nat × Entry)) : Option (Nat × Entry) := firstBy (fun a b => decide (a.order < b.order)) l

/-- An entry leaves the table; a shadow of its own goes with it, and it is no entry's shadow any more. -/
def State.dropEnt (s : State) (i : Nat) : State :=
  let s := match (s.ent i).bind Entry.shadow with
    | some k => s.setEnt k none
    | none => s
  let s := s.setEnt i none
  s.entries.foldl (fun s p => if p.2.shadow == some i then s.setEnt p.1 (some { p.2 with shadow := none }) else s) s

/-- `riddleovf`, at most once in any 100 ms (R208). -/
def State.raiseOvf (s : State) : State :=
  if s.riddle.lastOvf.all (fun t => decide (100 * msT ≤ s.since t)) then
    (s.setRiddle { s.riddle with lastOvf := some s.time }).raise .riddleovf
  else s

/-- A candidate that joined nothing takes the lowest free entry, or at a full table that of the lowest-ranked entry in
PENDING, READY or SHADOW if it ranks higher (R208). -/
def State.placeEnt (s : State) (e : Entry) : State × Option Nat :=
  match s.freeEnt with
  | some i => (s.setEnt i (some e), some i)
  | none =>
    let l := s.entries.filter (fun p => p.2.st == .pending || p.2.st == .ready || p.2.st == .shadow)
    let s := (s.incr Adr.riddleEvict).raiseOvf
    match firstBy (fun a b => b.before a) l with
    | some (i, low) => if e.before low then ((s.dropEnt i).setEnt i (some e), some i) else (s, none)
    | none => (s, none)

/-! ### Duplicates (R204 to R206) -/

/-- Two sightings lie within DUP_DIST and DUP_ANG of each other (R204). (DEDUCED, log 54) -/
def State.isDup (s : State) (e : Entry) (chan cls : Nat) (xc : Int) (yc : BitVec 64) (phi : Nat) : Bool :=
  let d := (s.reg Adr.riddleDupDist).toNat % 65536 * 65536
  e.chan == chan && e.cls == cls && decide ((e.box.xc - xc).natAbs ≤ d)
    && decide ((toUm (s.geoUpc e.gset e.chan) (posDiff e.box.yc yc)).natAbs ≤ d)
    && phiNear cls e.box.phi phi (s.fld Adr.riddleDupAng 11 0)

/-- The history after its retirements (R206). -/
def State.retireHist (s : State) : State :=
  s.setRiddle { s.riddle with history := s.riddle.history.filter (fun r =>
    decide (((s.enc r.chan).count ++ (0 : BitVec 16) - r.yc).toInt.natAbs ≤ (s.reg Adr.riddleDupWin).toNat * 65536)) }

/-- A completed candidate enters the history (R206). -/
def State.addHist (s : State) (e : Entry) (read : Bool) : State :=
  if (s.reg Adr.riddleDupWin).toNat = 0 then s
  else
    let s := s.retireHist
    let r : HistRec := { chan := e.chan, cls := e.cls, xc := e.box.xc, yc := e.box.yc, phi := e.box.phi, read := read }
    let l := s.riddle.history ++ [r]
    s.setRiddle { s.riddle with history := l.drop (l.length - 2048) }

/-- The entry becomes the shadow of entry j; of two shadows the one with the higher SCORE stays (R205).
(DEDUCED, log 55) -/
def State.makeShadow (s : State) (i j : Nat) (e f : Entry) : State :=
  let s := s.incr Adr.riddleShadow
  let take := fun (s : State) =>
    (s.setEnt i (some { e with st := .shadow })).setEnt j (some { f with shadow := some i })
  match f.shadow with
  | none => take s
  | some k =>
    match s.ent k with
    | none => take s
    | some g => if g.score < e.score then take (s.setEnt k none) else s.setEnt i none

/-- An entry becomes READY and is tested for duplicates (R204, R205). -/
def State.makeReady (s : State) (i : Nat) : State :=
  match s.ent i with
  | none => s
  | some e =>
    let s := s.retireHist
    let hist := if (s.reg Adr.riddleDupWin).toNat = 0 then []
      else s.riddle.history.filter (fun r => s.isDup e r.chan r.cls r.xc r.yc r.phi)
    let l := s.entries.filter (fun p => p.1 != i && s.isDup e p.2.chan p.2.cls p.2.box.xc p.2.box.yc p.2.box.phi)
    let rs := l.filter (fun p => p.2.st == .ready)
    let stays := fun (f : Entry) => decide (e.score < f.score) || (f.score == e.score && decide (f.order < e.order))
    if hist.any HistRec.read || rs.any (fun p => stays p.2) then (s.dropEnt i).incr Adr.riddleDup
    else
      let s := rs.foldl (fun s p => (s.dropEnt p.1).incr Adr.riddleDup) s
      match earliest (l.filter (fun p => p.2.st == .cut || p.2.st == .decode)) with
      | some (j, f) => s.makeShadow i j e f
      | none =>
        let again := !e.retry && !hist.isEmpty
        let s := s.setEnt i (some { e with st := .ready, retry := e.retry || !hist.isEmpty })
        if again then s.incr Adr.riddleRetry else s

/-! ### Fragments and joins (R200 to R203) -/

/-- The head that a fragment's side faces, in the entry's geometry set. -/
def State.partner (s : State) (e : Entry) (plus : Bool) : Option Nat :=
  if plus then s.rightOf e.gset e.headB else s.leftOf e.gset e.headA

/-- An entry still waits for a partner. -/
def Entry.waits (e : Entry) : Bool := !e.trk.isEmpty || (!e.xjoin && (e.fragM || e.fragP))

/-- A head's newest resident PLANE_A line lies more than JOIN_LEAD counts beyond the box, or it keeps no lines of the
plane (R203). -/
def State.leads (s : State) (e : Entry) (h : Nat) : Bool :=
  if !s.stockEn h e.planeA then true
  else if !(s.stock (4 * h + e.planeA)).any then false
  else
    let p := s.stockPos h e.planeA (s.stock (4 * h + e.planeA)).newest
    decide ((s.reg Adr.riddleJoinLead).toNat * 65536 < posDiff p (e.box.trailing (s.geoUpc e.gset e.chan)))

/-- No partner will come any more (R203). -/
def State.alone (s : State) (e : Entry) : Bool :=
  (!e.xjoin && e.fragP && (s.partner e true).all (fun h => s.leads e h))
    || (!e.xjoin && e.fragM && (s.partner e false).all (fun h => s.leads e h))
    || e.trk.any (fun k => s.leads e k.1)

/-- A fragment goes on alone (R203). -/
def State.goSolo (s : State) (i : Nat) : State :=
  match s.ent i with
  | some e =>
    if e.st == .pending then ((s.setEnt i (some { e with solo := true })).incr Adr.riddleSolo).makeReady i else s
  | none => s

/-- Every fragment whose partner will not come any more goes on alone. -/
def State.riddlePoll (s : State) : State :=
  (s.entries.filter (fun p => p.2.st == .pending)).foldl (fun s p =>
    match s.ent p.1 with
    | some e => if e.st == .pending && s.alone e then s.goSolo p.1 else s
    | none => s) s

/-- Two flags of lines or candidates together. -/
def LFlags.join (a b : LFlags) : LFlags :=
  { suspect := a.suspect || b.suspect, crc := a.crc || b.crc, short := a.short || b.short, long := a.long || b.long }

/-- EDGETIME of a trailing edge: TIME of the line there, in the head that saw it last (R218). (DEDUCED, log 56) -/
def State.edgeAt (s : State) (heads : List Nat) (p : Nat) (y : BitVec 64) : BitVec 64 :=
  heads.foldl (fun t h => if t < s.timeAt h p y then s.timeAt h p y else t) 0

/-- What two pieces have in common when they join, the earlier one `a` (R201). -/
def State.mergeEnt (s : State) (a b : Entry) : Entry :=
  let upc := s.geoUpc b.gset b.chan
  let lead := decide (b.ntiles < a.ntiles) || (a.ntiles == b.ntiles && decide (a.headA ≤ b.headA))
  let phi := if lead then a.box.phi else b.box.phi
  let tight := boxOf (a.tight.corners upc a.tight.yc ++ b.tight.corners upc a.tight.yc) phi upc a.tight.yc 0
  { a with
    box := boxOf (a.box.corners upc a.box.yc ++ b.box.corners upc a.box.yc) phi upc a.box.yc 0
    tight := tight, joined := true
    score := max a.score b.score, ntiles := min 4095 (a.ntiles + b.ntiles)
    deadline := if a.deadline < b.deadline then a.deadline else b.deadline
    edgeTime := s.edgeAt [a.headA, a.headB, b.headA, b.headB] a.planeA (tight.trailing upc)
    fl := a.fl.join b.fl, cutF := a.cutF || b.cutF, trunc := a.trunc || b.trunc, solo := a.solo || b.solo
    arrived := b.arrived, gset := b.gset }

/-- An along-web join of a piece of head `key.1` (R202). -/
def State.joinAlong (s : State) (a b : Entry) (key : Nat × Nat) : Entry :=
  let m := s.mergeEnt a b
  let far := a.xjoin && ((b.fragM && key.1 == a.headA) || (b.fragP && key.1 == a.headB))
  { m with trunc := b.trunc, trk := a.trk.filter (fun k => k != key) ++ b.trk,
           fragM := a.fragM || b.fragM, fragP := a.fragP || b.fragP, solo := m.solo || far }

/-- A join across heads: `a` on the -cross side, `b` on the +cross side (R201). -/
def State.joinCross (s : State) (a b : Entry) (new : Entry) : Entry :=
  let m := if new.order = a.order then s.mergeEnt b a else s.mergeEnt a b
  { m with headA := a.headA, headB := b.headB, xjoin := true, trk := a.trk ++ b.trk, fragM := false, fragP := false,
           solo := m.solo || a.fragM || b.fragP, order := min a.order b.order }

/-- A piece that a new one of the same head and Seam context continues. -/
def State.alongMate (s : State) (e : Entry) (key : Nat × Nat) : Option (Nat × Entry) :=
  earliest (s.entries.filter (fun p => p.2.st == .pending && p.2.trk.contains key && p.2.chan == e.chan && p.2.cls == e.cls
    && phiNear e.cls p.2.box.phi e.box.phi (s.fld Adr.riddleJoin 19 8)
    && p.2.box.overlaps e.box (s.geoUpc e.gset e.chan)))

/-- A fragment of a neighbouring head that faces a fragment. -/
def State.crossMate (s : State) (e : Entry) (self : Option Nat) : Option (Nat × Entry) :=
  if e.xjoin then none
  else
    earliest (s.entries.filter (fun p =>
      let f := p.2
      some p.1 != self && f.st == .pending && !f.xjoin && f.chan == e.chan && f.cls == e.cls
        && f.planes == e.planes && f.mode == e.mode
        && phiNear e.cls f.box.phi e.box.phi (s.fld Adr.riddleJoin 19 8)
        && ((e.fragP && f.fragM && s.rightOf e.gset e.headA == some f.headA)
          || (e.fragM && f.fragP && s.rightOf e.gset f.headA == some e.headA))
        && f.box.alongMeet e.box (s.geoUpc e.gset e.chan)))

/-- A mapped candidate joins what it continues and faces, or takes an entry of its own, and waits or becomes READY
(R201 to R204, R208). -/
def State.takeIn (s : State) (e : Entry) (key : Nat × Nat) : State :=
  let solo := fun (m : Entry) (was : Bool) (s : State) => if m.solo && !was then s.incr Adr.riddleSolo else s
  let r1 : State × Entry × Option Nat :=
    match s.alongMate e key with
    | some (i, t) =>
      let m := s.joinAlong t e key
      (solo m t.solo ((s.setEnt i (some m)).incr Adr.riddleJoined), m, some i)
    | none => (s, e, none)
  let s := r1.1
  let m := r1.2.1
  let r2 : State × Entry × Option Nat :=
    match s.crossMate m r1.2.2 with
    | some (j, f) =>
      let x := if m.fragP && s.rightOf m.gset m.headA == some f.headA then s.joinCross m f m else s.joinCross f m m
      let s := match r1.2.2 with
        | some i => s.setEnt i none
        | none => s
      (solo x (m.solo || f.solo) ((s.setEnt j (some x)).incr Adr.riddleJoined), x, some j)
    | none => (s, m, r1.2.2)
  let s := r2.1
  let p := match r2.2.2 with
    | some i => (s, some i)
    | none => s.placeEnt r2.2.1
  match p.2 with
  | none => p.1
  | some i => if r2.2.1.waits then p.1 else p.1.makeReady i

/-! ### Arrival (R198, R199) -/

/-- The lines of PLANE_A that bracket a candidate's centre are resident and its stockpiles are enabled (R198). -/
def State.inStock (s : State) (k : Cand) : Bool :=
  let i : BitVec 32 := (k.cy >>> 4).setWidth 32
  s.stockEn k.head k.planeA && (k.mode == 0 || s.stockEn k.head k.planeB)
    && s.resident k.head k.planeA i && s.resident k.head k.planeA (i + 1)

/-- The web angle of a candidate (R199). -/
def webAngle (cls angle : Nat) (sx sy : Int) : Nat :=
  if cls = 5 then 0
  else atan2c (ridiv (sx * sinQ15 angle) 32768) (ridiv (sy * cosQ15 angle) 32768) % (if cls = 4 then 9000 else 18000)

/-- The register index of a class: 0 LINEAR, 1 GRID, 2 DOT (R221). -/
def clsIdx (cls : Nat) : Nat := cls - 3

/-- A candidate mapped to the web (R199, R200). -/
def State.mapCand (s : State) (k : Cand) : Entry :=
  let g := s.riddle.gset
  let h := k.head
  let e := s.headChan h
  let upc := s.geoUpc g e
  let i : BitVec 32 := (k.cy >>> 4).setWidth 32
  let x0 := s.crossAt g h k.cx
  let y0 := s.linePos h k.planeA i (k.cy.toNat % 16)
  let sx := s.scaleAt g h k.cx
  let sy := toUm upc (posDiff (s.stockPos h k.planeA (i + 1)) (s.stockPos h k.planeA i))
  let co := cosQ15 k.angle
  let si := sinQ15 k.angle
  let u : Int := k.hu
  let v : Int := k.hv
  let pts := [(u, v), (u, -v), (-u, v), (-u, -v)].map (fun (c : Int × Int) =>
    (ridiv (sx * (c.1 * co - c.2 * si)) (2 ^ 19), ridiv (sy * (c.1 * si + c.2 * co)) (2 ^ 19)))
  let phi := webAngle k.cls k.angle sx sy
  let move := fun (b : WebBox) => { b with xc := b.xc + x0 }
  let tight := move (boxOf pts phi upc y0 0)
  let box := move (boxOf pts phi upc y0 ((s.reg (Adr.riddleClsPmargin (clsIdx k.cls))).toNat % 65536 * 65536))
  let half : Int := (k.hu * co.natAbs + k.hv * si.natAbs : Nat)
  let edge : Int := (s.fld Adr.riddleJoin 7 0 * 16 * 32768 : Nat)
  let w : Int := ((s.stock (4 * h + k.planeA)).w : Int) - 1
  let low := decide ((k.cx : Int) * 32768 - half ≤ edge)
  let high := decide (w * 16 * 32768 - ((k.cx : Int) * 32768 + half) ≤ edge)
  let pos := decide (0 < s.geoA1 g h)
  { st := .pending, chan := e, cls := k.cls, planeA := k.planeA, planeB := k.planeB, mode := k.mode, box := box, tight := tight,
    headA := h, headB := h, trunc := k.trunc, cutF := k.cut, fl := k.fl, score := k.score, ntiles := k.ntiles,
    deadline := k.time + BitVec.ofNat 64 (s.fld (Adr.riddleClsDeadline (clsIdx k.cls)) 14 0 * msT),
    edgeTime := s.edgeAt [h] k.planeA (tight.trailing upc), arrived := s.time, order := s.riddle.order, gset := g,
    fragM := (if pos then low else high) && (s.leftOf g h).isSome,
    fragP := (if pos then high else low) && (s.rightOf g h).isSome,
    trk := if k.trunc then [(h, 4 * k.seam + k.ctx)] else [] }

/-- `CANDIDATE_ARRIVAL` (R198 to R202): the oldest record of the arrival queue is taken in. -/
def execCandidateArrival (s : State) : Out :=
  match s.riddle.queue with
  | [] => .next s
  | k :: q =>
    let s := s.setRiddle { s.riddle with queue := q }
    if !s.riddleOn then .next s
    else if !s.inStock k then .next (s.incr Adr.riddleNostock)
    else
      let e := s.mapCand k
      let s := s.setRiddle { s.riddle with order := s.riddle.order + 1 }
      .next (s.takeIn e (k.head, 4 * k.seam + k.ctx)).riddlePoll

/-- `JOIN_TIMEOUT` (R203): JOIN_TMO ms have passed since the fragment arrived. -/
def execJoinTimeout (entry : BitVec 12) (s : State) : Out :=
  match s.ent entry.toNat with
  | some e =>
    if e.st == .pending && decide ((s.reg Adr.riddleJoinTmo).toNat % 65536 * msT ≤ s.since e.arrived) then
      .next (s.goSolo entry.toNat)
    else .next s
  | none => .next s

/-! ### Completion and release (R205, R209, R219) -/

/-- A candidate completes: 1 read, 2 NOREAD, 3 NOREAD at its deadline in the Riddle. It is held for release; a NOREAD
that has a shadow is not reported, and the shadow becomes READY with RETRY (R205). -/
def State.complete (s : State) (i done : Nat) : State :=
  match s.ent i with
  | none => s
  | some e =>
    let s := s.addHist e (done == 1)
    let held := fun (s : State) => s.setEnt i (some { e with st := .held, done := done, shadow := none })
    match e.shadow with
    | none => held s
    | some k =>
      if done = 1 then held (s.setEnt k none)
      else
        let s := s.setEnt i none
        match s.ent k with
        | none => s
        | some g => ((s.setEnt k (some { g with retry := true })).incr Adr.riddleRetry).makeReady k

/-- A stockpile's slabs up to a line have closed (R219). -/
def State.closedUpTo (s : State) (h p : Nat) (n : BitVec 32) : Bool :=
  (s.stock (4 * h + p)).anyClosed && decide (0 ≤ diff32 (s.stock (4 * h + p)).closed n)

/-- Every line that an entry's patch used lies in a closed slab. -/
def State.slabsClosed (s : State) (e : Entry) : Bool := e.used.all (fun u => s.closedUpTo u.1 u.2.1 u.2.2.2)

/-- Going back through a head's closing records, newest first: every line from `lo` to `hi` of plane p lies in a
recorded slab that closed without UNCERTAIN (R194, R219). -/
def certain (p : Nat) (lo : BitVec 32) : List ClosingRec → BitVec 32 → Bool
  | [], _ => false
  | r :: l, hi =>
    match r.last.find? (fun t => t.1 == p) with
    | none => certain p lo l hi
    | some (_, a, b) =>
      if diff32 hi a < 0 then certain p lo l hi
      else if diff32 b hi < 0 then false
      else !r.close.uncertain && (decide (diff32 a lo ≤ 0) || certain p lo l (a - 1))

/-- The position-uncertain flag of a release (R219). -/
def State.posUncertain (s : State) (e : Entry) : Bool :=
  !s.slabsClosed e || e.used.any (fun u => !certain u.2.1 u.2.2.1 (s.closing u.1).reverse u.2.2.2)

/-- A result slot that nothing has written holds free values. (DESIGN CHOICE, log 62) -/
def freeRes (d : List Nat) : ReadRes :=
  { sym := at0 d 0 % 16, cause := at0 d 1 % 16, flags := BitVec.ofNat 6 (at0 d 2), pos := BitVec.ofNat 48 (at0 d 3),
    cross := BitVec.ofNat 32 (at0 d 4), angle := at0 d 5 % 65536, module := at0 d 6 % 65536, cols := at0 d 7 % 65536,
    rows := at0 d 8 % 65536, extu := at0 d 9 % 65536, extv := at0 d 10 % 65536, grades := BitVec.ofNat 40 (at0 d 11),
    spare := at0 d 12 % 256, rchk := at0 d 13 % 256, errs := at0 d 14 % 256, eras := at0 d 15 % 256,
    scv := at0 d 16 % 256, pgx := at0 d 17 % 256, pgy := at0 d 18 % 256,
    payload := (d.drop 20).take (at0 d 19 % 4097) |>.map (BitVec.ofNat 8 ·) }

/-- The result slot of an entry, drawn where nothing has written it. -/
def State.slotRes (s : State) (i : Nat) : ReadRes × State :=
  match SMap.get (fun _ => (none : Option ReadRes)) s.riddle.slots i with
  | some r => (r, s)
  | none => let d := s.drawList 4116 (2 ^ 48); (freeRes d.1, d.2)

/-- The result slot of an entry written (R279). -/
def State.setSlot (s : State) (i : Nat) (r : ReadRes) : State :=
  s.setRiddle { s.riddle with slots := SMap.set (fun _ => (none : Option ReadRes)) s.riddle.slots i (some r) }

/-- Staging holds 262,144 results (R257). -/
def stagingMax : Nat := 262144

/-- `resultfull` when staging has filled, at most once in any 100 ms (R258). -/
def State.raiseFull (s : State) : State :=
  if s.res.staging.length = stagingMax && s.res.lastFull.all (fun t => decide (100 * msT ≤ s.since t)) then
    (s.setRes { s.res with lastFull := some s.time }).raise .resultfull
  else s

/-- A number in decimal digits. -/
def decDigits : List Byte → Option Nat
  | [] => none
  | l => l.foldl (fun a b => a.bind (fun n => if 0x30 ≤ b.toNat && b.toNat ≤ 0x39 then some (10 * n + (b.toNat - 0x30)) else none)) (some 0)

/-- A decimal integer with an optional sign. -/
def decInt (l : List Byte) : Option Int :=
  match l with
  | 0x2D :: r => (decDigits r).map (fun n => -(n : Int))
  | 0x2B :: r => (decDigits r).map Int.ofNat
  | _ => (decDigits l).map Int.ofNat

/-- The x and y of a target code's text `MBG <x> <y>` (R197). -/
def targetText (l : List Byte) : Option (Int × Int) :=
  if l.take 4 = [0x4D, 0x42, 0x47, 0x20] then
    let r := l.drop 4
    match decInt (r.takeWhile (· != 0x20)), decInt ((r.dropWhile (· != 0x20)).drop 1) with
    | some x, some y => some (x, y)
    | _, _ => none
  else none

/-- A read of a Data Matrix code of a target, from a candidate that was not joined, noted for `riddle calibrate`
(R197). -/
def State.noteTarget (s : State) (e : Entry) (r : ReadRes) : State :=
  if e.done ≠ 1 || e.joined || r.sym ≠ 1 then s
  else
    match targetText r.payload with
    | some (x, y) =>
      s.setRiddle { s.riddle with target :=
        { head := e.headA, chan := e.chan, col := s.columnOf e.gset e.headA (r.cross.toInt * 65536), x := x, y := y, pos := r.pos }
          :: s.riddle.target }
    | none => s

/-- A held entry's result is released into staging with its SEQ (R219, R257). (DEDUCED, log 57) -/
def State.release (s : State) (i : Nat) (e : Entry) : State :=
  let r := if e.done = 3 then (({} : ReadRes), s) else s.slotRes i
  let s := r.2.noteTarget e r.1
  let pay := if e.done = 1 then r.1.payload else []
  let st : Staged := { seq := s.res.nextSeq, ashlar := ashlarBytes e r.1 s.res.nextSeq (s.posUncertain e), payload := pay,
                       time := e.edgeTime }
  ((s.setRes { s.res with staging := s.res.staging ++ [st], nextSeq := s.res.nextSeq + 1 }).dropEnt i).raiseFull

/-- An entry's deadline has passed (R209). -/
def State.expired (s : State) (e : Entry) : Bool := decide (e.deadline ≤ s.tm)

/-- A held entry released if its slabs have closed or its deadline has passed, while staging has room (R209, R219,
R258). -/
def State.tryRelease (s : State) (i : Nat) : State :=
  match s.ent i with
  | some e =>
    if e.st == .held && (s.slabsClosed e || s.expired e) && decide (s.res.staging.length < stagingMax) then s.release i e
    else s
  | none => s

/-- `RESULT_RELEASE` (R219). -/
def execResultRelease (entry : BitVec 12) (s : State) : Out :=
  if s.on 4 then .next (s.tryRelease entry.toNat) else .next s

/-- A write of ENTRY and RESULT to RIDDLE.DONE (R219): valid for an entry in DECODE. The patch slot is free again and
the entry completes. -/
def State.riddleDone (s : State) (i result : Nat) : State :=
  if result = 0 || result = 3 then s.setFlag Adr.riddleStatus 0 true
  else
    match s.ent i with
    | some e => if e.st == .decode then s.complete i result else s
    | none => s

/-- A write of the register RIDDLE.DONE. (DEDUCED, log 63) -/
def State.writeDone (s : State) (w : Word) : State := s.riddleDone (bits w.toNat 11 0) (bits w.toNat 13 12)

/-- `RIDDLE_DONE_WRITE` (R219). -/
def execRiddleDoneWrite (ag : Agent) (entry : BitVec 12) (result : BitVec 2) (s : State) : Out :=
  let w : Word := BitVec.ofNat 20 (entry.toNat + 4096 * result.toNat)
  s.guardWrite ag Adr.riddleDone w (fun _ s => .next (s.writeDone w))

/-! ### Geometry commits (R196) -/

/-- An entry still refers to the older geometry set. -/
def State.geoHeld (s : State) : Bool := s.entries.any (fun p => p.2.gset != s.riddle.gset)

/-- The shadows become the new geometry set. -/
def State.applyGeo (s : State) : State :=
  let n : GeoSet := { regs := geoRegs.foldl (fun m a => SMap.set RegMap.reset m a (s.reg a)) [] }
  let r := s.riddle
  s.setRiddle (if r.gset then { r with geo0 := n, gset := false, gpend := false }
    else { r with geo1 := n, gset := true, gpend := false })

/-- A write of RIDDLE.GCOMMIT. -/
def State.writeGcommit (s : State) (w : Word) : State :=
  if !w.toNat.testBit 0 then s
  else if s.riddle.gpend then s.setFlag Adr.riddleStatus 0 true
  else if s.geoHeld then s.setRiddle { s.riddle with gpend := true }
  else s.applyGeo

/-- `GEOMETRY_COMMIT` (R196). -/
def execGeometryCommit (ag : Agent) (s : State) : Out :=
  s.guardWrite ag Adr.riddleGcommitCommit 1 (fun _ s => .next (s.writeGcommit 1))

/-- `HELD_COMMIT_APPLY` (R196). -/
def execHeldCommitApply (s : State) : Out :=
  if s.riddle.gpend && !s.geoHeld then .next s.applyGeo else .next s

/-! ### Benches (R220) -/

/-- The number of outstanding tickets of a bench: its occupied ticket-queue entries (R271). -/
def State.tqOccupied (s : State) (b : Nat) : Nat :=
  ((List.range 16).filter (fun i => (SMap.get (fun _ => ({} : TqEnt)) (s.bench b).tq i).st != .free)).length

/-- The tickets of a bench are withdrawn: their entries are free at once, taken or not (R220, R271).
(DEDUCED, log 61) -/
def State.withdraw (s : State) (b : Nat) : State :=
  let k := s.bench b
  s.setBench b { k with
    tq := (List.range 16).foldl (fun m i =>
      if (SMap.get (fun _ => ({} : TqEnt)) m i).st == .free then m
      else SMap.set (fun _ => ({} : TqEnt)) m i { stale := true }) k.tq, order := [] }

/-- A bench leaves RIDDLE.BENCHES (R220). -/
def State.benchLeaves (s : State) (b : Nat) : State :=
  let s := s.withdraw b
  s.entries.foldl (fun s p =>
    if p.2.st == .decode && p.2.bench == b then
      (s.setEnt p.1 (some { p.2 with st := .ready, used := [] })).incr Adr.riddleRedo
    else s) s

/-- A write of RIDDLE.BENCHES. -/
def State.writeBenches (s : State) (hit : Hit) (w : Word) : State :=
  let old := s.reg Adr.riddleBenches
  let s := s.store hit Adr.riddleBenches w
  upTo 8 (fun b s => if old.toNat.testBit b && !(s.reg Adr.riddleBenches).toNat.testBit b then s.benchLeaves b else s) s

/-- `BENCHES_WRITE` (R220). -/
def execBenchesWrite (ag : Agent) (v : BitVec 8) (s : State) : Out :=
  s.guardWrite ag Adr.riddleBenches (v.setWidth 20) (fun hit s => .next (s.writeBenches hit (v.setWidth 20)))

end Sys2Proof.Machine
end

