-- ==== Sys2Proof/Machine/Kerf.lean ====
section
/-!
DEFINITION. Dispatch and the Kerfs (R210 to R218): which entry and bench, the patch, its pixels, its ticket.
-/
namespace Sys2Proof.Machine

/-! ### Dispatch (R210, R211) -/

/-- The heads an entry uses. -/
def Entry.heads (e : Entry) : List Nat := if e.xjoin then [e.headA, e.headB] else [e.headA]

/-- The planes a cut needs (R214). -/
def Entry.cutPlanes (e : Entry) : List Nat := if e.mode = 0 then [e.planeA] else [e.planeA, e.planeB]

/-- The stockpiles a cut reads: head and plane. -/
def Entry.stocks (e : Entry) : List (Nat × Nat) := e.heads.flatMap (fun h => e.cutPlanes.map (fun p => (h, p)))

/-- A READY entry is dispatchable (R210). -/
def State.dispatchable (s : State) (e : Entry) : Bool :=
  e.st == .ready && e.stocks.all (fun u =>
    s.stockEn u.1 u.2 && (s.stock (4 * u.1 + u.2)).any
      && decide (0 ≤ posDiff (s.stockPos u.1 u.2 (s.stock (4 * u.1 + u.2)).newest)
          (e.box.trailing (s.geoUpc e.gset e.chan))))

/-- COUNT and SIZE of a bench's patch area. -/
def State.pslotCount (s : State) (b : Nat) : Nat := s.fld (Adr.riddlePslot b) 15 10
/-- SIZE, in words. -/
def State.pslotWords (s : State) (b : Nat) : Nat := s.fld (Adr.riddlePslot b) 9 0 * 1024

/-- The lowest free patch slot of a bench: one that no entry in CUT or DECODE holds. -/
def State.freeSlot (s : State) (b : Nat) : Option Nat :=
  (List.range (s.pslotCount b)).find? (fun i =>
    !s.entries.any (fun p => (p.2.st == .cut || p.2.st == .decode) && p.2.bench == b && p.2.slot == i))

/-- Ticket-queue entries of a bench that are occupied or that cuts in progress will occupy: by this count the queue never
overflows (R210, R271). (DEDUCED, log 58) -/
def State.outstanding (s : State) (b : Nat) : Nat :=
  s.tqOccupied b + (s.entries.filter (fun p => p.2.st == .cut && p.2.bench == b)).length

/-- A bench is available to an entry (R210). -/
def State.benchFree (s : State) (e : Entry) (b : Nat) : Bool :=
  (s.reg Adr.riddleBenches).toNat.testBit b && (s.fld (Adr.riddleClsCut (clsIdx e.cls)) 8 1).testBit b
    && (s.freeSlot b).isSome && decide (s.outstanding b < 16)

/-- The bench of a list with the fewest outstanding tickets, the first in the list on a tie. -/
def State.fewest (s : State) : List Nat → Option Nat
  | [] => none
  | b :: l => match s.fewest l with
    | some c => some (if s.tqOccupied c < s.tqOccupied b then c else b)
    | none => some b

/-- The bench chosen for an entry (R210). -/
def State.chooseBench (s : State) (e : Entry) : Option Nat :=
  s.fewest (((List.range 8).map (fun i => (s.riddle.lastBench + 1 + i) % 8)).filter (s.benchFree e))

/-- A quotient rounded up. -/
def cdiv (n d : Nat) : Nat := (n + d - 1) / d

/-- The base pitch of an entry in 2^-10 µm (R211). -/
def State.basePitch (s : State) (e : Entry) : Nat :=
  let c := s.columnOf e.gset e.headA e.box.xc
  cdiv (s.geoA1 e.gset e.headA * 2 ^ 24 + 2 * s.geoA2 e.gset e.headA * c).natAbs (2 ^ 30)

/-- WIDTH and HEIGHT at an output pitch in 2^-10 µm (R211). -/
def patchSize (b : WebBox) (q : Nat) : Nat × Nat := (max 1 (cdiv b.eu (64 * q)), max 1 (cdiv b.ev (64 * q)))

/-- A patch fits a slot. -/
def fits (words : Nat) (z : Nat × Nat) : Bool :=
  decide (z.1 ≤ 1024) && decide (z.2 ≤ 1024) && decide ((z.1 + 1) / 2 * z.2 ≤ words)

/-- The least pitch above `lo` and up to `lo + 2^n` at which a patch fits, if it fits at `lo + 2^n`. -/
def leastPitch (b : WebBox) (words : Nat) : Nat → Nat → Nat
  | 0, lo => lo + 1
  | n + 1, lo => if fits words (patchSize b (lo + 2 ^ n)) then leastPitch b words n lo else leastPitch b words n (lo + 2 ^ n)

/-- The largest patch within a size that fits (R211 step 4), the wider of two of one area. -/
def clipSize (words : Nat) (z : Nat × Nat) : Nat × Nat :=
  (List.range (min z.1 1024)).foldl (fun best i =>
    let w := i + 1
    let h := min (min z.2 1024) (words / ((w + 1) / 2))
    if best.1 * best.2 ≤ w * h then (w, h) else best) (0, 0)

/-- Output pitch, WIDTH, HEIGHT and whether the patch is clipped (R211). -/
def patchPlan (b : WebBox) (base scale words : Nat) : Nat × (Nat × Nat) × Bool :=
  let q := max 1 (cdiv (base * 256) scale)
  let top := max 1 (4 * base)
  if fits words (patchSize b q) then (q, patchSize b q, false)
  else if fits words (patchSize b top) then
    let r := leastPitch b words 20 q
    let r := min r top
    (r, patchSize b r, false)
  else (top, clipSize words (patchSize b top), true)

/-- The first entry in rank for which a bench is available (R210). -/
def State.pickEntry (s : State) : Nat → List (Nat × Entry) → Option (Nat × Entry × Nat)
  | 0, _ => none
  | fuel + 1, l =>
    match firstBy Entry.before l with
    | none => none
    | some (i, e) =>
      match s.chooseBench e with
      | some b => some (i, e, b)
      | none => s.pickEntry fuel (l.filter (fun p => p.1 != i))

/-- The lowest-numbered idle Kerf with EN set. -/
def State.idleKerf (s : State) : Option Nat :=
  (List.range 8).find? (fun k => s.flag (Adr.kerfCtrlEn k) 0 && !s.outOfService (0x20 + k) && (s.kerf k).job.isNone)

/-- `DISPATCH` (R210, R211): an idle Kerf takes the highest-ranked dispatchable entry for which a bench is available. -/
def execDispatch (s : State) : Out :=
  match s.idleKerf with
  | none => .next s
  | some k =>
    let l := s.entries.filter (fun p => s.dispatchable p.2)
    match s.pickEntry l.length l with
    | none => .next s
    | some (i, e, b) =>
      let c := clsIdx e.cls
      let p := patchPlan e.box (s.basePitch e) (s.fld (Adr.riddleClsScale c) 10 0) (s.pslotWords b)
      let e := { e with st := .cut, bench := b, slot := (s.freeSlot b).getD 0, q := p.1, wid := p.2.1.1, hgt := p.2.1.2,
                        clipped := p.2.2, part := false, late := false, cubic := s.flag (Adr.riddleClsCut c) 0 }
      let s := s.setEnt i (some e)
      let s := s.setRiddle { s.riddle with lastBench := b }
      let s := if p.2.2 then s.incr Adr.riddleClipped else s
      .next (s.setKerf k { s.kerf k with
        began := s.time, job := some (i, e.stocks.map (fun u => (4 * u.1 + u.2, (s.stock (4 * u.1 + u.2)).newest))) })

/-! ### Pixels (R212 to R215) -/

/-- xsplit, in µm (R212). -/
def State.xsplit (s : State) (e : Entry) : Int :=
  let ends := fun (h : Nat) =>
    let w := (s.stock (4 * h + e.planeA)).w
    let a := ridiv (s.crossAt e.gset h 0) 65536
    let b := ridiv (s.crossAt e.gset h (16 * ((w : Int) - 1))) 65536
    (min a b, max a b)
  ((ends e.headB).1 + (ends e.headA).2).fdiv 2

/-- A column in 2^-8 pixels lies on a head's line. -/
def State.onLine (s : State) (e : Entry) (h : Nat) (c : Int) : Bool :=
  decide (0 ≤ c) && decide (c ≤ 256 * (((s.stock (4 * h + e.planeA)).w : Int) - 1))

/-- The head and column, in 2^-8 pixels, of a cross-web position (R212). -/
def State.pickColumn (s : State) (e : Entry) (x : Int) : Option (Nat × Int) :=
  let h := if e.xjoin && decide (s.xsplit e * 65536 ≤ x) then e.headB else e.headA
  let c := s.columnOf e.gset h x
  if s.onLine e h c then some (h, c)
  else if e.xjoin then
    let h := if h = e.headA then e.headB else e.headA
    let c := s.columnOf e.gset h x
    if s.onLine e h c then some (h, c) else none
  else none

/-- The line and its fraction in 2^-8 lines at an along-web position (R212); 256 is the next line. -/
def State.lineOf (s : State) (h p : Nat) (y : BitVec 64) : Option (BitVec 32 × Nat) :=
  match s.findLines h p y (s.stockDepth h p) (s.stock (4 * h + p)).newest with
  | none => none
  | some i =>
    let a := s.stockPos h p i
    let b := s.stockPos h p (i + 1)
    let pitch := s.planePitch h p
    if 8 * (pitch : Int) < posDiff b a then none
    else
      let f16 : Int :=
        if s.stockSnap h p (i + 1) then
          if posDiff y a ≤ posDiff b y then min (ridiv (posDiff y a * 65536) pitch) 32768
          else 65536 - min (ridiv (posDiff b y * 65536) pitch) 32768
        else sdiv (posDiff y a * 65536) (posDiff b a)
      let f := ridiv f16 256
      if f ≥ 256 then some (i + 1, 0) else some (i, f.toNat)

/-- The resident line nearest to line l + a among taps `offs`; the lower of two (R213). -/
def State.tapLine (s : State) (h p : Nat) (l : BitVec 32) (offs : List Int) (a : Int) : BitVec 32 :=
  let ok := offs.filter (fun o => s.resident h p (l + BitVec.ofInt 32 o))
  let best := ok.foldl (fun (r : Option Int) o =>
    match r with
    | none => some o
    | some q => some (if (o - a).natAbs < (q - a).natAbs then o else q)) none
  l + BitVec.ofInt 32 (best.getD 0)

/-- The Catmull–Rom weight of tap offset `o` at fraction f / 256, in 2^-12 (R213). -/
def cubicWeight (f : Nat) (o : Int) : Int :=
  let t : Int := f
  let n : Int :=
    if o = -1 then -t ^ 3 + 512 * t ^ 2 - 65536 * t
    else if o = 0 then 3 * t ^ 3 - 1280 * t ^ 2 + 2 * 2 ^ 24
    else if o = 1 then -3 * t ^ 3 + 1024 * t ^ 2 + 65536 * t
    else t ^ 3 - 256 * t ^ 2
  ridiv n 8192

/-- The tap weights of a fraction: offsets and weights. -/
def tapWeights (cubic : Bool) (f : Nat) : List (Int × Int) :=
  if cubic then [-1, 0, 1, 2].map (fun o => (o, cubicWeight f o)) else [(0, 256 - f), (1, f)]

/-- A tapped pixel: line l with fraction fy, column c in 2^-8 pixels; its value and the lines it used (R213). -/
def State.tapPixel (s : State) (cubic : Bool) (h p : Nat) (l : BitVec 32) (fy : Nat) (c : Int) : Nat × List (BitVec 32) :=
  let col := c.fdiv 256
  let wx := tapWeights cubic (c % 256).toNat
  let wy := tapWeights cubic fy
  let rows := wy.map (fun w => (s.tapLine h p l (wy.map Prod.fst) w.1, w.2))
  let sum := (rows.map (fun r => (wx.map (fun w => w.2 * r.2 * (s.stockPix h p r.1 (col + w.1) : Int))).sum)).sum
  let v := if cubic then clampN ((sum + 2 ^ 23).fdiv (2 ^ 24)) 255 else ((sum + 32768).fdiv 65536).toNat
  (v, rows.map Prod.fst)

/-- What a cut has gathered: LNUM ranges by head and plane, flags, a missing pixel, a tap that another line stood in for. -/
structure CutAcc where
  used : List (Nat × Nat × BitVec 32 × BitVec 32) := []
  fl : LFlags := {}
  missing : Bool := false
  stood : Bool := false
  /-- run lengths of the pixels' suppliers, newest first -/
  src : List (Nat × Nat) := []
deriving DecidableEq, Repr

/-- The supplier of one more pixel noted: 4h + p, 64 for none (R243). -/
def CutAcc.from_ (a : CutAcc) (k : Nat) : CutAcc :=
  { a with src := match a.src with
      | (n, j) :: l => if j = k then (n + 1, j) :: l else (1, k) :: a.src
      | [] => [(1, k)] }

/-- A line used. -/
def State.useLine (s : State) (h p : Nat) (a : CutAcc) (n : BitVec 32) : CutAcc :=
  let known := a.used.find? (fun u => u.1 == h && u.2.1 == p)
  match known with
  | some (_, _, lo, hi) =>
    let lo := if diff32 n lo < 0 then n else lo
    let hi := if 0 < diff32 n hi then n else hi
    { a with used := (h, p, lo, hi) :: a.used.filter (fun u => !(u.1 == h && u.2.1 == p)),
             fl := a.fl.join (s.stockFlags h p n) }
  | none => { a with used := (h, p, n, n) :: a.used, fl := a.fl.join (s.stockFlags h p n) }

/-- Output pixel (i, j) of a cut (R212 to R215), with the plane that supplied it: of two planes of equal value PLANE_A. -/
def State.cutPixel (s : State) (e : Entry) (fill : Nat) (i j : Nat) (acc : CutAcc) : Nat × CutAcc :=
  let du := (2 * (i : Int) - ((e.wid : Int) - 1)) * e.q * 32
  let dv := (2 * (j : Int) - ((e.hgt : Int) - 1)) * e.q * 32
  let x := e.box.xc + turnX du dv e.box.phi
  let y := posAdd e.box.yc (toCounts (s.geoUpc e.gset e.chan) (turnY du dv e.box.phi))
  let none_ := (fill, { acc with missing := true }.from_ 64)
  match s.pickColumn e x with
  | none => none_
  | some (h, c) =>
    let one := fun (p : Nat) (acc : CutAcc) =>
      match s.lineOf h p y with
      | none => (none, acc)
      | some (l, fy) =>
        let t := s.tapPixel e.cubic h p l fy c
        let offs := (tapWeights e.cubic fy).map Prod.fst
        let acc := { acc with stood := acc.stood || offs.any (fun o => !s.resident h p (l + BitVec.ofInt 32 o)) }
        (some t.1, t.2.foldl (s.useLine h p) acc)
    let a := one e.planeA acc
    if e.mode = 0 then
      match a.1 with
      | some v => (v, a.2.from_ (4 * h + e.planeA))
      | none => none_
    else
      let b := one e.planeB a.2
      match a.1, b.1 with
      | some v, some w =>
        let second := if e.mode = 1 then decide (v < w) else decide (w < v)
        (if second then w else v, b.2.from_ (4 * h + if second then e.planeB else e.planeA))
      | _, _ => none_

/-- A patch row of pixels. -/
def State.cutRow (s : State) (e : Entry) (fill j : Nat) : Nat → Nat → CutAcc → List Nat × CutAcc
  | 0, _, acc => ([], acc)
  | n + 1, i, acc =>
    let p := s.cutPixel e fill i j acc
    let r := s.cutRow e fill j n (i + 1) p.2
    (p.1 :: r.1, r.2)

/-- Pixels packed two to a word (R217). -/
def packPixels : List Nat → List Word
  | [] => []
  | [a] => [BitVec.ofNat 20 a]
  | a :: b :: l => BitVec.ofNat 20 (a + 1024 * b) :: packPixels l

/-- The words of a patch, row by row (R217). -/
def State.cutPatch (s : State) (e : Entry) (fill : Nat) : Nat → Nat → CutAcc → List Word × CutAcc
  | 0, _, acc => ([], acc)
  | n + 1, j, acc =>
    let r := s.cutRow e fill j e.wid 0 acc
    let q := s.cutPatch e fill n (j + 1) r.2
    (packPixels r.1 ++ q.1, q.2)

/-! ### Tickets (R217, R218, R271) -/

/-- The first word of an entry's patch slot (R217). -/
def State.slotAddr (s : State) (e : Entry) : Nat := (s.reg (Adr.riddleParea e.bench)).toNat + e.slot * s.pslotWords e.bench

/-- A 20-bit field of a wider number as a ticket word. -/
def word20 (n : Nat) (i : Nat) : Word := BitVec.ofNat 20 (n / 2 ^ (20 * i))
/-- A 16-bit part of a number as a ticket word. -/
def word16 (n : Nat) (i : Nat) : Word := BitVec.ofNat 20 (n / 2 ^ (16 * i) % 65536)

/-- The ticket of an entry (R218); its last word is 0. -/
def State.ticket (s : State) (i : Nat) (e : Entry) : List Word :=
  let x := (BitVec.ofInt 24 e.crossUm).toNat
  [BitVec.ofNat 20 (i + 4096), BitVec.ofNat 20 (e.cls + 8 * e.flags + 16384 * e.mode + 65536 * b2n e.cubic),
   BitVec.ofNat 20 (s.slotAddr e), BitVec.ofNat 20 (e.wid - 1 + 1024 * (e.hgt - 1)), BitVec.ofNat 20 e.q,
   BitVec.ofNat 20 e.box.phi, word16 e.counts.toNat 0, word16 e.counts.toNat 1, word16 e.counts.toNat 2,
   BitVec.ofNat 20 (x % 65536), BitVec.ofNat 20 (x / 65536 + 256 * e.chan),
   BitVec.ofNat 20 (e.headA + 16 * e.headB + 256 * e.planes + 4096 * e.score), BitVec.ofNat 20 e.ntiles,
   word20 e.deadline.toNat 0, word20 e.deadline.toNat 1, word20 e.deadline.toNat 2,
   word20 e.edgeTime.toNat 0, word20 e.edgeTime.toNat 1, word20 e.edgeTime.toNat 2, 0]

/-- A ticket put into the lowest free entry of a bench's queue (R271). -/
def State.postTicket (s : State) (b : Nat) (ws : List Word) : State :=
  let k := s.bench b
  match (List.range 16).find? (fun i => (SMap.get (fun _ => ({} : TqEnt)) k.tq i).st == .free) with
  | none => s
  | some i =>
    if !s.on (benchPd b) then s
    else
      s.setBench b { k with tq := SMap.set (fun _ => ({} : TqEnt)) k.tq i { st := .waiting, words := ws },
                            order := k.order ++ [i] }

/-- A stockpile that a cut reads took lines after the cut began. -/
def State.movedOn (s : State) (l : List (Nat × BitVec 32)) : Bool := l.any (fun p => (s.stock p.1).newest != p.2)

/-- Output pixels counted in units of 4,096 (R221). -/
def State.countPix (s : State) (k n : Nat) : State :=
  let t := (s.kerf k).rem + n
  (s.addCnt (Adr.kerfPix k) (t / 4096)).setKerf k { s.kerf k with rem := t % 4096 }

/-- The end of a cut: the patch in shared memory, then the ticket (R215, R217, R218). Where a tap line is not resident
and its stockpile took lines while the Kerf cut, that line may have failed its check after its pixels were read: LATE is a
free value then. (DEDUCED, log 60) -/
def State.finishCut (s : State) (k i : Nat) (e : Entry) (start : List (Nat × BitVec 32)) : State :=
  let p := s.cutPatch e (s.fld (Adr.kerfFill k) 7 0) e.hgt 0 {}
  let late := (p.2.missing || p.2.stood) && s.movedOn start
  let d := s.draw
  let s := if late then d.2 else s
  let e := { e with st := .decode, part := p.2.missing, late := late && d.1 % 2 == 1, used := p.2.used, src := p.2.src.reverse,
                    fl := e.fl.join p.2.fl }
  let s := (s.putShared e.bench (s.slotAddr e) p.1).countPix k (e.wid * e.hgt)
  let s := if e.part then s.incr (Adr.kerfPartial k) else s
  let s := if e.late then s.incr (Adr.kerfLate k) else s
  (s.setEnt i (some e)).postTicket e.bench (s.ticket i e)

/-- Rows that a cut has written when it stops (R209, R216): the Kerf writes 1 Gpix/s, half of that bicubically and half of
that again from two planes, and finishes the row it is in. (DEDUCED, log 146) -/
def State.rowsCut (s : State) (k : Nat) (e : Entry) : Nat :=
  let ns := s.since (s.kerf k).began * 1000 / usT
  let px := ns / ((if e.cubic then 2 else 1) * (if e.mode = 0 then 1 else 2))
  min e.hgt (px / e.wid + 1)

/-- A Kerf stops the cut of an entry after its current output row (R209, R216). -/
def State.stopCut (s : State) (i : Nat) (e : Entry) : State :=
  upTo 8 (fun k s =>
    if (s.kerf k).job.any (fun j => j.1 == i) then
      let rows := s.rowsCut k e
      let p := s.cutPatch e (s.fld (Adr.kerfFill k) 7 0) rows 0 {}
      let s := (s.putShared e.bench (s.slotAddr e) p.1).countPix k (e.wid * rows)
      (s.setKerf k { s.kerf k with job := none }).incr (Adr.kerfAbort k)
    else s) s

/-- `DEADLINE_EXPIRY` (R209). -/
def execDeadlineExpiry (entry : BitVec 12) (s : State) : Out :=
  let i := entry.toNat
  match s.ent i with
  | none => .next s
  | some e =>
    if !s.expired e then .next s
    else
      match e.st with
      | .pending | .ready => .next (((s.incr Adr.riddleExpired).complete i 3).tryRelease i)
      | .shadow => .next (s.dropEnt i)
      | .cut => .next ((((s.stopCut i e).incr Adr.riddleExpired).complete i 3).tryRelease i)
      | .decode => .next s
      | .held => .next (s.tryRelease i)

/-- `KERF_CUT_DONE` (R215 to R218). A cut whose bench has left RIDDLE.BENCHES posts no ticket; its entry is READY
again (R220). -/
def execKerfCutDone (k : Fin 8) (s : State) : Out :=
  match (s.kerf k.val).job with
  | none => .next s
  | some (i, start) =>
    let s := s.setKerf k.val { s.kerf k.val with job := none }
    match s.ent i with
    | none => .next s
    | some e =>
      if (s.reg Adr.riddleBenches).toNat.testBit e.bench then .next (s.finishCut k.val i e start)
      else .next ((s.setEnt i (some { e with st := .ready })).incr Adr.riddleRedo)

end Sys2Proof.Machine
end

