-- ==== Sys2Proof/Machine/Mbx.lean ====
section
/-!
DEFINITION. Mailboxes and wedges (R333 to R346).
-/
namespace Sys2Proof.Machine

/-! ### Ends (R333, R334, R339) -/

/-- The power domain of a box (R333). -/
def boxPd (n : Nat) : Nat := if n < 64 then benchPd (n / 8) else if n < 72 then benchPd (n - 64) else 1

/-- The bench of a hewer box or bench box. -/
def boxBench (n : Nat) : Nat := if n < 64 then n / 8 else n - 64

/-- An agent may act at an end (R334). -/
def State.boxOpen (s : State) (ag : Agent) (n : Nat) (far : Bool) : Bool :=
  s.on (boxPd n) &&
    match ag with
    | .foreman => far
    | .host => if far then decide (n < 72) && (s.bench (boxBench n)).leased else decide (72 ≤ n)
    | .hewer b h => !far && (n == 8 * b.val + h.val || n == 64 + b.val)

/-- The owner number an agent has at an end (R334, R342, R344). -/
def ownerNo (ag : Agent) (far : Bool) (als : Nat) : Nat :=
  match ag with
  | .hewer b h => 8 * b.val + h.val + 1
  | .foreman => 65
  | .host => if far then 65 else 96 + als

/-- One end of a box. -/
def Mbx.side (x : Mbx) (far : Bool) : BoxEnd := if far then x.far else x.near

/-- A box with one end replaced. -/
def Mbx.put (x : Mbx) (far : Bool) (e : BoxEnd) : Mbx := if far then { x with far := e } else { x with near := e }

/-- The words that wait for an end: its incoming queue. -/
def Mbx.incoming (x : Mbx) (far : Bool) : List (Word × Bool) := (x.side (!far)).out

/-! ### Queues (R335, R336) -/

/-- A push at an end (R335). -/
def Mbx.push (x : Mbx) (far : Bool) (w : Word) (last : Bool) : Mbx :=
  let e := x.side far
  if 8 ≤ e.out.length then x.put far { e with txovf := true } else x.put far { e with out := e.out ++ [(w, last)] }

/-- A read of RX at an end (R336). -/
def Mbx.pop (x : Mbx) (far : Bool) : Word × Mbx :=
  match x.incoming far with
  | [] => (0, x.put far { x.side far with rxund := true })
  | (w, _) :: q => (w, x.put (!far) { x.side (!far) with out := q })

/-- STAT of an end (R346). -/
def Mbx.stat (x : Mbx) (far : Bool) : Word :=
  let q := x.incoming far
  let e := x.side far
  let pos := match q.findIdx? (fun p => p.2) with
    | some i => i + 1
    | none => 0
  BitVec.ofNat 20 (q.length + 16 * (8 - e.out.length) + 256 * pos + 4096 * b2n e.rxund + 8192 * b2n e.txovf)

/-- A write of STAT: 1 clears TXOVF, RXUND (R346). -/
def Mbx.clearStat (x : Mbx) (far : Bool) (w : Word) : Mbx :=
  let e := x.side far
  x.put far { e with txovf := e.txovf && !w.toNat.testBit 13, rxund := e.rxund && !w.toNat.testBit 12 }

/-! ### Wedges (R342, R343) -/

/-- A read of a wedge: the owner before it, and the box after it. -/
def Mbx.claim (x : Mbx) (me : Nat) : Nat × Mbx := if x.wedge = 0 then (0, { x with wedge := me }) else (x.wedge, x)

/-- A write to a wedge. -/
def Mbx.unlock (x : Mbx) (me : Nat) (w : Word) : Mbx := if w = 0 && x.wedge == me then { x with wedge := 0 } else x

/-- A write of CTRL (R346). -/
def Mbx.control (x : Mbx) (w : Word) : Mbx :=
  let x := if w.toNat.testBit 0 then { x with near := { x.near with out := [] }, far := { x.far with out := [] } } else x
  if w.toNat.testBit 1 then { x with wedge := 0 } else x

/-! ### Accesses at an end -/

/-- What an access at a word offset of an end's window returns, and the box after it: TX, TXL, RX, STAT, WEDGE, CTRL and
the aliases (R346). -/
def Mbx.access (x : Mbx) (ag : Agent) (n : Nat) (far : Bool) (off : Nat) (wr : Option Word) : Word × Mbx :=
  let host := decide (72 ≤ n) && !far
  let al := (off - 0x20) % 32
  let wedge := (!host && off == 4) || (host && decide (0x20 ≤ off) && decide (off < 0x40))
  match wr with
  | some w =>
    if off = 0 then (0, x.push far w false)
    else if off = 1 then (0, x.push far w true)
    else if off = 3 then (0, x.clearStat far w)
    else if wedge then (0, x.unlock (ownerNo ag far al) w)
    else if off = 5 && far then (0, x.control w)
    else (0, x)
  | none =>
    if off = 2 then x.pop far
    else if off = 3 then (x.stat far, x)
    else if wedge then
      let r := x.claim (ownerNo ag far al)
      (BitVec.ofNat 20 r.1, r.2)
    else (0, x)

/-- An access by an agent at an end: a read returns 0 and a write is ignored where the end is not the agent's (R334). -/
def State.boxAccess (s : State) (ag : Agent) (n : Nat) (far : Bool) (off : Nat) (wr : Option Word) : Word × State :=
  if s.boxOpen ag n far then
    let r := (s.box n).access ag n far off wr
    (r.1, s.setBox n r.2)
  else (0, s)

/-- `MBX_TX` (R335). -/
def execMbxTx (ag : Agent) (box : Fin 80) (far : Bool) (v : Word) (s : State) : Out :=
  .next (s.boxAccess ag box far 0 (some v)).2

/-- `MBX_TXL` (R335). -/
def execMbxTxl (ag : Agent) (box : Fin 80) (far : Bool) (v : Word) (s : State) : Out :=
  .next (s.boxAccess ag box far 1 (some v)).2

/-- `MBX_RX` (R336). -/
def execMbxRx (ag : Agent) (box : Fin 80) (far : Bool) (s : State) : Out :=
  let r := s.boxAccess ag box far 2 none
  .next (r.2.retW ag r.1)

/-- The word offset of a wedge: one of the 32 registers at a host box's near end (R344). -/
def wedgeOff (box : Nat) (far : Bool) (als : Nat) : Nat := if decide (72 ≤ box) && !far then 0x20 + als else 4

/-- `WEDGE_CLAIM` (R342). -/
def execWedgeClaim (ag : Agent) (box : Fin 80) (far : Bool) (als : Fin 32) (s : State) : Out :=
  let r := s.boxAccess ag box far (wedgeOff box far als) none
  .next (r.2.retW ag r.1)

/-- `WEDGE_RELEASE` (R343). -/
def execWedgeRelease (ag : Agent) (box : Fin 80) (far : Bool) (als : Fin 32) (v : Word) (s : State) : Out :=
  .next (s.boxAccess ag box far (wedgeOff box far als) (some v)).2

/-- `MBX_FLUSH` (R346): at the far end. -/
def execMbxFlush (ag : Agent) (box : Fin 80) (s : State) : Out := .next (s.boxAccess ag box true 5 (some 1)).2

/-- `MBX_FORCE` (R343): at the far end. -/
def execMbxForce (ag : Agent) (box : Fin 80) (s : State) : Out := .next (s.boxAccess ag box true 5 (some 2)).2

/-- Both queues of a box emptied and its wedge freed (R339). -/
def State.clearBox (s : State) (n : Nat) : State := s.setBox n ((s.box n).control 3)

end Sys2Proof.Machine
end

