-- ==== Sys2Proof/Machine/Bench.lean ====
section
/-!
DEFINITION. The benches: ticket queue, DMA engine, completion port, and the registers that a hewer and the fabric both
reach (R263 to R281).
-/
namespace Sys2Proof.Machine

/-- An outcome's next state goes on; a fault or a refusal ends. -/
def Out.andThen (o : Out) (f : State → Out) : Out :=
  match o with
  | .next s => f s
  | .fault e => .fault e
  | .refused r => .refused r

/-! ### Ticket queue (R271 to R274) -/

/-- An entry of a bench's ticket queue. -/
def State.tqEnt (s : State) (b i : Nat) : TqEnt := SMap.get (fun _ => ({} : TqEnt)) (s.bench b).tq i

/-- The state with an entry of a bench's ticket queue replaced. -/
def State.setTqEnt (s : State) (b i : Nat) (e : TqEnt) : State :=
  s.setBench b { s.bench b with tq := SMap.set (fun _ => ({} : TqEnt)) (s.bench b).tq i e }

/-- An agent may take tickets of a bench: its hewers and the foreman (R272). -/
def takesFrom (ag : Agent) (b : Nat) : Bool :=
  match ag with
  | .foreman => true
  | .hewer c _ => c.val == b
  | .host => false

/-- The hewer that holds a ticket is noted in its Riddle entry (R251). -/
def State.noteHewer (s : State) (ag : Agent) (ws : List Word) : State :=
  let i := (ws.getD 0 0).toNat % 4096
  match ag, s.ent i with
  | .hewer b h, some e => if e.st == .decode && e.bench == b.val then s.setEnt i (some { e with hewer := 8 * b.val + h.val }) else s
  | _, _ => s

/-- A read of TQ.TAKE (R272). -/
def State.tqTake (s : State) (ag : Agent) (b : Nat) : Word × State :=
  if !takesFrom ag b then (0, s)
  else
    match (s.bench b).order with
    | [] => (0, s)
    | i :: q =>
      let e := s.tqEnt b i
      let s := (s.setTqEnt b i { e with st := .taken }).noteHewer ag e.words
      (BitVec.ofNat 20 (16 + i), s.setBench b { s.bench b with order := q })

/-- A write of TQ.FREE (R273). (DEDUCED, log 64) -/
def State.tqFree (s : State) (b : Nat) (w : Word) : State :=
  let i := bits w.toNat 3 0
  if !w.toNat.testBit 4 then s
  else if (s.tqEnt b i).st == .taken then s.setTqEnt b i { stale := true }
  else s.setFlag (Adr.benchTqStatusCfgerr b) 0 true

/-- A read of word w of an entry: free values once it was freed (R273). -/
def State.tqWord (s : State) (b i w : Nat) : Word × State :=
  let e := s.tqEnt b i
  if e.stale then let d := s.draw; (BitVec.ofNat 20 d.1, d.2) else (e.words.getD w 0, s)

/-- TQ.LEVEL (R274). -/
def State.tqLevel (s : State) (b : Nat) : Word := BitVec.ofNat 20 ((s.bench b).order.length + 32 * s.tqOccupied b)

/-! ### DMA (R275 to R278) -/

/-- The size of a local space, and the address of its first entry: shared memory, own data, instructions. -/
def spaceEnd (space : Nat) : Nat × Nat :=
  if space = 0 then (0x80000, 0x100000) else if space = 1 then (0, 0x20000) else (0, 0x8000)

/-- DRAM bytes per unit (R275). -/
def unitBytes (space pack : Nat) : Nat := if space = 2 then 8 else 2 ^ pack

/-- The bench's hewers run the symbology firmware: the bench is powered, in service and not leased, and no restart of it is
under way (R287 to R289, R408, R426). (DEDUCED, log 134) -/
def State.fwRuns (s : State) (b : Nat) : Bool :=
  s.inRun && s.on (benchPd b) && !(s.bench b).leased && !s.retired b && (s.bench b).restart.isNone

/-- A hewer runs: a program of the host, or the symbology firmware (R262). -/
def State.hewerRuns (s : State) (k : Nat) : Bool := (s.core k).running || (s.fwRuns (k / 8) && !(s.core k).fwOff)

/-- HCTRL.RUN of hewer k as it reads: the foreman has set it on a hewer that runs the firmware. -/
def State.runBit (s : State) (k : Nat) : Bool :=
  if s.fwRuns (k / 8) then !(s.core k).fwOff else s.flag (Adr.benchHctrl (k / 8) (k % 8)) 0

/-- GO (R276): the transfer starts, is refused, or is ignored. (DEDUCED, log 65) -/
def State.dmaStart (s : State) (b c : Nat) : State :=
  let st := Adr.benchDmaStat b c
  if s.flag st 0 then s.setFlag st 4 true
  else
    let cfg := Adr.benchDmaCfg b c
    let space := s.fld cfg 2 1
    let u := unitBytes space (s.fld cfg 7 6)
    let n := (s.reg (Adr.benchDmaCount b c)).toNat
    let loc := (s.reg (Adr.benchDmaLocal b c)).toNat
    let da := ((s.reg (Adr.benchDmaDaddrL b c)).toNat + 2 ^ 20 * (s.reg (Adr.benchDmaDaddrH b c)).toNat) / u * u
    let e := spaceEnd space
    let refused := decide (da < dramBase) || decide (dramBase + dramSize < da + n * u) || decide (loc < e.1)
      || decide (e.2 < loc + n) || n == 0 || (space != 0 && s.hewerRuns (8 * b + s.fld cfg 5 3))
    let s := (s.setReg (Adr.benchDmaXfer b c) 0).setFld st 7 5 0
    s.setFld st 3 0 (if refused then 10 else 1)

/-- A unit of local memory read. -/
def State.localGet (s : State) (b space hw a : Nat) : Nat :=
  if space = 0 then (SMap.get (fun _ => (0 : Word)) (s.bench b).shared a).toNat
  else if space = 1 then (SMap.get (fun _ => (0 : Word)) (s.core (8 * b + hw)).dmem a).toNat
  else (SMap.get (fun _ => (0 : BitVec 40)) (s.core (8 * b + hw)).imem a).toNat

/-- A unit of local memory written. -/
def State.localPut (s : State) (b space hw a v : Nat) : State :=
  if space = 0 then s.putShared b a [BitVec.ofNat 20 v]
  else
    let k := 8 * b + hw
    let h := s.core k
    if space = 1 then s.setCore k { h with dmem := SMap.set (fun _ => (0 : Word)) h.dmem a (BitVec.ofNat 20 v) }
    else s.setCore k { h with imem := SMap.set (fun _ => (0 : BitVec 40)) h.imem a (BitVec.ofNat 40 v) }

/-- Bits of a unit that local memory holds: 8, 16, 20 or 40. -/
def unitMask (space pack : Nat) : Nat := if space = 2 then 2 ^ 40 else if pack = 0 then 2 ^ 8 else if pack = 1 then 2 ^ 16 else 2 ^ 20

/-- `n` units moved, from unit i on (R275). -/
def State.dmaMove (s : State) (b space hw pack : Nat) (toDram : Bool) (da loc : Nat) : Nat → Nat → State
  | 0, _ => s
  | n + 1, i =>
    let u := unitBytes space pack
    let o := da + i * u - dramBase
    let s := if toDram then s.putDram o (leBytes (s.localGet b space hw (loc + i) % unitMask space pack) u)
      else s.localPut b space hw (loc + i) (leNat (s.dramRun o u) % unitMask space pack)
    State.dmaMove s b space hw pack toDram da loc n (i + 1)

/-- DRAM bytes per unit of a channel's transfer. -/
def State.dmaUnit (s : State) (b c : Nat) : Nat :=
  unitBytes (s.fld (Adr.benchDmaCfg b c) 2 1) (s.fld (Adr.benchDmaCfg b c) 7 6)

/-- The first DRAM address of a channel's transfer. -/
def State.dmaFrom (s : State) (b c : Nat) : Nat :=
  let u := s.dmaUnit b c
  ((s.reg (Adr.benchDmaDaddrL b c)).toNat + 2 ^ 20 * (s.reg (Adr.benchDmaDaddrH b c)).toNat) / u * u

/-- Units of a channel's transfer, and those moved so far. -/
def State.dmaCount (s : State) (b c : Nat) : Nat := (s.reg (Adr.benchDmaCount b c)).toNat
/-- Units moved so far. -/
def State.dmaDone (s : State) (b c : Nat) : Nat := (s.reg (Adr.benchDmaXfer b c)).toNat

/-- A channel's transfer goes on up to unit `m`. -/
def State.dmaUpTo (s : State) (b c m : Nat) : State :=
  let cfg := Adr.benchDmaCfg b c
  let i := s.dmaDone b c
  (s.dmaMove b (s.fld cfg 2 1) (s.fld cfg 5 3) (s.fld cfg 7 6) (s.flag cfg 0) (s.dmaFrom b c)
    (s.reg (Adr.benchDmaLocal b c)).toNat (m - i) i).setReg (Adr.benchDmaXfer b c) (BitVec.ofNat 20 (max i m))

/-- A channel has units to move. -/
def State.dmaBusy (s : State) (b c : Nat) : Bool := s.flag (Adr.benchDmaStat b c) 0 && decide (s.dmaDone b c < s.dmaCount b c)

/-- One bench cycle of the DMA engine (R277): it moves at most one unit, of the block of 64 DRAM bytes that it serves; blocks
go round robin over the busy channels. Whether a cycle moves one is a free value. (DESIGN CHOICE, log 157) -/
def State.dmaCycle (s : State) (b : Nat) : State :=
  let k := s.bench b
  match if 0 < k.dmaLeft && s.dmaBusy b k.dmaCh then some (k.dmaCh, k.dmaLeft)
      else ((List.range 9).map (fun i => (k.dmaCh + 1 + i) % 9)).find? (s.dmaBusy b) |>.map (fun c => (c, 64 / s.dmaUnit b c)) with
  | none => s
  | some (c, left) =>
    let d := s.draw
    if d.1 % 2 = 0 then d.2.setBench b { k with dmaCh := c, dmaLeft := left }
    else
      let s := d.2.dmaUpTo b c (s.dmaDone b c + 1)
      s.setBench b { s.bench b with dmaCh := c, dmaLeft := left - 1 }

/-- The end of a transfer (R276): every unit has moved, or the channel stopped at a unit whose DRAM read failed twice. -/
def State.dmaEnd (s : State) (b c : Nat) (ue : Option Nat) : State :=
  let st := Adr.benchDmaStat b c
  let n := s.dmaCount b c
  let stop := if s.flag (Adr.benchDmaCfg b c) 0 then none else (ue.map (max (s.dmaDone b c))).filter (fun i => decide (i < n))
  let at_ := s.dmaFrom b c + stop.getD 0 * s.dmaUnit b c
  let s := s.dmaUpTo b c (stop.getD n)
  match stop with
  | none => s.setFld st 3 0 2
  | some _ => ((s.setFld st 3 0 6).setFld st 7 5 1).spoilAdd .dramUe (0x30 + b) .lasting at_

/-- `DMA_DONE` (R276): `ue` is the unit whose DRAM read failed again, if any. -/
def execDmaDone (b : Fin 8) (c : Fin 9) (ue : Option Nat) (s : State) : Out :=
  if s.on (benchPd b) && s.flag (Adr.benchDmaStat b c) 0 then .next (s.dmaEnd b c ue) else .next s

/-! ### Completion port (R279, R280) -/

/-- A write of CMP.GO (R279). -/
def State.cmpStart (s : State) (b h : Nat) (w : Word) : State :=
  let st := Adr.benchCmpStat b h
  if !w.toNat.testBit 14 then s
  else if s.flag st 0 then s.setFlag st 3 true
  else
    let res := bits w.toNat 13 12
    let a := (s.reg (Adr.benchCmpBlock b h)).toNat
    let block := s.sharedRun b a 20
    let plen := if res = 1 then bits (block.getD 19 0).toNat 12 0 else 0
    if res = 0 || res = 3 || decide (4096 < plen) || decide (0x100000 < a + 20 + plen) then s.setFld st 2 0 6
    else
      let j : CmpJob := { entry := bits w.toNat 11 0, result := res, block := block, payload := s.sharedRun b (a + 20) plen }
      (s.setFld st 2 0 1).setBench b { s.bench b with
        cmp := SMap.set (fun _ => (none : Option CmpJob)) (s.bench b).cmp h (some j) }

/-- `CMP_COPY_DONE` (R279 steps 3 to 5): the result slot is written, then RIDDLE.DONE, which the Riddle ignores for a
bench that is not in RIDDLE.BENCHES (R220). -/
def execCmpCopyDone (b h : Fin 8) (s : State) : Out :=
  match SMap.get (fun _ => (none : Option CmpJob)) (s.bench b).cmp h.val with
  | none => .next s
  | some j =>
    let s := s.setBench b { s.bench b with cmp := SMap.set (fun _ => (none : Option CmpJob)) (s.bench b).cmp h.val none }
    let s := (s.setSlot j.entry (resOfBlock j.block j.payload)).setFld (Adr.benchCmpStat b h) 2 0 2
    .next (if (s.reg Adr.riddleBenches).toNat.testBit b.val then s.riddleDone j.entry j.result else s)

/-! ### Registers of a bench that hewers reach (R274, R278, R280, R281) -/

/-- The offset in its bench of a fabric address. -/
def benchOff (b a : Nat) : Nat := a - Adr.benchStatus b

/-- TIME or CYC read: L returns bits [19:0] and latches M and H for its reader (R281, R490). -/
def State.readWide (s : State) (ag : Agent) (a : Nat) (v : Nat) : Word × State :=
  let r := readerOf ag
  let s := (s.setLatch (latchKey r (a + 4)) (word20 v 1)).setLatch (latchKey r (a + 8)) (word20 v 2)
  (word20 v 0, s)

/-- A read of a bench register from offset 0x8_0000 on by an agent. -/
def State.benchRead (s : State) (ag : Agent) (b a : Nat) : Word × State :=
  let o := benchOff b a
  let r := readerOf ag
  if a = Adr.benchTqTake b then s.tqTake ag b
  else if a = Adr.benchTqLevel b then (s.tqLevel b, s)
  else if 0x80100 ≤ o && o < 0x80900 then
    if (o - 0x80100) % 128 < 80 then s.tqWord b ((o - 0x80100) / 128) ((o - 0x80100) % 128 / 4) else (0, s)
  else if a = Adr.benchWho b then (BitVec.ofNat 20 r, s)
  else if a = Adr.benchTimeL b then s.readWide ag a s.tm.toNat
  else if a = Adr.benchCycL b then s.readWide ag a (s.bench b).cyc.toNat
  else if a = Adr.benchTimeM b || a = Adr.benchTimeH b || a = Adr.benchCycM b || a = Adr.benchCycH b then
    (s.latched (latchKey r a), s)
  else if a = Adr.benchEccClaimOwner b then s.eccClaim ag b
  else if a = Adr.benchEccJobs b || a = Adr.benchEccFails b then (s.reg a, s.setReg a 0)
  else (s.reg a, s)

/-- The DMA channel a hewer may write: its own (R275). -/
def ownChannel (ag : Agent) (c : Nat) : Bool :=
  match ag with
  | .hewer _ h => h.val == c
  | _ => true

/-- A write of a bench register from offset 0x8_0000 on (R274, R278, R280, R489). -/
def benchWrite (ag : Agent) (b a : Nat) (w : Word) (s : State) : Out :=
  match RegMap.find a with
  | none => .next s
  | some hit =>
    let o := benchOff b a
    if 0xC0000 ≤ o then eccWrite ag b a hit w s
    else if 0x90000 ≤ o && o < 0xA0000 && !ownChannel ag hit.k then .next s
    else if s.isUndef hit || s.liveUnsafe hit a w then .next (s.undefine hit)
    else if a = Adr.benchTqFree b then .next (s.tqFree b w)
    else if hit.desc.name = "DMA.c.GO" then .next (if w.toNat.testBit 0 then s.dmaStart b hit.k else s)
    else if hit.desc.name = "CMP.h.GO" then .next (s.cmpStart b hit.k w)
    else .next (s.store hit a w)

/-- A write by an agent to a bench register that hewers reach: a hewer of the bench through its port, the foreman, or
the host on a leased bench. -/
def benchPoke (ag : Agent) (b a : Nat) (w : Word) (s : State) : Out :=
  match ag with
  | .hewer c _ => if c.val == b && s.on (benchPd b) then benchWrite ag b a w s else .next s
  | _ =>
    if !s.on (benchPd b) then .next s
    else if benchOff b a ≥ 0xC0000 then benchWrite ag b a w s
    else if ag == .host && !(s.bench b).leased then .next s.undefineAll
    else benchWrite ag b a w s

/-- `TQ_TAKE` (R272). -/
def execTqTake (ag : Agent) (b : Fin 8) (s : State) : Out :=
  if s.on (benchPd b) then
    let r := s.definedOr (Adr.benchTqTake b) (s.tqTake ag b)
    .next (r.2.retW ag r.1)
  else .next (s.retW ag 0)

/-- `TQ_FREE` (R273). -/
def execTqFree (ag : Agent) (b : Fin 8) (v : Word) (s : State) : Out := benchPoke ag b (Adr.benchTqFree b) v s

/-- `DMA_GO` (R276). -/
def execDmaGo (ag : Agent) (b : Fin 8) (c : Fin 9) (s : State) : Out := benchPoke ag b (Adr.benchDmaGo b c) 1 s

/-- `CMP_GO` (R279): each hewer reaches its own window. -/
def execCmpGo (ag : Agent) (b h : Fin 8) (v : Word) (s : State) : Out :=
  match ag with
  | .hewer _ i => if i == h then benchPoke ag b (Adr.benchCmpGo b h) v s else .next s
  | _ => benchPoke ag b (Adr.benchCmpGo b h) v s

/-! ### The address spaces of hewers and the foreman (R266, R285) -/

/-- What an access through a hewer's port returns, with the state it leaves: shared memory, bench registers, the hewer's
own completion window, its boxes (R264, R266, R279, R334). Reserved addresses read 0 and ignore writes. -/
def hewerPort (b h : Fin 8) (a : Nat) (wr : Option Word) (s : State) : Word × Out :=
  let ag := Agent.hewer b h
  if 0x80000 ≤ a then
    match wr with
    | some w => (0, .next (s.putShared b a [w]))
    | none => (SMap.get (fun _ => (0 : Word)) (s.bench b).shared a, .next s)
  else if 0x50000 ≤ a then (0, .next s)
  else if 0x40000 ≤ a then
    let n := (a - 0x40000) / 0x40
    if n < 2 then
      let r := s.boxAccess ag (if n = 0 then 8 * b.val + h.val else 64 + b.val) false (a % 0x40) wr
      (r.1, .next r.2)
    else (0, .next s)
  else
    let win := decide (0x2C000 ≤ a) && decide (a < 0x30000)
    if win && decide (0x2C003 ≤ a) then (0, .next s)
    else
      let f := Adr.benchStatus b + 0x80000 + 4 * (a - 0x20000) + (if win then 0x10 * h.val else 0)
      match wr with
      | some w => (0, benchWrite ag b f w s)
      | none => let r := s.definedOr f (s.benchRead ag b f); (r.1, .next r.2)

end Sys2Proof.Machine
end

