-- ==== Sys2Proof/Machine/Flash.lean ====
section
/-!
DEFINITION. Flash records (R434, R435): check words, headers, saving, finding, and the payloads of tables.
-/
namespace Sys2Proof.Machine

/-! ### Check words and headers -/

/-- One bit of CRC-32 (IEEE 802.3, reflected). -/
def crc32Bit (c : BitVec 32) : BitVec 32 := if c.getLsbD 0 then (c >>> 1) ^^^ 0xEDB88320 else c >>> 1

/-- One byte of CRC-32. -/
def crc32Byte (c : BitVec 32) (b : Byte) : BitVec 32 :=
  (List.range 8).foldl (fun c _ => crc32Bit c) (c ^^^ b.setWidth 32)

/-- CRC-32 of bytes (R435). -/
def crc32 (bs : List Byte) : BitVec 32 := bs.foldl crc32Byte 0xFFFFFFFF ^^^ 0xFFFFFFFF

/-- The KIND byte of a record (R435). -/
def kindCode : RecKind → Nat
  | .table .black => 1
  | .table .flat => 2
  | .table .defect => 3
  | .table .tone => 4
  | .bootImage => 6

/-- A 64-byte record header (R435). -/
def recHeader (kind wseq : Nat) (name : List Byte) (payload : List Byte) : List Byte :=
  let h := [0x4D, 0x42, 0x52, 0x43, BitVec.ofNat 8 kind, 1, 0, 0] ++ leBytes payload.length 4 ++ leBytes wseq 4
    ++ (name ++ List.replicate 32 0).take 32 ++ List.replicate 12 0
  h ++ leBytes (crc32 (h ++ payload)).toNat 4

/-- A record with its header passes its check: MAGIC, KIND, FORMAT, LENGTH and CHECK (R435). -/
def recValid (kind : Nat) (bs : List Byte) : Bool :=
  let len := leNat ((bs.drop 8).take 4)
  bs.take 4 == [0x4D, 0x42, 0x52, 0x43] && (bs.getD 4 0).toNat == kind && (bs.getD 5 0).toNat == 1
    && decide (64 + len ≤ bs.length)
    && leNat ((bs.drop 60).take 4) == (crc32 (bs.take 60 ++ (bs.drop 64).take len)).toNat

/-- The payload of a record with its header. -/
def recPayload (bs : List Byte) : List Byte := (bs.drop 64).take (leNat ((bs.drop 8).take 4))

/-! ### Names -/

/-- The form of a name (R351): 1 to 32 letters, digits, `_`, `-` or `.`, beginning with a letter. -/
def nameOk (n : String) : Bool :=
  let l := n.toList
  decide (1 ≤ l.length) && decide (l.length ≤ 32) && (l.headD '0').isAlpha
    && l.all (fun c => c.isAlphanum || c == '_' || c == '-' || c == '.')

/-- A name as it is stored: in lower case (R435). -/
def nameKey (n : String) : String := n.toLower

/-! ### Records -/

/-- The bytes of a table payload (R435). -/
def tblPayload : TblKind → Nat
  | .black => 32768
  | .flat => 65536
  | .defect => 32768
  | .tone => 2050

/-- The area of one copy of the calibration records: 6 MiB (R434). -/
def calArea : Nat := 0x600000

/-- What flash holds under a name. -/
def State.recOf (s : State) (n : String) : Option FlashRec := s.flash.recs.find? (fun r => r.name == nameKey n)

/-- The record of a name, whatever its kind, where a copy is valid (R435). -/
def State.recNamed (s : State) (n : String) : Option FlashRec :=
  s.flash.recs.find? (fun r => r.name == nameKey n && (r.ok1 || r.ok2))

/-- The record of a name and kind; a record that is absent is `record` (R359, R435). -/
def State.tblRec (s : State) (k : TblKind) (n : String) : CmdM FlashRec :=
  match s.recNamed n with
  | some r => if r.kind == .table k then .ok r else .error .record
  | none => .error .record

/-- Bytes that the records of other names occupy. -/
def State.recBytes (s : State) (n : String) : Nat :=
  (s.flash.recs.filter (fun r => r.name != nameKey n)).foldl (fun a r => a + 64 + r.payload.length) 0

/-- A record written to both copies, with the next WSEQ of its name (R435); `nospace` where the area has no room.
(DEDUCED, log 125) (DEDUCED, log 128) -/
def State.saveRec (s : State) (k : RecKind) (n : String) (payload : List Byte) : CmdM State :=
  if calArea < s.recBytes n + 64 + payload.length then .error .nospace
  else
    let old := s.flash.recs.find? (fun r => r.name == nameKey n)
    let w := match old with
      | some r => r.wseq + 1
      | none => 1
    let rest := s.flash.recs.filter (fun r => r.name != nameKey n)
    .ok (s.setFlash { s.flash with recs := rest ++ [{ kind := k, name := nameKey n, payload := payload, wseq := w }] })

/-- A record deleted from both copies (R444). -/
def State.dropRec (s : State) (n : String) : State :=
  s.setFlash { s.flash with recs := s.flash.recs.filter (fun r => r.name != nameKey n) }

/-! ### Sets (R378) -/

/-- The text of a set: its lines, each ended by LF. -/
def textOf (lines : List (List Byte)) : List Byte := lines.flatMap (· ++ [0x0A])

/-- The set's area can be read, and its check word holds. -/
def CfgSet.ok (c : CfgSet) : Bool := c.readable && c.crc == crc32 (textOf c.lines)

/-- The flash offset of set n and the size of its area (R434). -/
def setArea (n : Nat) : Nat × Nat := (0x1410000 + n * 0x80000, 0x80000)

/-- A set in flash. -/
def State.cfgSet (s : State) (n : Nat) : Option CfgSet := SMap.get (fun _ => (none : Option CfgSet)) s.flash.sets n

/-- A set written to flash, or taken from it. -/
def State.putSet (s : State) (n : Nat) (c : Option CfgSet) : State :=
  s.setFlash { s.flash with sets := SMap.set (fun _ => (none : Option CfgSet)) s.flash.sets n c }

/-! ### Long commands that flash fails (R359, R378, R435) -/

/-- A load fails with the reading of its set, every other with a write. -/
def Undo.reads : Undo → Bool
  | .enables _ => true
  | _ => false

/-- A flash offset lies in what the command works on (R434). -/
def Undo.covers (u : Undo) (off : Nat) : Bool :=
  match u with
  | .set n _ | .enables n => decide ((setArea n).1 ≤ off) && decide (off < (setArea n).1 + (setArea n).2)
  | .record _ _ => decide (0x810000 ≤ off) && decide (off < 0x1410000)
  | .image b _ => decide (0x10000 + b2n b * 0x400000 ≤ off) && decide (off < 0x410000 + b2n b * 0x400000)
  | .nothing => false

/-- What flash held before a command. -/
def State.undo (s : State) : Undo → State
  | .set n old => s.putSet n old
  | .record n old => s.setFlash { s.flash with recs := s.flash.recs.filter (fun r => r.name != n) ++ old.toList }
  | .image b old => s.setFlash (if b then { s.flash with imgB := old } else { s.flash with imgA := old })
  | _ => s

/-- A write of flash that a reset or the loss of power interrupts: a set keeps its previous contents (R378), a record is the old
or the new one (R435), an image that was being written fails its check. -/
def State.interrupted (s : State) : State :=
  upTo 10 (fun ch s =>
    match (s.chan ch).long with
    | some (.work _ _ _ (.set n old)) => s.undo (.set n old)
    | some (.work _ _ _ (.record n old)) =>
      let d := s.draw
      if d.1 % 2 = 0 then d.2 else d.2.undo (.record n old)
    | some (.work _ _ _ (.image b _)) =>
      let f := s.flash
      s.setFlash (if b then { f with imgB := { f.imgB with ok := false } } else { f with imgA := { f.imgA with ok := false } })
    | _ => s) s

/-! ### Table payloads (R435) -/

/-- The first k entries of n bytes as numbers. -/
def chunkNums (n : Nat) : Nat → List Byte → List Nat
  | 0, _ => []
  | k + 1, bs => leNat (bs.take n) :: chunkNums n k (bs.drop n)

/-- Entries of n bytes as numbers. -/
def entriesOf (n : Nat) (bs : List Byte) : List Nat := chunkNums n (bs.length / n) bs

/-- Bytes per entry of a table record. -/
def entryBytes : TblKind → Nat
  | .black => 2
  | .flat => 4
  | .defect => 4
  | .tone => 2

/-- The entries of a table record, each with its low 20 bits. -/
def recEntries (k : TblKind) (bs : List Byte) : List Word := (entriesOf (entryBytes k) bs).map (BitVec.ofNat 20 ·)

/-- The payload of entries; entries beyond those given are zero. -/
def entriesPayload (k : TblKind) (es : List Nat) : List Byte :=
  let n := tblPayload k / entryBytes k
  (List.range n).flatMap (fun i => leBytes (at0 es i) (entryBytes k))

end Sys2Proof.Machine
end

