-- ==== Sys2Proof/Machine/Cal.lean ====
section
/-!
DEFINITION. Head calibration measurements on live lines (R440 to R442). The commands stand in CmdCal.lean.
-/
namespace Sys2Proof.Machine

/-- The mean of a column sum over the lines of a run (R440). -/
def calMean (lines sum : Nat) : Nat := (sum + lines / 2) / lines

/-- A column breaks the tolerance (R442): a level for dark runs, hundredths of a percent for flat runs.
(DEDUCED, log 29) -/
def calBreaks (flat : Bool) (tol a b : Nat) : Bool :=
  let d := max a b - min a b
  if flat then decide (tol * (a + b) < d * 20000) else decide (tol < d)

/-- The result of a column from its two means (R441). -/
def calResult (flat : Bool) (target a b : Nat) : Nat :=
  let m := (a + b + 1) / 2
  if flat then (if m = 0 then 0x10000 else min 0xFFFFF ((target * 65536 + m / 2) / m)) else min 65535 m

/-- The columns that are reported: clipped in a dark record, zero in a flat measurement (R441). -/
def calReported (flat : Bool) (a b : List Nat) : List Int :=
  ((List.range a.length).filter (fun i =>
    let m := (at0 a i + at0 b i + 1) / 2
    if flat then m == 0 else decide (65535 ≤ m))).map Int.ofNat

/-- The measurements without the one of a channel. -/
def State.dropCal (s : State) (j : CalJob) : State := s.setCal (s.cal.filter (fun i => i.chNo != j.chNo))

/-- The measurement of a channel replaced. -/
def State.putCal (s : State) (j : CalJob) : State := s.setCal (s.cal.map (fun i => if i.chNo = j.chNo then j else i))

/-- The measurement is over, its channel free or held on. -/
def State.calOver (s : State) (j : CalJob) (l : Option LongCmd) : State :=
  (s.dropCal j).setChan j.chNo { s.chan j.chNo with long := l }

/-- The measurement is rejected: its runs differ in a number of columns, which the detail gives (R442). -/
def State.calRefuse (s : State) (j : CalJob) (bad : Nat) : State :=
  (s.calOver j none).respond j.chNo [ErrCode.refused.line ++ 0x20 :: decBytes bad] true

/-- The measurement ends: its record is written and its channel held until the response follows (R364), or it is rejected. -/
def State.calEnd (s : State) (j : CalJob) (r : CmdM (State × List (List Byte))) : State :=
  match r with
  | .ok (s', rep) =>
    let n := nameKey j.name
    s'.calOver j (some (.work (.record [n]) (rep ++ [bytesOf "ok"]) false (.record n (s.recOf n))))
  | .error e => (s.calOver j none).respondErr j.chNo e

/-- The end of a pair of runs (R441, R442): the result is saved, or the pair is repeated once, or the command is
rejected with `refused`. The first disagreement is reported to the Spoil log (R423). -/
def State.calPair (s : State) (j : CalJob) (a b : List Nat) : State :=
  let bad := ((a.zip b).filter (fun p => calBreaks j.flat j.tol p.1 p.2)).length
  if bad ≤ a.length / 1000 then
    let k : TblKind := if j.flat then .flat else .black
    let es := (a.zip b).map (fun p => calResult j.flat j.target p.1 p.2)
    s.calEnd j (do
      let s' ← s.saveRec (.table k) j.name (entriesPayload k es)
      return (s', reportLines "cal" (calReported j.flat a b)))
  else if j.pairs = 0 then
    let s := s.spoilAdd .calMeas (0x10 + j.f) .pending (j.c * 2 ^ 24 + j.plane * 2 ^ 20 + bad)
    s.putCal { j with got := 0, sums := [], first := none, pairs := 1 }
  else s.calRefuse j bad

/-- A line of a context at the output of stage 1 (u) and of stage 2 (b), offered to one measurement (R440). A line of
three components has no single value per column: its columns are free values. (DESIGN CHOICE, log 28) -/
def State.calTake (s : State) (j : CalJob) (f c plane : Nat) (bad : Bool) (u b : List (List Nat)) : State :=
  if j.f ≠ f || j.c ≠ c || (j.flat && j.plane ≠ plane) then s
  else
    let j := { j with started := s.time }
    if bad then s.putCal j
    else
      let (v, s) := match (if j.flat then b else u) with
        | [l] => (l, s)
        | ls => s.drawList (ls.headD []).length (2 ^ 20)
      let sums := if j.got = 0 then v else (j.sums.zip v).map (fun p => p.1 + p.2)
      if j.got + 1 < j.lines then s.putCal { j with got := j.got + 1, sums := sums }
      else
        let m := sums.map (calMean j.lines)
        match j.first with
        | none => s.putCal { j with got := 0, sums := [], first := some m }
        | some a => s.calPair j a m

/-- A line of a context offered to the measurements in progress. -/
def State.calLine (s : State) (f c plane : Nat) (bad : Bool) (u b : List (List Nat)) : State :=
  s.cal.foldl (fun s j => s.calTake j f c plane bad u b) s

end Sys2Proof.Machine
end

