-- ==== Sys2Proof/Machine/Seam.lean ====
section
/-!
DEFINITION. The Seams: search image, samples, tiles, regions, emission (R169 to R189), and the DISP overlay (R164).
-/
namespace Sys2Proof.Machine

/-! ### Samples (R172 to R174) -/

/-- round(32,767 · cos(k · 5.625°)) for k = 1 to 31 (R173). -/
def binCos : List Int :=
  [32609, 32137, 31356, 30273, 28898, 27245, 25329, 23170, 20787, 18204, 15446, 12539, 9512, 6393, 3212, 0, -3212, -6393,
   -9512, -12539, -15446, -18204, -20787, -23170, -25329, -27245, -28898, -30273, -31356, -32137, -32609]

/-- round(32,767 · sin(k · 5.625°)) for k = 1 to 31 (R173). -/
def binSin : List Int :=
  [3212, 6393, 9512, 12539, 15446, 18204, 20787, 23170, 25329, 27245, 28898, 30273, 31356, 32137, 32609, 32767, 32609,
   32137, 31356, 30273, 28898, 27245, 25329, 23170, 20787, 18204, 15446, 12539, 9512, 6393, 3212]

/-- The orientation bin of a gradient folded into the half-plane (R173). -/
def binOf (gx gy : Int) : Nat := ((binCos.zip binSin).filter (fun k => decide (0 ≤ k.1 * gy - k.2 * gx))).length

/-- The pixel at row a of the window, newest first, and column x. -/
def winPix (w : List (List Nat)) (a x : Nat) : Int := (at0 (w.getD a []) x : Int)

/-- The gradient of the sample at column x (R172): row 2 of the window is the centre line, row 1 the line after it. -/
def gradient (w : List (List Nat)) (x : Nat) : Int × Int :=
  let p := winPix w
  ((p 3 (x + 1) + 2 * p 2 (x + 1) + p 1 (x + 1)) - (p 3 (x - 1) + 2 * p 2 (x - 1) + p 1 (x - 1)),
   (p 1 (x - 1) + 2 * p 1 x + p 1 (x + 1)) - (p 3 (x - 1) + 2 * p 3 x + p 3 (x + 1)))

/-- The magnitude of a gradient (R172). -/
def magnitude (g : Int × Int) : Nat :=
  let a := g.1.natAbs
  let b := g.2.natAbs
  max a b + min a b / 2

/-- The 16 pixels on the border of the 5 × 5 window. -/
def ringPix (w : List (List Nat)) (x : Nat) : List Int :=
  ((List.range 5).flatMap (fun a => [winPix w a (x - 2), winPix w a (x + 2)]))
    ++ [winPix w 0 (x - 1), winPix w 0 x, winPix w 0 (x + 1), winPix w 4 (x - 1), winPix w 4 x, winPix w 4 (x + 1)]

/-- A bright peak at column x; a dark peak is one of the negated window (R174). -/
def brightPeak (sg : Int) (w : List (List Nat)) (x con : Nat) : Bool :=
  let p (a c : Nat) : Int := sg * winPix w a c
  let v := p 2 x
  let earlier := [p 3 (x - 1), p 3 x, p 3 (x + 1), p 2 (x - 1)]
  let later := [p 2 (x + 1), p 1 (x - 1), p 1 x, p 1 (x + 1)]
  earlier.all (fun q => decide (q < v)) && later.all (fun q => decide (q ≤ v))
    && (ringPix w x).all (fun q => decide (sg * q + con ≤ v))

/-- The thresholds of the Seam-wide registers. -/
def SeamCfg.margin (c : SeamCfg) : Nat := bits c.ctrl.toNat 3 1 + 1
/-- HMAX -/
def SeamCfg.hmax (c : SeamCfg) : Nat := bits c.ctrl.toNat 11 4
/-- ORI_TOL -/
def SeamCfg.tol (c : SeamCfg) : Nat := bits c.ori.toNat 2 0

/-- A tile's sums with one more sample, at column x. -/
def TileAcc.sample (t : TileAcc) (cfg : SeamCfg) (w : List (List Nat)) (x : Nat) : TileAcc :=
  let g := gradient w x
  let m := magnitude g
  let pol := bits cfg.dot.toNat 18 17
  let con := bits cfg.dot.toNat 7 0
  let peak := (pol.testBit 0 && brightPeak 1 w x con) || (pol.testBit 1 && brightPeak (-1) w x con)
  let t := { t with d := t.d + b2n peak }
  if bits cfg.mag.toNat 10 0 ≤ m && 1 ≤ m then
    let neg := decide (g.2 < 0) || (g.2 == 0 && decide (g.1 < 0))
    let b := if neg then binOf (-g.1) (-g.2) else binOf g.1 g.2
    let add (l : List Nat) (v : Nat) : List Nat := (List.range 32).map (fun i => at0 l i + if i = b then v else 0)
    { t with h := add t.h m, hn := add t.hn (if neg then m else 0), n := t.n + 1 }
  else t

/-! ### Tiles (R176, R177) -/

/-- The index of a list's largest element, the lowest on a tie. -/
def argMax (l : List Nat) : Nat :=
  ((List.range l.length).foldl (fun (b : Nat) i => if at0 l b < at0 l i then i else b) 0)

/-- The sum over a bin and its two neighbours, modulo n. -/
def around (l : List Nat) (n b : Nat) : Nat := at0 l ((b + n - 1) % n) + at0 l b + at0 l ((b + 1) % n)

/-- The features of a tile: M, b₁, κ₁, κ₂, β (R176). -/
structure TileFeat where
  m : Nat
  b1 : Nat
  k1 : Nat
  k2 : Nat
  beta : Nat
deriving DecidableEq, Repr

/-- The features of a tile's sums. -/
def TileAcc.feat (t : TileAcc) : TileFeat :=
  let m := t.h.foldl (· + ·) 0
  let b1 := argMax t.h
  let h1 := around t.h 32 b1
  let n1 := around t.hn 32 b1
  let h2 := around t.h 32 ((b1 + 16) % 32)
  { m := m, b1 := b1, k1 := if m = 0 then 0 else min 255 (256 * h1 / m), k2 := if m = 0 then 0 else min 255 (256 * h2 / m),
    beta := if h1 = 0 then 0 else 256 * min n1 (h1 - n1) / h1 }

/-- A tile's class code and quality (R177). -/
def TileAcc.classify (t : TileAcc) (cfg : SeamCfg) : Nat × Nat :=
  let f := t.feat
  let linC := bits cfg.lin.toNat 7 0
  let bal := bits cfg.lin.toNat 15 8
  if t.n < bits cfg.votes.toNat 8 0 || f.m < bits cfg.mass.toNat 18 0 then (0, 0)
  else if bits cfg.dot.toNat 16 8 ≤ t.d then (5, min 255 (32 * t.d))
  else if bits cfg.grid.toNat 7 0 ≤ f.k1 + f.k2 && bits cfg.grid.toNat 15 8 ≤ f.k2 && bal ≤ f.beta then
    (4, min 255 (f.k1 + f.k2))
  else if linC ≤ f.k1 && bal ≤ f.beta then (3, f.k1)
  else if linC ≤ f.k1 then (2, 0)
  else (1, 0)

/-- The period of a class's orientation: 32 bins LINEAR, 16 GRID. -/
def oriPeriod (cls : Nat) : Nat := if cls = 4 then 16 else 32

/-- Circular distance of two reference bins of a class; none for DOT. -/
def oriDist (cls a b : Nat) : Nat :=
  if cls = 5 then 0
  else
    let n := oriPeriod cls
    min ((a + n - b % n) % n) ((b + n - a % n) % n)

/-! ### Regions (R178) -/

/-- The earlier seed in raster order. -/
def Region.before (a b : Region) : Bool := a.seedRow < b.seedRow || (a.seedRow == b.seedRow && a.seedCol ≤ b.seedCol)

/-- Two regions merged: the earlier seed and its reference, sums, the union of the tiles (R178). -/
def Region.merge (g h : Region) : Region :=
  let a := if g.before h then g else h
  { g with
    seedRow := a.seedRow, seedCol := a.seedCol, ref := a.ref
    hist := (List.range 32).map (fun i => at0 g.hist i + at0 h.hist i)
    ntiles := g.ntiles + h.ntiles, sumw := g.sumw + h.sumw
    firstRow := min g.firstRow h.firstRow, lastRow := max g.lastRow h.lastRow
    tiles := if g.before h then g.tiles ++ h.tiles else h.tiles ++ g.tiles
    fl := { suspect := g.fl.suspect || h.fl.suspect, crc := g.fl.crc || h.fl.crc, short := g.fl.short || h.fl.short,
            long := g.fl.long || h.fl.long } }

/-- A tile with its column, class, quality and features. -/
structure Tile where
  j : Nat
  cls : Nat
  w : Nat
  b1 : Nat
  hist : List Nat
deriving DecidableEq, Repr

/-- Row state while the tiles of a row are processed: regions, row of region ids, next id, tiles not seeded. -/
structure RowAcc where
  regions : List Region
  prev : List (Option Nat)
  cur : List (Option Nat) := []
  nextId : Nat
  ovf : Nat := 0
deriving DecidableEq, Repr

/-- Region ids without repeats, in order. -/
def dedupIds : List Nat → List Nat
  | [] => []
  | a :: l => a :: (dedupIds l).filter (fun b => b ≠ a)

/-- The open region of an id. -/
def RowAcc.region (a : RowAcc) (id : Nat) : Option Region := a.regions.find? (fun g => g.id == id)

/-- Region g in place of the region with its id. -/
def RowAcc.put (a : RowAcc) (g : Region) : RowAcc :=
  { a with regions := a.regions.map (fun x => if x.id = g.id then g else x) }

/-- Region h merged into g where their references agree; tiles of h become tiles of g. -/
def RowAcc.join (tol gid : Nat) (a : RowAcc) (hid : Nat) : RowAcc :=
  match a.region gid, a.region hid with
  | some g, some h =>
    if oriDist g.cls h.ref g.ref ≤ tol then
      let ren (o : Option Nat) : Option Nat := if o = some hid then some gid else o
      { (a.put (g.merge h)) with
        regions := (a.put (g.merge h)).regions.filter (fun x => x.id ≠ hid)
        prev := a.prev.map ren, cur := a.cur.map ren }
    else a
  | _, _ => a

/-- One tile of a row (R178). -/
def RowAcc.tile (tol row : Nat) (first last : BitVec 32) (fl : LFlags) (a : RowAcc) (t : Tile) : RowAcc :=
  if t.cls < 3 then { a with cur := a.cur ++ [none] }
  else
    let folded := if t.cls = 4 then t.b1 % 16 else t.b1
    let cand := [if t.j = 0 then none else a.prev.getD (t.j - 1) none, a.prev.getD t.j none, a.prev.getD (t.j + 1) none,
      if t.j = 0 then none else a.cur.getD (t.j - 1) none]
    let found := dedupIds ((cand.filterMap id).filter (fun i =>
      (a.region i).any (fun g => g.cls == t.cls && decide (oriDist t.cls folded g.ref ≤ tol))))
    let grow (g : Region) : Region :=
      { g with
        hist := (List.range 32).map (fun i => at0 g.hist i + at0 t.hist i), ntiles := g.ntiles + 1, sumw := g.sumw + t.w
        lastRow := row, tiles := g.tiles ++ [(t.j, first, last)]
        fl := { suspect := g.fl.suspect || fl.suspect, crc := g.fl.crc || fl.crc, short := g.fl.short || fl.short,
                long := g.fl.long || fl.long } }
    match found with
    | [] =>
      if 512 ≤ a.regions.length then { a with cur := a.cur ++ [none], ovf := a.ovf + 1 }
      else
        let g : Region := {
          id := a.nextId, cls := t.cls, seedRow := row, seedCol := t.j, ref := folded, hist := [], ntiles := 0, sumw := 0
          firstRow := row, lastRow := row, tiles := [], fl := {} }
        { a with regions := a.regions ++ [grow g], cur := a.cur ++ [some a.nextId], nextId := a.nextId + 1 }
    | gid :: rest =>
      let a := rest.foldl (RowAcc.join tol gid) a
      match a.region gid with
      | some g => { (a.put (grow g)) with cur := a.cur ++ [some gid] }
      | none => { a with cur := a.cur ++ [none] }

/-! ### Candidates (R181 to R184) -/

/-- ANGLE of a region (R181). -/
def Region.angle (g : Region) : Nat :=
  if g.cls = 5 then 0
  else
    let n := oriPeriod g.cls
    let h := if g.cls = 4 then (List.range 16).map (fun b => at0 g.hist b + at0 g.hist (b + 16)) else g.hist
    let b := argMax h
    let gm := at0 h ((b + n - 1) % n)
    let gp := at0 h ((b + 1) % n)
    let den : Int := 2 * (at0 h b : Int) - gm - gp
    let (num, den) : Int × Nat := if den ≤ 0 then (0, 1) else (gp - gm, den.toNat)
    (ridiv (5625 * ((2 * (b : Int) + 1) * den + num)) (20 * den)).toNat % (if g.cls = 4 then 9000 else 18000)

/-- The corners of a member tile, column and line in half units, lines relative to LNUM `base` (R182). -/
def tileCorners (w : Nat) (base : BitVec 32) (t : Nat × BitVec 32 × BitVec 32) : List (Int × Int) :=
  let x0 : Int := 32 * (t.1 : Int) - 1
  let x1 : Int := 2 * (min (16 * t.1 + 15) (w - 1) : Nat) + 1
  let l0 : Int := 2 * diff32 t.2.1 base - 5
  let l1 : Int := 2 * diff32 t.2.2 base - 3
  [(x0, l0), (x0, l1), (x1, l0), (x1, l1)]

/-- The smallest and largest of a list of integers. -/
def minMax : List Int → Int × Int
  | [] => (0, 0)
  | a :: l => l.foldl (fun (r : Int × Int) x => (min r.1 x, max r.2 x)) (a, a)

/-- The box of a region of an image of width w: CX, CY relative to `base`, HU, HV, in 1/16 (R182). (DEDUCED, log 26) -/
def Region.box (g : Region) (w angle : Nat) (base : BitVec 32) : Int × Int × Nat × Nat :=
  let c := cosQ15 angle
  let s := sinQ15 angle
  let pts := g.tiles.flatMap (tileCorners w base)
  let us := minMax (pts.map (fun p => ridiv (p.1 * c + p.2 * s) 4096))
  let vs := minMax (pts.map (fun p => ridiv (p.2 * c - p.1 * s) 4096))
  let um := us.1 + us.2
  let vm := vs.1 + vs.2
  (ridiv (um * c - vm * s) 65536, ridiv (um * s + vm * c) 65536, (ridiv (us.2 - us.1) 2).toNat, (ridiv (vs.2 - vs.1) 2).toNat)

/-- A candidate's record of 256 bits (R184). -/
def Cand.record (k : Cand) : Nat :=
  let planes := if k.mode = 0 then 2 ^ k.planeA else 2 ^ k.planeA ||| 2 ^ k.planeB
  k.ctx + k.seam * 2 ^ 2 + k.head * 2 ^ 4 + planes * 2 ^ 8 + k.cls * 2 ^ 12 + b2n k.trunc * 2 ^ 15 + b2n k.cut * 2 ^ 16
    + b2n k.fl.suspect * 2 ^ 17 + b2n k.fl.crc * 2 ^ 18 + b2n k.fl.short * 2 ^ 19 + k.score % 256 * 2 ^ 20
    + k.ntiles * 2 ^ 28 + k.angle * 2 ^ 40 + k.cx * 2 ^ 56 + k.cy.toNat * 2 ^ 74
    + k.hu * 2 ^ 110 + k.hv * 2 ^ 126 + (BitVec.ofInt 16 k.bofs).toNat * 2 ^ 142
    + k.slabno % 1024 * 2 ^ 158 + k.time.toNat * 2 ^ 168

/-! ### Overlay (R164) -/

/-- The pixels of a one-pixel line between two points, end points included: one step per pixel of the longer axis.
(DEDUCED, log 27) -/
def linePix (a b : Int × Int) : List (Int × Int) :=
  let dx := b.1 - a.1
  let dy := b.2 - a.2
  let n := max dx.natAbs dy.natAbs
  if n = 0 then [a] else (List.range (n + 1)).map (fun (i : Nat) => (a.1 + ridiv (dx * (i : Int)) n, a.2 + ridiv (dy * (i : Int)) n))

/-- An 8-bit component of a 6-bit one. -/
def six (v : Nat) : Nat := v * 4 ||| v / 16

/-- A DISP line with pixels of one row of an outline replaced. -/
def ScaledLine.draw (l : ScaledLine) (xs : List Int) (rgb : Nat × Nat × Nat) : ScaledLine :=
  let paint (row : List Nat) (v : Nat) : List Nat := row.mapIdx (fun i p => if xs.contains (i : Int) then v else p)
  match l.comps with
  | [r, g, b] => { l with comps := [paint r rgb.1, paint g rgb.2.1, paint b rgb.2.2] }
  | _ => l

/-- The corners of a candidate's box in DISP pixels, lines moved by `ofs` lines. -/
def Cand.corners (k : Cand) (sx sy : Nat) (ofs : Int) : List (Int × Int) :=
  let c := cosQ15 k.angle
  let s := sinQ15 k.angle
  let corner (a b : Int) : Int × Int :=
    let du := a * k.hu
    let dv := b * k.hv
    let x := (k.cx : Int) * 32768 + du * c - dv * s
    let y := ((k.cy.toNat : Int) + 16 * ofs) * 32768 + du * s + dv * c
    (ridiv x (524288 * sx), ridiv y (524288 * sy))
  [corner (-1) (-1), corner 1 (-1), corner 1 1, corner (-1) 1]

/-- The pixels of a candidate's outline. -/
def outline (p : List (Int × Int)) : List (Int × Int) :=
  match p with
  | [a, b, c, d] => linePix a b ++ linePix b c ++ linePix c d ++ linePix d a
  | _ => []

/-- A candidate drawn into the DISP lines of its context that are still in the delay store (R164). -/
def State.overlay (s : State) (f : Nat) (k : Cand) : State :=
  let r := (s.eff (Adr.fsrcDisp f k.ctx)).toNat
  let pl := bits r 2 1
  if !(r.testBit 0 && r.testBit 9 && (pl == k.planeA || (k.mode != 0 && pl == k.planeB))) then s
  else
    let sx := scaleOf (bits r 5 3)
    let sy := scaleOf (bits r 8 6)
    let px := outline (k.corners sx sy (if pl = k.planeA then 0 else k.bofs))
    let col := (s.reg (if k.cls = 3 then Adr.faceOvlCol0 f else if k.cls = 4 then Adr.faceOvlCol1 f else Adr.faceOvlCol2 f)).toNat
    let rgb := (six (bits col 17 12), six (bits col 11 6), six (bits col 5 0))
    let x := s.fctx (4 * f + k.ctx)
    s.setFctx (4 * f + k.ctx) { x with dly := x.dly.map (fun l =>
      if l.plane = pl && l.sx = sx && l.sy = sy then
        l.draw ((px.filter (fun q => q.2 == ((l.lnum.toNat / sy : Nat) : Int))).map (fun q => q.1)) rgb
      else l) }

/-! ### Emission (R180, R185) -/

/-- A record offered to the Riddle (R198): discarded while its EN is 0 and, counted, at a full queue. -/
def State.riddleOffer (s : State) (k : Cand) : State :=
  if !s.riddleOn then s
  else if 1024 ≤ s.riddle.queue.length then s.incr Adr.riddleInqOvf
  else s.setRiddle { s.riddle with queue := s.riddle.queue ++ [k] }

/-- A candidate emitted in its slab (R185): the first 1,024 of a slab go to the Riddle and the overlay. -/
def State.emitCand (s : State) (f c : Nat) (k : Cand) : State :=
  let sc := s.sctx (4 * f + c)
  if sc.slabCnt < 1024 then
    let k := { k with slabno := sc.slabCnt }
    let s := s.setSctx (4 * f + c) { sc with slabCnt := sc.slabCnt + 1 }
    (((s.incr (Adr.sctxCand f c)).setLastCand f (some k)).riddleOffer k).overlay f k
  else
    let s := s.incr (Adr.sctxCandOvf f c)
    if sc.ovf then s else (s.setSctx (4 * f + c) { sc with ovf := true }).raise (.candovf f c)

/-- SRC of a Seam context as it is in effect. -/
def State.seamMode (s : State) (f c : Nat) : Nat := s.efld (Adr.sctxSrc f c) 2 1
/-- PLANE_A -/
def State.seamA (s : State) (f c : Nat) : Nat := s.efld (Adr.sctxSrc f c) 4 3
/-- PLANE_B -/
def State.seamB (s : State) (f c : Nat) : Nat := s.efld (Adr.sctxSrc f c) 6 5
/-- EN of the context. -/
def State.seamCtxOn (s : State) (f c : Nat) : Bool := s.efld (Adr.sctxSrc f c) 0 0 == 1

/-- A region leaves the table: discarded below MINT, or emitted as a candidate (R180). (DESIGN CHOICE, log 45) -/
def State.emitRegion (s : State) (f c w : Nat) (trunc cut : Bool) (g : Region) : State :=
  let sc := s.sctx (4 * f + c)
  if g.ntiles < bits sc.cfg.mint.toNat (6 * (g.cls - 3) + 5) (6 * (g.cls - 3)) then s.incr (Adr.sctxSmall f c)
  else
    let base := (g.tiles.headD (0, 0, 0)).2.1
    let angle := g.angle
    let b := g.box w angle base
    let cy := BitVec.ofInt 36 ((base.toNat * 16 : Nat) + b.2.1)
    let line := base + BitVec.ofInt 32 (ridiv b.2.1 16)
    let mode := s.seamMode f c
    let bofs : Int :=
      if mode = 0 then 0
      else
        match sc.pairs.find? (fun p => p.1 == line) with
        | some p => diff32 p.2 p.1
        | none => sext 16 (Config.freeBofs sc.pairs line)
    s.emitCand f c {
      ctx := c, seam := f, head := (s.fctx (4 * f + c)).head, planeA := s.seamA f c, planeB := s.seamB f c, mode := mode, cls := g.cls
      trunc := trunc, cut := cut, fl := g.fl, score := g.sumw / max g.ntiles 1, ntiles := min g.ntiles 4095
      angle := angle, cx := b.1.toNat % 2 ^ 18, cy := cy, hu := min b.2.2.1 0xFFFF, hv := min b.2.2.2 0xFFFF, bofs := bofs, slabno := 0, time := s.tm }

/-- A region put into a list in raster order. -/
def rasterInsert (g : Region) : List Region → List Region
  | [] => [g]
  | h :: l => if g.before h then g :: h :: l else h :: rasterInsert g l

/-- Regions in raster order of their seeds. -/
def raster (l : List Region) : List Region := l.foldr rasterInsert []

/-- The grid of a context discarded: open regions, tile row, held lines. -/
def SCtx.fresh (x : SCtx) : SCtx :=
  { cfg := x.cfg, nextId := x.nextId, slab := x.slab, slabCnt := x.slabCnt, ovf := x.ovf }

/-- The width of the search image in progress. -/
def SCtx.width (x : SCtx) : Nat := (x.win.headD { pix := [], lnum := 0, fl := {}, lnumB := none }).pix.length

/-- A restart of a context (R171): its open regions are emitted with CUT, and a new grid begins. -/
def State.seamRestart (s : State) (f c : Nat) : State :=
  let x := s.sctx (4 * f + c)
  let s := (raster x.regions).foldl (fun s g => s.emitRegion f c x.width false true g) s
  (s.setSctx (4 * f + c) (s.sctx (4 * f + c)).fresh).incr (Adr.sctxRestart f c)

/-- A context's open regions discarded without emission. -/
def State.seamDrop (s : State) (f c : Nat) : State := s.setSctx (4 * f + c) (s.sctx (4 * f + c)).fresh

/-- The Seam-wide settings as they stand in the registers. -/
def State.seamCfg (s : State) (f : Nat) : SeamCfg :=
  { ctrl := s.reg (Adr.seamCtrl f), mag := s.reg (Adr.seamMagMagMin f), votes := s.reg (Adr.seamVotesNMin f)
    mass := s.reg (Adr.seamMassMMin f), dot := s.reg (Adr.seamDot f), lin := s.reg (Adr.seamLin f)
    grid := s.reg (Adr.seamGrid f), ori := s.reg (Adr.seamOriTol f), mint := s.reg (Adr.seamMint f) }

/-- A line of plane p that starts a tile row, or any line of a context without a grid: settings take effect (R188), and a
change of the search image restarts the context (R171). (DEDUCED, log 50) -/
def State.seamAdopt (s : State) (f c p : Nat) : State :=
  let x := s.sctx (4 * f + c)
  if x.arrivals % 16 ≠ 0 || (x.arrivals ≠ 0 && p ≠ s.seamA f c) then s
  else
    let old := s.eff (Adr.sctxSrc f c)
    let s := (s.setSctx (4 * f + c) { x with cfg := s.seamCfg f })
    let new := s.reg (Adr.sctxSrc f c)
    if old = new then s
    else if !new.toNat.testBit 0 then (s.seamDrop f c).adopt (Adr.sctxSrc f c)
    else if old.toNat.testBit 0 then (s.seamRestart f c).adopt (Adr.sctxSrc f c)
    else (s.adopt (Adr.sctxSrc f c)).seamRestart f c

/-- The close of a tile row (R176 to R180). -/
def State.seamRow (s : State) (f c : Nat) : State :=
  let x := s.sctx (4 * f + c)
  let row := (x.arrivals - 1) / 16
  let w := x.width
  let tiles : List Tile := (List.range ((w + 15) / 16)).map (fun j =>
    let t := x.tiles.getD j {}
    let k := t.classify x.cfg
    { j := j, cls := k.1, w := k.2, b1 := t.feat.b1, hist := t.h })
  let s := tiles.foldl (fun s t => s.incr (Adr.sctxCls f c t.cls)) s
  let a := tiles.foldl (RowAcc.tile x.cfg.tol row x.rowFirst x.rowLast x.rowFl)
    { regions := x.regions, prev := x.prev, nextId := x.nextId }
  let s := s.addCnt (Adr.sctxRegOvf f c) a.ovf
  let complete (g : Region) : Bool := decide (x.cfg.margin ≤ row - g.lastRow)
  let trunc (g : Region) : Bool := g.lastRow == row && row + 1 == g.firstRow + x.cfg.hmax
  let s := s.setSctx (4 * f + c)
    { x with regions := a.regions.filter (fun g => !complete g && !trunc g), prev := a.cur, nextId := a.nextId
             tiles := [], rowFl := {} }
  ((raster a.regions).filter (fun g => complete g || trunc g)).foldl
    (fun s g => s.emitRegion f c w (!complete g) false g) s

/-- An arrival of a search-image line (R172 to R176). -/
def State.seamArrival (s : State) (f c : Nat) (l : SearchLine) : State :=
  let x := s.sctx (4 * f + c)
  let win := (l :: x.win).take 5
  let n := x.arrivals + 1
  let pairs := match l.lnumB with
    | some b => ((l.lnum, b) :: x.pairs).take 8192
    | none => x.pairs
  let w := win.map SearchLine.pix
  let width := l.pix.length
  let tiles := if n < 5 then x.tiles
    else (List.range ((width + 15) / 16)).map (fun j =>
      ((List.range 16).map (16 * j + ·)).foldl (fun (t : TileAcc) col =>
        if 2 ≤ col && col + 3 ≤ width then t.sample x.cfg w col else t) (x.tiles.getD j {}))
  let fl := x.rowFl
  let s := s.setSctx (4 * f + c)
    { x with arrivals := n, win := win, pairs := pairs, tiles := tiles
             rowFirst := if x.arrivals % 16 = 0 then l.lnum else x.rowFirst, rowLast := l.lnum
             rowFl := { suspect := fl.suspect || l.fl.suspect, crc := fl.crc || l.fl.crc, short := fl.short || l.fl.short,
                        long := fl.long || l.fl.long } }
  if n % 16 = 0 then s.seamRow f c else s

/-- The search line of a PLANE_A line (R169). -/
def State.searchLine (s : State) (f c : Nat) (lnum : BitVec 32) (fl : LFlags) (y : List Nat) : SearchLine × Bool :=
  let mode := s.seamMode f c
  if mode = 0 then ({ pix := y, lnum := lnum, fl := fl, lnumB := none }, false)
  else
    match (s.sctx (4 * f + c)).lineB with
    | none => ({ pix := y, lnum := lnum, fl := fl, lnumB := none }, true)
    | some b =>
      ({ pix := (y.zip b.pix).map (fun p => if mode = 1 then max p.1 p.2 else min p.1 p.2), lnum := lnum
         fl := { suspect := fl.suspect || b.fl.suspect, crc := fl.crc || b.fl.crc, short := fl.short || b.fl.short,
                 long := fl.long || b.fl.long }
         lnumB := some b.lnum }, false)

/-- The Seam runs: PD4 is on and CTRL.EN is 1 (R188). -/
def State.seamOn (s : State) (f : Nat) : Bool := s.on 4 && s.flag (Adr.seamCtrl f) 0 && !s.outOfService (0x18 + f)

/-- A line of context c, plane p and slab `slab` reaches the Seam of Face f with its Y8 luma; `brk` marks it as
following a break (R169, R171, R185, R188). -/
def State.seamLine (s : State) (f c p slab : Nat) (lnum : BitVec 32) (fl : LFlags) (y : List Nat) (brk : Bool) : State :=
  if !s.seamOn f then s
  else
    let x := s.sctx (4 * f + c)
    let s := if x.slab = some slab then s
      else s.setSctx (4 * f + c) { x with slab := some slab, slabCnt := 0, ovf := false }
    let s := if brk && s.seamCtxOn f c then s.seamRestart f c else s
    let s := s.seamAdopt f c p
    if !s.seamCtxOn f c then s
    else if p = s.seamA f c then
      let r := s.searchLine f c lnum fl y
      let s := if r.2 then s.incr (Adr.sctxUnpaired f c) else s
      s.seamArrival f c r.1
    else if s.seamMode f c ≠ 0 && p = s.seamB f c then
      s.setSctx (4 * f + c) { s.sctx (4 * f + c) with lineB := some { pix := y, lnum := lnum, fl := fl, lnumB := none } }
    else s

/-- A write of SEAM.s.CTRL: EN set restarts the contexts that are enabled, EN cleared discards their regions (R171). -/
def State.writeSeamCtrl (s : State) (f : Nat) (hit : Hit) (w : Word) : State :=
  let was := s.flag (Adr.seamCtrl f) 0
  let s := s.store hit (Adr.seamCtrl f) w
  let now := s.flag (Adr.seamCtrl f) 0
  if !was && now then upTo 4 (fun c s => if s.seamCtxOn f c then s.seamRestart f c else s) s
  else if was && !now then upTo 4 (fun c s => s.seamDrop f c) s
  else s

/-- A write of SEAM.s.CTRL by an agent. -/
def seamCtrlWrite (ag : Agent) (f : Nat) (w : Word) (s : State) : Out :=
  s.guardWrite ag (Adr.seamCtrl f) w (fun hit s => .next (s.writeSeamCtrl f hit w))

/-- `SEAM_ENABLE` (R171, R188). -/
def execSeamEnable (ag : Agent) (f : Fin 4) (s : State) : Out :=
  seamCtrlWrite ag f (putBits (s.reg (Adr.seamCtrl f)) 0 0 1) s

/-- `SEAM_DISABLE` (R171). -/
def execSeamDisable (ag : Agent) (f : Fin 4) (s : State) : Out :=
  seamCtrlWrite ag f (putBits (s.reg (Adr.seamCtrl f)) 0 0 0) s

end Sys2Proof.Machine
end

