-- ==== Sys2Proof/Machine/Stream.lean ====
section
/-!
DEFINITION. Host streams: the outputs MV, DISP and CODE of a Face (R161 to R166), the held line (R491), the host
output buffer and the stream rings (R475, R476, R479, R481).
-/
namespace Sys2Proof.Machine

/-! ### Planes of a context -/

/-- A plane of context c of Face f. -/
def State.fplane (s : State) (f c p : Nat) : FPlane := SMap.get (fun _ => ({} : FPlane)) (s.fctx (4 * f + c)).planes p

/-- The state with a plane of a context replaced. -/
def State.setFplane (s : State) (f c p : Nat) (v : FPlane) : State :=
  let x := s.fctx (4 * f + c)
  s.setFctx (4 * f + c) { x with planes := SMap.set (fun _ => ({} : FPlane)) x.planes p v }

/-! ### Rings and mirror (R475, R479, R481) -/

/-- The stream ring of Face f, context c and stream st (R479). -/
def ringOf (f c st : Nat) : Nat := 12 * f + 3 * c + st

/-- A stream ring is enabled. -/
def State.ringEn (s : State) (r : Nat) : Bool := s.flag (Adr.pcieStreamCtrlEn r) 0

/-- The engine can write host memory: no condition of R475 holds. -/
def State.hostCan (s : State) : Bool := s.pcie.up && s.pcie.bme && !s.pcie.d3

/-- A host base address from its two registers (R476). -/
def State.hostBase (s : State) (l h : Nat) : Nat := (s.reg h).toNat * 2 ^ 32 + (s.reg l).toNat * 2 ^ 12

/-- A word of the mirror block written where the mirror is enabled (R481). While the engine cannot write host memory the
block falls behind and is rewritten later (R475). -/
def State.mirror (s : State) (off : Nat) (v : Word) : State :=
  if !s.flag Adr.pcieCtrl 1 then s
  else if s.hostCan then s.putHost (s.hostBase Adr.pcieMirBaseL Adr.pcieMirBaseH + off) (leBytes v.toNat 4)
  else s.setPcie { s.pcie with stale := true }

/-- Units of 64 bytes in a stream ring (R479). -/
def State.ringUnits (s : State) (r : Nat) : Nat := 2 ^ (10 + s.fld (Adr.pcieStreamSize r) 3 0)

/-- Units in use of a stream ring. -/
def State.ringUsed (s : State) (r : Nat) : Nat :=
  ((s.reg (Adr.pcieStreamProd r)) - (s.reg (Adr.pcieStreamCons r))).toNat

/-- A stream line written to its ring: units from PROD on, continuing at the base, then PROD and its mirror word. -/
def State.writeRing (s : State) (r : Nat) (bs : List Byte) : State :=
  let base := s.hostBase (Adr.pcieStreamBaseL r) (Adr.pcieStreamBaseH r)
  let n := s.ringUnits r
  let prod := (s.reg (Adr.pcieStreamProd r)).toNat
  let k := bs.length / 64
  let s := upTo k (fun i s => s.putHost (base + (prod + i) % n * 64) ((bs.drop (64 * i)).take 64)) s
  let v := BitVec.ofNat 20 (prod + k)
  (s.setReg (Adr.pcieStreamProd r) v).mirror (0x40 + 4 * r) v

/-! ### Stream lines (R166, R491) -/

/-- The OUTCOME encoding (R119). -/
def Outc.code : Outc → Nat
  | .none_ => 0 | .ok => 1 | .short => 2 | .timeout => 3 | .unanchored => 4 | .empty => 5

/-- The stream of a KIND code: 0 MV, 1 DISP, 2 CODE. -/
def streamOf (kind : Nat) : Nat := kind - 1

/-- A stream line of Face f as it is sent: header, payload, padding (R166). -/
def OutLine.bytes (l : OutLine) (f : Nat) : List Byte :=
  let b22 := l.kind % 4 + l.ctx % 4 * 4 + l.plane % 4 * 16 + f % 4 * 64
  let b23 := b2n l.fl.suspect + b2n l.fl.crc * 2 + b2n l.fl.short * 4 + b2n l.fl.long * 8 + b2n l.endc.isSome * 16
    + b2n l.gap * 32 + b2n l.chroma * 64
  let b28 := match l.endc with
    | some c => c.outc.code + b2n c.uncertain * 8 + b2n c.long * 16
    | none => 0
  let bs := l.tag.bytes ++ leBytes l.width 2 ++ leBytes b22 1 ++ leBytes b23 1 ++ leBytes l.seq.toNat 4
    ++ leBytes b28 4 ++ l.payload
  bs ++ List.replicate ((64 - bs.length % 64) % 64) 0

/-- Bytes that wait in a Face's host output buffer, held lines among them (R479, R491). -/
def State.bufUsed (s : State) (f : Nat) : Nat :=
  let wait := (s.face f).wait.foldl (fun a (e : Nat × List Byte) => a + e.2.length) 0
  upTo 16 (fun i a => upTo 3 (fun st a =>
    match SMap.get (fun _ => none) (s.fplane f (i / 4) (i % 4)).held st with
    | some l => a + (l.bytes f).length
    | none => a) a) wait

/-- A line leaves the hold towards its ring; the line of a ring that is not enabled is discarded (R479). -/
def State.sendLine (s : State) (f : Nat) (l : OutLine) : State :=
  let r := ringOf f l.ctx (streamOf l.kind)
  if s.ringEn r then s.setFace f { s.face f with wait := (s.face f).wait ++ [(r, l.bytes f)] } else s

/-- The held line of a stream replaced. -/
def State.setHeld (s : State) (f c p st : Nat) (l : Option OutLine) : State :=
  let fp := s.fplane f c p
  s.setFplane f c p { fp with held := SMap.set (fun _ => none) fp.held st l }

/-- The close of a context's slab, where it has reached the Face and the slab's lines have not all left. -/
def State.slabClose (s : State) (f c id : Nat) : Option SlabClose :=
  ((s.fctx (4 * f + c)).slabs.find? (fun i => i.id == id)).bind SlabInfo.close

/-- GAP of a stream's line that is made now: lines were discarded since the stream's line before it (R166). -/
def State.gapOf (s : State) (f c p st : Nat) : Bool := SMap.get (fun _ => false) (s.fplane f c p).gap st

/-- GAP of a stream set or cleared. -/
def State.setGap (s : State) (f c p st : Nat) (v : Bool) : State :=
  let fp := s.fplane f c p
  s.setFplane f c p { fp with gap := SMap.set (fun _ => false) fp.gap st v }

/-- A line ready on its stream: it is counted and is held in place of the stream's previous line, which is sent, with
SLABEND if the close of its slab is known and the new line is of another (R166, R491). A line without room in the buffer
is lost (R479). (DEDUCED, log 36) -/
def State.emitLine (s : State) (f : Nat) (l : OutLine) : State :=
  let st := streamOf l.kind
  let fp := s.fplane f l.ctx l.plane
  let l := { l with seq := SMap.get (fun _ => 0) fp.seq st }
  let s := s.setFplane f l.ctx l.plane { fp with seq := SMap.set (fun _ => 0) fp.seq st (l.seq + 1) }
  let r := ringOf f l.ctx st
  if !s.ringEn r then s
  else if 0x200000 < s.bufUsed f + (l.bytes f).length then s.incr (Adr.pcieStreamLost r)
  else
    let s := match SMap.get (fun _ => none) fp.held st with
      | some h => s.sendLine f (if h.slab = l.first then h else { h with endc := s.slabClose f l.ctx h.slab })
      | none => s
    if l.endc.isSome then (s.sendLine f l).setHeld f l.ctx l.plane st none else s.setHeld f l.ctx l.plane st (some l)

/-! ### The three outputs (R161 to R165) -/

/-- A line that leaves stage 9: context, tag, flags, slab, LNUM, and its 16-bit channels (R138). -/
structure S9Line where
  ctx : Nat
  tag : Tag
  fl : LFlags
  /-- the flags of all lines that contribute to it (R166) -/
  all : LFlags
  slab : Nat
  lnum : BitVec 32
  ch : List (List Nat)
deriving DecidableEq, Repr

/-- The plane of a stage 9 line. -/
def S9Line.plane (l : S9Line) : Nat := l.tag.plane.toNat

/-- MV: Y8, or Y16 least significant byte first, at full width. -/
def State.mvLine (s : State) (f : Nat) (l : S9Line) : State :=
  let y := luma16 l.ch
  let m := s.eff (Adr.fsrcMv f l.ctx)
  if !m.toNat.testBit l.plane then s
  else
    let wide := m.toNat.testBit 4
    (s.setGap f l.ctx l.plane 0 false).emitLine f {
      kind := if wide then 1 else 0, ctx := l.ctx, plane := l.plane, tag := l.tag, width := y.length, fl := l.all,
      slab := l.slab, gap := s.gapOf f l.ctx l.plane 0, payload := if wide then y.flatMap (leBytes · 2) else y.map (fun v => BitVec.ofNat 8 (to8 v)) }

/-- Flags combined. -/
def LFlags.or (a b : LFlags) : LFlags :=
  { suspect := a.suspect || b.suspect, crc := a.crc || b.crc, short := a.short || b.short, long := a.long || b.long }

/-- A box with one more line: its slab is that of its newest line. Where that line begins a slab, the box carries the
end of the slab before it (R491). -/
def State.boxAdd (s : State) (f : Nat) (b : Option ScaleBox) (l : S9Line) : ScaleBox :=
  match b with
  | some b =>
    { b with lines := b.lines ++ [rgb8 l.ch], fl := b.fl.or l.all, slab := l.slab,
             endc := if b.slab = l.slab then b.endc else (s.slabClose f l.ctx b.slab).or b.endc }
  | none => { lines := [rgb8 l.ch], tag := l.tag, fl := l.all, first := l.slab, slab := l.slab, lnum := l.lnum }

/-- The scaled line of a complete box. -/
def ScaleBox.scaled (b : ScaleBox) (plane sx sy : Nat) (gap : Bool) : ScaledLine :=
  { comps := scaleBox sx b.lines, tag := b.tag, fl := b.fl, first := b.first, slab := b.slab, gap := gap, plane := plane, lnum := b.lnum, sy := sy,
    sx := sx, endc := b.endc }

/-- A DISP line as it is sent (R163). -/
def ScaledLine.disp (x : ScaledLine) (c : Nat) : OutLine :=
  { kind := 2, ctx := c, plane := x.plane, tag := x.tag, width := (x.comps.headD []).length, fl := x.fl, slab := x.slab,
    first := x.first, gap := x.gap, payload := dispBytes x.comps, endc := x.endc }

/-- A CODE line as it is sent: its Y bytes, and the chroma row that it carries (R165). -/
def ScaledLine.code (x : ScaledLine) (c : Nat) (chroma : Option (List Byte)) : OutLine :=
  { kind := 3, ctx := c, plane := x.plane, tag := x.tag, width := (yuvLine x.comps).length, fl := x.fl, slab := x.slab,
    first := x.first, gap := x.gap, payload := codeY x.comps ++ chroma.getD [], chroma := chroma.isSome, endc := x.endc }

/-- Scaled DISP lines beyond DELAY leave the delay store (R163). (DEDUCED, log 37) -/
def State.dlyDrain (s : State) (f c : Nat) : State :=
  let x := s.fctx (4 * f + c)
  let d := s.efld (Adr.fsrcDispDly f c) 7 0
  let n := x.dly.length - d
  let s := s.setFctx (4 * f + c) { x with dly := x.dly.drop n }
  (x.dly.take n).foldl (fun s l => s.emitLine f (l.disp c)) s

/-- DISP: the scaler, then the delay store. -/
def State.dispLine (s : State) (f : Nat) (l : S9Line) : State :=
  let r := (s.eff (Adr.fsrcDisp f l.ctx)).toNat
  if !(r.testBit 0 && bits r 2 1 == l.plane) then s
  else
    let fp := s.fplane f l.ctx l.plane
    let b := s.boxAdd f fp.dispBox l
    let sx := scaleOf (bits r 5 3)
    let sy := scaleOf (bits r 8 6)
    if b.lines.length < sy then s.setFplane f l.ctx l.plane { fp with dispBox := some b }
    else
      let d := b.scaled l.plane sx sy (s.gapOf f l.ctx l.plane 1)
      let s := (s.setFplane f l.ctx l.plane { fp with dispBox := none }).setGap f l.ctx l.plane 1 false
      let x := s.fctx (4 * f + l.ctx)
      (s.setFctx (4 * f + l.ctx) { x with dly := x.dly ++ [d] }).dlyDrain f l.ctx

/-- CODE: the scaler, then pairs of lines; the first of a pair leaves when its partner comes, and the second has the
flags of both, whose chroma row it carries (R165, R166). (DEDUCED, log 35) -/
def State.codeLine (s : State) (f : Nat) (l : S9Line) : State :=
  let r := (s.eff (Adr.fsrcCode f l.ctx)).toNat
  if !(r.testBit 0 && bits r 2 1 == l.plane) then s
  else
    let fp := s.fplane f l.ctx l.plane
    let b := s.boxAdd f fp.codeBox l
    let sx := scaleOf (bits r 5 3)
    let sy := scaleOf (bits r 8 6)
    if b.lines.length < sy then s.setFplane f l.ctx l.plane { fp with codeBox := some b }
    else
      let x := b.scaled l.plane sx sy (s.gapOf f l.ctx l.plane 2)
      let s := s.setGap f l.ctx l.plane 2 false
      let fp := s.fplane f l.ctx l.plane
      match fp.codeFirst with
      | none => s.setFplane f l.ctx l.plane { fp with codeBox := none, codeFirst := some x }
      | some a =>
        let s := s.setFplane f l.ctx l.plane { fp with codeBox := none, codeFirst := none }
        (s.emitLine f (a.code l.ctx none)).emitLine f ({ x with fl := a.fl.or x.fl }.code l.ctx (some (codeChroma a.comps x.comps)))

/-! ### The end of a slab (R491) -/

/-- The first element that a test selects, changed. -/
def markFirst {α : Type} (p : α → Bool) (g : α → α) : List α → List α
  | [] => []
  | a :: l => if p a then g a :: l else a :: markFirst p g l

/-- The held line of a slab sent with SLABEND. -/
def State.endHeld (s : State) (f c p st slab : Nat) (cl : SlabClose) : State :=
  match SMap.get (fun _ => none) (s.fplane f c p).held st with
  | some h => if h.slab = slab then (s.setHeld f c p st none).sendLine f { h with endc := some cl } else s
  | none => s

/-- A line made of lines of the slab and of the next one: it carries the slab's end already. -/
def ScaledLine.covers (x : ScaledLine) (slab : Nat) : Bool := decide (x.first ≤ slab) && decide (slab < x.slab)

/-- SLABEND given to the last line of a slab on DISP, boxes apart: the newest in the delay store, or the held line. -/
def State.endDisp (s : State) (f c p slab : Nat) (cl : SlabClose) : State :=
  let x := s.fctx (4 * f + c)
  let mine (l : ScaledLine) : Bool := l.plane == p && l.slab == slab
  if x.dly.any (fun l => l.plane == p && l.covers slab) then s
  else if x.dly.any mine then
    s.setFctx (4 * f + c)
      { x with dly := (markFirst mine (fun l => { l with endc := some cl }) x.dly.reverse).reverse }
  else s.endHeld f c p 1 slab cl

/-- SLABEND given to the last line of a slab on CODE, boxes apart: the first of a pair, or the held line. -/
def State.endCode (s : State) (f c p slab : Nat) (cl : SlabClose) : State :=
  let fp := s.fplane f c p
  match fp.codeFirst with
  | some x =>
    if x.slab = slab then s.setFplane f c p { fp with codeFirst := some { x with endc := some cl } }
    else if x.covers slab then s
    else s.endHeld f c p 2 slab cl
  | none => s.endHeld f c p 2 slab cl

/-- A box made of lines of the slab and of the next one: it carries the slab's end already. -/
def ScaleBox.covers (b : ScaleBox) (slab : Nat) : Bool := decide (b.first ≤ slab) && decide (slab < b.slab)

/-- A slab's close on one plane of a context: each stream's last line of the slab gets SLABEND (R491). -/
def State.endPlane (s : State) (f c slab : Nat) (cl : SlabClose) (p : Nat) : State :=
  let s := s.endHeld f c p 0 slab cl
  let fp := s.fplane f c p
  let s := match fp.dispBox with
    | some b =>
      if b.slab = slab then s.setFplane f c p { fp with dispBox := some { b with endc := some cl } }
      else if b.covers slab then s
      else s.endDisp f c p slab cl
    | none => s.endDisp f c p slab cl
  let fp := s.fplane f c p
  match fp.codeBox with
  | some b =>
    if b.slab = slab then s.setFplane f c p { fp with codeBox := some { b with endc := some cl } }
    else if b.covers slab then s
    else s.endCode f c p slab cl
  | none => s.endCode f c p slab cl

/-- A slab's close reaches the Face's host output (R491). -/
def State.streamClose (s : State) (f c slab : Nat) (cl : SlabClose) : State :=
  upTo 4 (fun p s => s.endPlane f c slab cl p) s

/-- DISP's incomplete box of a plane discarded, which leaves a gap; a SLABEND that it was to carry falls to the line before it.
(DEDUCED, log 33) -/
def State.dropDispBox (s : State) (f c p : Nat) : State :=
  let fp := s.fplane f c p
  match fp.dispBox with
  | some b =>
    let s := (s.setFplane f c p { fp with dispBox := none }).setGap f c p 1 true
    match b.endc with
    | some cl => s.endDisp f c p b.slab cl
    | none => s
  | none => s

/-- CODE's incomplete box of a plane discarded, and the first line of a pair sent with a chroma row of its own (R165). -/
def State.dropCodeBox (s : State) (f c p : Nat) : State :=
  let fp := s.fplane f c p
  let s := match fp.codeBox with
    | some b =>
      let s := (s.setFplane f c p { fp with codeBox := none }).setGap f c p 2 true
      match b.endc with
      | some cl => s.endCode f c p b.slab cl
      | none => s
    | none => s
  let fp := s.fplane f c p
  match fp.codeFirst with
  | some x => (s.setFplane f c p { fp with codeFirst := none }).emitLine f (x.code c (some (codeChroma x.comps x.comps)))
  | none => s

/-- The boxes of every plane of a context discarded (R162, R165). -/
def State.dropBoxes (s : State) (f c : Nat) : State :=
  upTo 4 (fun p s => (s.dropDispBox f c p).dropCodeBox f c p) s

/-- A context's slabs that have not closed at the port end at its disable: SLABEND with outcome TIMEOUT, UNCERTAIN where
a line of the slab was SUSPECT (R491). A line still held, whose slab's last line waits in the delay store, is sent as it
stands. -/
def State.flushHeld (s : State) (f c : Nat) : State :=
  let x := s.fctx (4 * f + c)
  let cl : SlabClose := { outc := .timeout, uncertain := x.suspectSent, long := false }
  let s := x.slabs.foldl (fun s i => s.streamClose f c i.id cl) s
  upTo 4 (fun p s => upTo 3 (fun st s =>
    match SMap.get (fun _ => none) (s.fplane f c p).held st with
    | some h => (s.setHeld f c p st none).sendLine f h
    | none => s) s) s

/-! ### `STREAM_LINE_WRITE` (R476, R479) -/

/-- The oldest waiting line of a ring, taken out of its Face's buffer. -/
def takeRing (r : Nat) : List (Nat × List Byte) → Option (List Byte × List (Nat × List Byte))
  | [] => none
  | (q, bs) :: l =>
    if q = r then some (bs, l)
    else (takeRing r l).map (fun x => (x.1, (q, bs) :: x.2))

/-- The next ring with a line waiting, round robin after the ring served last (R476). -/
def State.nextRing (s : State) : Option Nat :=
  ((List.range 48).map (fun i => (s.pcie.lastRing + 1 + i) % 48)).find?
    (fun r => (s.face (r / 12)).wait.any (fun e => e.1 == r))

/-- A line of ring r that has left the buffer: discarded, lost or written. -/
def State.serveRing (s : State) (r : Nat) (bs : List Byte) : State :=
  if !s.ringEn r then s
  else if !s.hostCan then s.incr (Adr.pcieStreamLost r)
  else if s.ringUnits r < s.ringUsed r + bs.length / 64 then s.incr (Adr.pcieStreamLost r)
  else s.writeRing r bs

/-- `STREAM_LINE_WRITE` (R476, R479): the next waiting stream line, round robin by ring. Until the mirror block has
been rewritten after a stop of R475, no ring is written. -/
def execStreamLineWrite (s : State) : Out :=
  if s.hostCan && s.pcie.stale then .next s
  else
    match s.nextRing with
    | none => .next s
    | some r =>
      let fc := s.face (r / 12)
      match takeRing r fc.wait with
      | none => .next s
      | some (bs, rest) =>
        .next (((s.setFace (r / 12) { fc with wait := rest }).setPcie { s.pcie with lastRing := r }).serveRing r bs)

end Sys2Proof.Machine
end

