-- ==== Sys2Proof/Machine/Face.lean ====
section
/-!
DEFINITION. The Faces: sources, spools, the line scheduler, boundaries, the nine stages and where a line goes
(R122 to R161).
-/
namespace Sys2Proof.Machine

/-! ### Streams and slabs (R148, R149, R155 to R158) -/

/-- The enabled context of Face p/4 that takes stream st of port p. -/
def State.findCtx (s : State) (p st : Nat) : Option Nat :=
  (List.range 4).find? (fun c => s.ctxEn (p / 4) c && s.ctxPort (p / 4) c == p && s.ctxStream (p / 4) c == st)

/-- A slab occupies its slot until its last line has entered stage 1 (R157). -/
def SlabInfo.occupies (i : SlabInfo) : Bool := i.slot.isSome && !(i.close.isSome && i.waiting == 0)

/-- Spool slots of a context that are occupied (R167). -/
def FCtx.used (x : FCtx) : Nat := (x.slabs.filter SlabInfo.occupies).length

/-- The lowest free spool slot. -/
def FCtx.freeSlot (x : FCtx) (n : Nat) : Option Nat :=
  (List.range n).find? (fun k => !x.slabs.any (fun i => i.occupies && i.slot == some k))

/-- A slab of a context changed. -/
def FCtx.mapSlab (x : FCtx) (id : Nat) (g : SlabInfo → SlabInfo) : FCtx :=
  { x with slabs := x.slabs.map (fun i => if i.id = id then g i else i) }

/-- The port opens a slab for a stream (R149, R156): a memory-fed context claims a slot, or drops the slab. -/
def State.faceOpen (s : State) (p st : Nat) : State :=
  let f := p / 4
  match s.findCtx p st with
  | none => s
  | some c =>
    let k := 4 * f + c
    let x := s.fctx k
    let slot := if s.ctxInline f c then none else x.freeSlot (s.spoolSlabs f c)
    if !s.ctxInline f c && slot.isNone then
      ((s.setFctx k { x with cur := none, dropCur := true, pbrk := true, pempty := true }).incr (Adr.fsrcDrop f c)).raise
        (.drop f c)
    else
      s.setFctx k { x with cur := some x.nextSlab, dropCur := false, nextSlab := x.nextSlab + 1,
                           slabs := x.slabs ++ [{ id := x.nextSlab, slot := slot }] }

/-- A line of a context discarded before stage 1: the next line follows a break and a gap (R166, R171).
(DEDUCED, log 25) -/
def State.loseLine (s : State) (k plane : Nat) : State :=
  let x := s.fctx k
  s.setFctx k { x with pbrk := true, pgaps := x.pgaps ++ [plane] }

/-- A line queued for a context, with the marks of what was discarded before it. -/
def State.queueLine (s : State) (k : Nat) (l : RawLine) : State :=
  let x := s.fctx k
  let x := x.mapSlab l.slab (fun i => { i with written := i.written + 1, waiting := i.waiting + 1 })
  s.setFctx k { x with queue := x.queue ++ [{ l with brk := x.pbrk, gaps := x.pgaps, empty := x.pempty }],
                       pbrk := false, pgaps := [], pempty := false }

/-- The record that precedes a spool line: tag and flags, and in byte 21 the outcome of a slab that ends with it (R155).
(DESIGN CHOICE, log 174) -/
def spoolRecord (t : Tag) (fl : LFlags) : List Byte :=
  let r := t.bytes ++ [BitVec.ofNat 8 fl.num]
  r ++ List.replicate (64 - r.length) 0

/-- The pixels of a line, RGB888 components joined. -/
def joinComps (comps : List (List Nat)) : List Nat :=
  match comps with
  | [r, g, b] => (r.zip (g.zip b)).map (fun p => 65536 * p.1 + 256 * p.2.1 + p.2.2)
  | [y] => y
  | _ => []

/-- A spool line's DRAM address (R155). -/
def State.spoolAddr (s : State) (f c slot idx : Nat) : Nat :=
  (s.spoolRegion f c).1 + (slot * s.spoolLines f c + idx) * s.ctxStride f c

/-- A line that the port delivers to the Face (R114, R148, R149, R151, R155, R156, R158). -/
def State.faceLine (s : State) (p st : Nat) (comps : List (List Nat)) (dt : Nat) (t : Tag) (fl : LFlags) : State :=
  let f := p / 4
  match s.findCtx p st with
  | none => s.incr (Adr.faceUnbound f)
  | some c =>
    let k := 4 * f + c
    let x := s.fctx k
    match x.cur with
    | none => if x.dropCur then s.loseLine k t.plane.toNat else s.incr (Adr.faceUnbound f)
    | some id =>
      if s.ctxInline f c then
        if 3 ≤ x.queue.length + b2n ((s.face f).line.any (fun l => l.1 == c)) then
          (s.loseLine k t.plane.toNat).incr (Adr.fsrcInlOvf f c)
        else s.queueLine k { comps := comps, dt := dt, tag := t, fl := fl, slab := id }
      else
        match x.slabs.find? (fun i => i.id == id) with
        | none => s
        | some i =>
          let slot := i.slot.getD 0
          if s.spoolLines f c ≤ i.written then (s.loseLine k t.plane.toNat).incr (Adr.fsrcTrunc f c)
          else
            let a := s.spoolAddr f c slot i.written
            let bs := spoolRecord t fl ++ packLine dt (joinComps comps)
            (s.putRegion k (s.spoolRegion f c) a bs).queueLine k
              { comps := comps, dt := dt, tag := t, fl := fl, slab := id, slot := slot, idx := i.written }

/-! ### Alignment (R132 to R135) -/

/-- CMODE.MODE in effect: 0 MONO, 1 TRILINEAR, 2 TWOLINE. -/
def State.cMode (s : State) (f c : Nat) : Nat := s.efld (Adr.fctxCmode f c) 1 0

/-- The delays that a mode uses: red, green, blue, or sensor lines A and B. -/
def delaysOf (mode align : Nat) : List Nat :=
  if mode = 1 then [bits align 5 0, bits align 11 6, bits align 17 12]
  else if mode = 2 then [bits align 5 0, bits align 17 12]
  else [0]

/-- The delays of a context. -/
def State.delays (s : State) (f c : Nat) : List Nat := delaysOf (s.cMode f c) (s.eff (Adr.fctxAlign f c)).toNat

/-- The largest of a list. -/
def maxOf (l : List Nat) : Nat := l.foldl max 0

/-- The smallest of a list. -/
def minOf (l : List Nat) : Nat := l.foldl min (l.headD 0)

/-- GAP set on every stream of a plane (R166). -/
def State.markGap (s : State) (f c p : Nat) : State :=
  let fp := s.fplane f c p
  let set (g : SMap Bool) (st : Nat) : SMap Bool := SMap.set (fun _ => false) g st true
  s.setFplane f c p { fp with gap := set (set (set fp.gap 0) 1) 2 }

/-- A context's alignment empties (R135, R162, R171). -/
def State.emptyAlign (s : State) (f c : Nat) : State :=
  let s := upTo 4 (fun p s => s.setFplane f c p { s.fplane f c p with aln := [] }) s
  let s := s.dropBoxes f c
  s.setFctx (4 * f + c) { s.fctx (4 * f + c) with brk := true }

/-- Samples that a context commits to the alignment store under a mode, PLANES and delays (R134). (DEDUCED, log 47) -/
def State.alnCommit (s : State) (f c mode planes align : Nat) : Nat :=
  let w := s.strWidth (s.ctxPort f c) (s.ctxStream f c)
  let n := ((List.range 4).filter (planes.testBit ·)).length
  let d := (delaysOf mode align).foldl (· + ·) 0
  n * d * (if mode = 2 then w / 2 else w)

/-- Samples committed by a context as its settings are in effect. -/
def State.alnUsed (s : State) (f c : Nat) : Nat :=
  let m := (s.eff (Adr.fctxCmode f c)).toNat
  s.alnCommit f c (bits m 1 0) (bits m 5 2) (s.eff (Adr.fctxAlign f c)).toNat

/-- RGB pixels of the delay store that a context commits (R163). -/
def State.dlyCommit (s : State) (f c mode disp delay : Nat) : Nat :=
  let w := s.strWidth (s.ctxPort f c) (s.ctxStream f c)
  delay * ((if mode = 2 then w / 2 else w) / scaleOf (bits disp 5 3))

/-- RGB pixels committed by a context as its settings are in effect. -/
def State.dlyUsed (s : State) (f c : Nat) : Nat :=
  s.dlyCommit f c (s.cMode f c) (s.eff (Adr.fsrcDisp f c)).toNat (s.efld (Adr.fsrcDispDly f c) 7 0)

/-- A total over the other contexts of a Face. -/
def others (c : Nat) (g : Nat → Nat) : Nat := (((List.range 4).filter (· ≠ c)).map g).foldl (· + ·) 0

/-! ### Adoption of settings (R123, R127, R134, R142, R163) -/

/-- The plain RWS registers of a context. -/
def ctxPlain (f c : Nat) : List Nat :=
  (List.range 4).map (Adr.fctxGlob f c) ++ (List.range 12).map (Adr.fctxWb f c) ++
  [Adr.fctxDynHi f c, Adr.fctxDynLo f c, Adr.fctxMat00 f c, Adr.fctxMat01 f c, Adr.fctxMat02 f c, Adr.fctxMat10 f c,
   Adr.fctxMat11 f c, Adr.fctxMat12 f c, Adr.fctxMat20 f c, Adr.fctxMat21 f c, Adr.fctxMat22 f c, Adr.fsrcMv f c]

/-- CMODE and ALIGN taken, or PLANES and ALIGN kept where the alignment store would overflow (R134); a change of MODE
or ALIGN empties the alignment (R135). -/
def State.adoptAlign (s : State) (f c : Nat) : State :=
  let m := (s.reg (Adr.fctxCmode f c)).toNat
  let a := s.reg (Adr.fctxAlign f c)
  let total := others c (fun d => s.alnUsed f d) + s.alnCommit f c (bits m 1 0) (bits m 5 2) a.toNat
  let oldM := s.eff (Adr.fctxCmode f c)
  let oldA := s.eff (Adr.fctxAlign f c)
  let keep := decide (2097152 < total) && (a != oldA || bits m 5 2 != bits oldM.toNat 5 2)
  let newM := if keep then putBits (s.reg (Adr.fctxCmode f c)) 5 2 (bits oldM.toNat 5 2) else s.reg (Adr.fctxCmode f c)
  let newA := if keep then oldA else a
  let s := if keep then s.setFlag (Adr.faceStatusCfgerr f) 0 true else s
  let s := (s.setEff (Adr.fctxCmode f c) newM).setEff (Adr.fctxAlign f c) newA
  if newA != oldA || bits newM.toNat 1 0 != bits oldM.toNat 1 0 then s.emptyAlign f c else s

/-- DISP, DISP_DLY and CODE taken, or DISP and DISP_DLY kept where the delay store would overflow (R163). Boxes begun
under other settings are discarded (log 33). -/
def State.adoptOutputs (s : State) (f c : Nat) : State :=
  let d := s.reg (Adr.fsrcDisp f c)
  let n := s.reg (Adr.fsrcDispDly f c)
  let oldD := s.eff (Adr.fsrcDisp f c)
  let oldN := s.eff (Adr.fsrcDispDly f c)
  let total := others c (fun e => s.dlyUsed f e) + s.dlyCommit f c (s.cMode f c) d.toNat (bits n.toNat 7 0)
  let keep := decide (524288 < total) && (d != oldD || n != oldN)
  let s := if keep then s.setFlag (Adr.faceStatusCfgerr f) 0 true
    else if bits d.toNat 8 0 != bits oldD.toNat 8 0 then
      (upTo 4 (fun p s => s.dropDispBox f c p) s).adoptAll [Adr.fsrcDisp f c, Adr.fsrcDispDly f c]
    else s.adoptAll [Adr.fsrcDisp f c, Adr.fsrcDispDly f c]
  if s.reg (Adr.fsrcCode f c) != s.eff (Adr.fsrcCode f c) then
    (upTo 4 (fun p s => s.dropCodeBox f c p) s).adopt (Adr.fsrcCode f c)
  else s

/-- The bank that a select's ACT field shows for context c: selects 0 black, 1 flat-field, 2 defect, 3 tone (R142). -/
def Adr.bankSel (f kind : Nat) : Nat :=
  if kind = 0 then Adr.faceBlkSel f else if kind = 1 then Adr.faceFlatSel f
  else if kind = 2 then Adr.faceDefSel f else Adr.faceToneSel f

/-- The bit of a select's ACT field for context c. -/
def actBit (kind c : Nat) : Nat := if kind = 2 then 1 + c else 4 + c

/-- The bit of a select's BANK field for context c. -/
def bankBit (kind c : Nat) : Nat := if kind = 2 then 0 else c

/-- The bank in effect for a context. -/
def State.bankAct (s : State) (f kind c : Nat) : Bool := s.flag (Adr.bankSel f kind) (actBit kind c)

/-- The bank written for a context. -/
def State.bankSet (s : State) (f kind c : Nat) : Bool := s.flag (Adr.bankSel f kind) (bankBit kind c)

/-- A context takes its banks (R142). -/
def State.adoptBanks (s : State) (f c : Nat) : State :=
  upTo 4 (fun kind s => s.setFlag (Adr.bankSel f kind) (actBit kind c) (s.bankSet f kind c)) s

/-- Every RWS value of a context takes effect (R123). -/
def State.ctxAdopt (s : State) (f c : Nat) : State :=
  (((s.adoptAll (ctxPlain f c)).adoptAlign f c).adoptOutputs f c).adoptBanks f c

/-- A mode takes a data type and width (R124). (DEDUCED, log 46) -/
def modeFits (mode dt w : Nat) : Bool :=
  if mode = 1 then dtRgb dt else if mode = 2 then !dtRgb dt && w % 2 == 0 else !dtRgb dt

/-- A context's boundary, at the first line of a new slab (R123, R124, R127). -/
def State.ctxBoundary (s : State) (f c : Nat) (l : RawLine) : State :=
  let k := 4 * f + c
  let first := !(s.fctx k).defSeen
  let old := s.bankAct f 2 c
  let s := s.ctxAdopt f c
  let s := if first || old != s.bankAct f 2 c then
      s.addCnt (Adr.faceDefOrder f) (orderDefects none ((s.face f).defects (s.bankAct f 2 c) c)).2
    else s
  let bad := !modeFits (s.cMode f c) l.dt (l.comps.headD []).length
  let s := s.setFctx k { s.fctx k with
    begun := some l.slab, modeBad := bad, defSeen := true, suspectSent := false }
  if bad then (s.incr (Adr.fctxModeErr f c)).setFlag (Adr.faceStatusCfgerr f) 0 true else s

/-! ### The close of a slab -/

/-- Lines of the slab wait in the alignment store for the output that carries their tag (R132). -/
def State.inAlign (s : State) (f c id : Nat) : Bool :=
  let d := minOf (s.delays f c)
  (List.range 4).any (fun p => ((s.fplane f c p).aln.take d).any (fun l => l.slab == id))

/-- An outcome that empties the alignment (R135). -/
def Outc.empties : Outc → Bool
  | .timeout | .unanchored | .empty => true
  | _ => false

/-- Every line of a slab whose close is known has left the Face. -/
def State.slabDone (s : State) (f c : Nat) (i : SlabInfo) : Bool :=
  match i.close with
  | none => false
  | some cl =>
    i.waiting == 0 && !((s.face f).line.any (fun l => l.1 == c && l.2.slab == i.id))
      && (cl.outc.empties || !s.inAlign f c i.id)

/-- A slab that empties the alignment has closed, and every line up to its last has been through stage 6 (R135). -/
def State.emptyDue (s : State) (f c : Nat) : Bool :=
  let gone := (s.fctx (4 * f + c)).slabs.takeWhile (fun i =>
    i.close.isSome && i.waiting == 0 && !((s.face f).line.any (fun l => l.1 == c && l.2.slab == i.id)))
  gone.any (fun i => i.close.any (fun cl => cl.outc.empties))

/-- The slabs of a context that are done close, oldest first: for the host streams (R491) and the stockpile (R194). -/
def State.settleSlabs (s : State) (f c : Nat) : Nat → State
  | 0 => s
  | fuel + 1 =>
    let x := s.fctx (4 * f + c)
    match x.slabs with
    | [] => s
    | i :: rest =>
      match i.close with
      | none => s
      | some cl =>
        if !s.slabDone f c i then s
        else
          let s := (s.setFctx (4 * f + c)
            { x with slabs := rest, taintSlabs := x.taintSlabs.filter (· != i.id) }).streamClose f c i.id cl
          let s := if x.stk then s.stockClose x.head i.last cl else s
          s.settleSlabs f c fuel

/-- What the closes of a context's slabs bring, once their lines are through: the alignment empties (R135), and the slabs
that are done close. -/
def State.settle (s : State) (f c : Nat) : State :=
  let s := if s.emptyDue f c then s.emptyAlign f c else s
  s.settleSlabs f c (s.fctx (4 * f + c)).slabs.length

/-- The outcome written to the record of a slab's last line in the raw spool (R155). -/
def State.spoolOutcome (s : State) (f c : Nat) (i : SlabInfo) (cl : SlabClose) : State :=
  match i.slot with
  | none => s
  | some slot =>
    if i.written = 0 then s
    else
      s.putRegion (4 * f + c) (s.spoolRegion f c) (s.spoolAddr f c slot (i.written - 1) + 21)
        [BitVec.ofNat 8 (cl.outc.code + b2n cl.uncertain * 8 + b2n cl.long * 16)]

/-- The port reports a slab that never opened (R114): it closes without lines. -/
def State.faceMissed (s : State) (p st : Nat) (cl : SlabClose) : State :=
  let f := p / 4
  match s.findCtx p st with
  | none => s
  | some c =>
    let k := 4 * f + c
    let x := s.fctx k
    (s.setFctx k { x with nextSlab := x.nextSlab + 1, slabs := x.slabs ++ [{ id := x.nextSlab, close := some cl }] }).settle f c

/-- The port closes a stream's slab (R114). -/
def State.faceClose (s : State) (p st : Nat) (cl : SlabClose) : State :=
  let f := p / 4
  match s.findCtx p st with
  | none => s
  | some c =>
    let k := 4 * f + c
    let x := s.fctx k
    match x.cur with
    | none => s.setFctx k { x with dropCur := false }
    | some id =>
      let s := (x.slabs.filter (fun i => i.id == id)).foldl (fun s i => s.spoolOutcome f c i cl) s
      (s.setFctx k { x.mapSlab id (fun i => { i with close := some cl }) with cur := none }).settle f c

/-! ### The line scheduler (R153) -/

/-- A context has a line ready. (DESIGN CHOICE, log 173) -/
def State.ctxReady (s : State) (f c : Nat) : Bool := s.ctxEn f c && !(s.fctx (4 * f + c)).queue.isEmpty

/-- The next line's context: the in-line one first, then round robin; with the round-robin pointer (R153). -/
def State.nextLine (s : State) (f : Nat) : Option (Nat × Nat) :=
  let rr := (s.face f).rr
  match (List.range 4).find? (fun c => s.ctxInline f c && s.ctxReady f c) with
  | some c => some (c, rr)
  | none =>
    (((List.range 4).map (fun n => (rr + 1 + n) % 4)).find? (fun c => !s.ctxInline f c && s.ctxReady f c)).map
      (fun c => (c, c))

/-- The marks of a line that begins: gaps, an emptied alignment, a break. -/
def State.lineMarks (s : State) (f c : Nat) (l : RawLine) : State :=
  let s := l.gaps.foldl (fun s p => s.markGap f c p) s
  let s := if l.empty then s.emptyAlign f c else s
  if l.brk then s.setFctx (4 * f + c) { s.fctx (4 * f + c) with brk := true } else s

/-- A memory-fed line as it is read back from its spool (R152, R155). -/
def State.readBack (s : State) (f c : Nat) (l : RawLine) : RawLine :=
  let n := packedBytes l.dt (l.comps.headD []).length
  let bs := s.dramRun (s.spoolAddr f c l.slot l.idx + 64 - dramBase) n
  let px := (unpackLine l.dt bs).take (l.comps.headD []).length
  { l with comps := compsOf l.dt px }

/-- A line of context c enters stage 1; `late` counts a wait for its pixels, `ue` is a lasting uncorrectable read-back
(R123, R124, R150, R152, R428). -/
def State.beginLine (s : State) (f c rr : Nat) (l : RawLine) (rest : List RawLine) (late ue : Bool) : State :=
  let k := 4 * f + c
  let inl := s.ctxInline f c
  let l := if inl then l else s.readBack f c l
  let s := (s.setFace f { s.face f with rr := rr }).setFctx k
    ({ s.fctx k with queue := rest }.mapSlab l.slab (fun i => { i with waiting := i.waiting - 1 }))
  let s := if (s.fctx k).begun = some l.slab then s else s.ctxBoundary f c l
  let s := s.lineMarks f c l
  let s := if late then s.incr (Adr.fsrcStall f c) else s
  if ue && !inl then
    let s := (s.setFctx k { s.fctx k with brk := true }).markGap f c l.tag.plane.toNat
    s.settle f c
  else if (s.fctx k).modeBad then (s.markGap f c l.tag.plane.toNat).settle f c
  else s.setFace f { s.face f with line := some (c, l) }

/-- `LINE_BOUNDARY` (R153): where no line is in the Face, the next one begins. (DEDUCED, log 34) -/
def execLineBoundary (f : Fin 4) (late ue : Bool) (s : State) : Out :=
  if (s.face f).line.isSome || !s.on (facePd f) then .next s
  else
    match s.nextLine f with
    | none => .next s
    | some (c, rr) =>
      match (s.fctx (4 * f + c)).queue with
      | [] => .next s
      | l :: rest => .next (s.beginLine f c rr l rest late ue)

/-! ### The nine stages -/

/-- A bypass bit in effect (R140): 0 BLACK, 1 STATIC, 2 DYNAMIC, 3 FLAT, 4 WB, 5 MATRIX, 6 TONE. -/
def State.bypass (s : State) (f c i : Nat) : Bool := (s.eff (Adr.fctxCmode f c)).toNat.testBit (6 + i)

/-- The stride of neighbours (R127). -/
def State.nbrStride (s : State) (f c : Nat) : Nat := if s.cMode f c = 2 then 2 else 1

/-- Stage 1 of a line: its components in the 20-bit scale. -/
def stage1 (l : RawLine) : List (List Nat) := l.comps.map (·.map (unpack20 (dtBits l.dt)))

/-- Stage 2 of a line (R126). -/
def State.stage2 (s : State) (f c p : Nat) (u : List (List Nat)) : List (List Nat) :=
  if s.bypass f c 0 then u
  else
    let bank := s.bankAct f 0 c
    let g := sext 20 (s.eff (Adr.fctxGlob f c p)).toNat
    u.map (·.mapIdx (fun x v => blackLevel v ((s.face f).tblAt 0 c 0 bank x % 65536) g))

/-- The static entries that apply to a line of w pixels (R127, R140). -/
def State.listed (s : State) (f c w : Nat) : List (Nat × Nat) :=
  if s.bypass f c 1 then []
  else (orderDefects none ((s.face f).defects (s.bankAct f 2 c) c)).1.filter (fun d => decide (d.1 < w))

/-- Stage 3 of a line, and how many values the dynamic test replaced (R128, R129). -/
def State.stage3 (s : State) (f c : Nat) (b : List (List Nat)) : List (List Nat) × Nat :=
  let st := s.nbrStride f c
  let defs := s.listed f c (b.headD []).length
  let b := b.map (staticStage st defs)
  if s.bypass f c 2 then (b, 0)
  else
    let r := b.map (dynamicStage st (s.eff (Adr.fctxDynHi f c)).toNat (s.eff (Adr.fctxDynLo f c)).toNat defs)
    (r.map (·.map (·.1)), (r.map (fun l => (l.filter (·.2)).length)).foldl (· + ·) 0)

/-- Stage 4 of a line (R130). -/
def State.stage4 (s : State) (f c p : Nat) (b : List (List Nat)) : List (List Nat) :=
  if s.bypass f c 3 then b
  else b.map (·.mapIdx (fun x v => gain16 v ((s.face f).tblAt 1 c p (s.bankAct f 1 c) x)))

/-- Stages 7 and 8 of a colour line of plane p (R136, R137). -/
def State.stage78 (s : State) (f c p : Nat) (a : List (List Nat)) : List (List Nat) :=
  let w := if s.bypass f c 4 then a
    else a.mapIdx (fun k l => l.map (fun v => gain16 v (s.eff (Adr.fctxWb f c (3 * p + k))).toNat))
  if s.bypass f c 5 then w
  else
    let m (x : Nat) : Int := sext 20 (s.eff x).toNat
    let rows : List (List Int) :=
      [[m (Adr.fctxMat00 f c), m (Adr.fctxMat01 f c), m (Adr.fctxMat02 f c)],
       [m (Adr.fctxMat10 f c), m (Adr.fctxMat11 f c), m (Adr.fctxMat12 f c)],
       [m (Adr.fctxMat20 f c), m (Adr.fctxMat21 f c), m (Adr.fctxMat22 f c)]]
    match w with
    | [r, g, b] => rows.map (fun row => (r.zip (g.zip b)).map (fun q => matrixRow row [q.1, q.2.1, q.2.2]))
    | _ => w

/-- Stage 9 (R138). -/
def State.stage9 (s : State) (f c : Nat) (x : List (List Nat)) : List (List Nat) :=
  if s.bypass f c 6 then x.map (·.map (· / 16))
  else x.mapIdx (fun k l => l.map (toneAt (fun i => (s.face f).tblAt 3 c k (s.bankAct f 3 c) i % 65536)))

/-- What leaves stage 6: the line, the flags of all lines that contribute to it (R166) and their slabs. -/
structure S6Line where
  line : AlnLine
  all : LFlags
  slabs : List Nat
deriving DecidableEq, Repr

/-- Stage 6 of a plane's line (R132 to R135): the store with the line in it, and the output line once the store is
full. In MONO the line passes. (DEDUCED, log 32) -/
def State.stage6 (s : State) (f c p : Nat) (l : AlnLine) : State × Option S6Line :=
  let mode := s.cMode f c
  if mode = 0 then (s, some ⟨l, l.fl, [l.slab]⟩)
  else
    let d := s.delays f c
    let fp := s.fplane f c p
    let aln := (l :: fp.aln).take (maxOf d + 1)
    let s := s.setFplane f c p { fp with aln := aln }
    if aln.length ≤ maxOf d then (s.incr (Adr.fctxWarm f c), none)
    else
      let at_ (i : Nat) : AlnLine := aln.getD i l
      let base := at_ (minOf d)
      let fl := { base.fl with
        suspect := d.any (fun i => (at_ i).fl.suspect), crc := d.any (fun i => (at_ i).fl.crc) }
      let comps := if mode = 1 then
          (List.range 3).map (fun k => ((at_ (d.getD k 0)).comps.getD k []).map held16)
        else
          let a := (at_ (d.getD 0 0)).comps.headD []
          let b := (at_ (d.getD 1 0)).comps.headD []
          twoLine (a.take (a.length / 2)) (b.drop (b.length / 2)) (a.length / 2)
      (s, some ⟨{ base with comps := comps, fl := fl }, d.foldl (fun a i => a.or (at_ i).fl) base.fl,
                base.slab :: d.map (fun i => (at_ i).slab)⟩)

/-- The last LNUM of a slab's plane noted (R194). -/
def SlabInfo.note (i : SlabInfo) (p : Nat) (n : BitVec 32) : SlabInfo :=
  match i.last.find? (fun e => e.1 == p) with
  | some e => { i with last := i.last.map (fun x => if x.1 = p then (p, e.2.1, n) else x) }
  | none => { i with last := i.last ++ [(p, n, n)] }

/-- A stage 9 line goes to the stockpile, the host streams and the Seam (R161, R170, R191). -/
def State.lineOut (s : State) (f : Nat) (l : S9Line) : State :=
  let k := 4 * f + l.ctx
  let p := l.plane
  let y := (luma16 l.ch).map to8
  let x := s.fctx k
  let fp := s.fplane f l.ctx p
  let l := { l with lnum := fp.lnum }
  let s := s.setFplane f l.ctx p { fp with lnum := fp.lnum + 1 }
  let s := s.setFctx k { (s.fctx k).mapSlab l.slab (fun i => i.note p l.lnum) with
    brk := false, suspectSent := x.suspectSent || l.fl.suspect }
  let s := if x.stk then (s.stockLine x.head p l.tag l.lnum l.fl y).riddlePoll else s
  let s := ((s.mvLine f l).dispLine f l).codeLine f l
  s.seamLine f l.ctx p l.slab l.lnum l.fl y x.brk

/-- Channels of free values, for the lines of the undefined cases of R144 and R149. (DEDUCED, log 49) -/
def State.taintLine (s : State) (ch : List (List Nat)) : List (List Nat) × State :=
  ch.foldl (fun (r : List (List Nat) × State) row =>
    let d := r.2.drawList row.length 65536
    (r.1 ++ [d.1], d.2)) ([], s)

/-- The line of context c passes the nine stages and leaves (R122, R131). -/
def State.faceStages (s : State) (f c : Nat) (l : RawLine) : State :=
  let p := l.tag.plane.toNat
  let u := stage1 l
  let b := s.stage2 f c p u
  let s := s.calLine f c p (l.fl.suspect || l.fl.crc || l.fl.short) u b
  let d := s.stage3 f c b
  let s := s.addCnt (Adr.fctxDynCnt f c) d.2
  let x := s.stage4 f c p d.1
  if !(s.eff (Adr.fctxCmode f c)).toNat.testBit (2 + p) then (s.markGap f c p).incr (Adr.fctxPlaneDrop f c)
  else
    match s.stage6 f c p { comps := x, tag := l.tag, fl := l.fl, slab := l.slab } with
    | (s, none) => s.markGap f c p
    | (s, some o) =>
      let x := o.line
      let ch := s.stage9 f c (if s.cMode f c = 0 then x.comps else s.stage78 f c p x.comps)
      let fx := s.fctx (4 * f + c)
      let r := if fx.taint || o.slabs.any fx.taintSlabs.contains then s.taintLine ch else (ch, s)
      r.2.lineOut f { ctx := c, tag := x.tag, fl := x.fl, all := o.all, slab := x.slab, lnum := 0, ch := r.1 }

/-- The end of a disable (R149, R491): lines in the alignment store and incomplete boxes go, slabs that have closed at
the port close, the others end here, and held lines are sent. -/
def State.ctxEnd (s : State) (f c : Nat) : State :=
  let k := 4 * f + c
  let s := ((s.emptyAlign f c).settle f c).flushHeld f c
  s.setFctx k { s.fctx k with slabs := [], taintSlabs := [], flushing := false }

/-- The end of a disable; written RWS values take effect (R123). -/
def State.ctxFlush (s : State) (f c : Nat) : State := (s.ctxEnd f c).ctxAdopt f c

/-- The line in the Face leaves stage 9, and its slab closes if it was waiting for that. -/
def State.lineThrough (s : State) (f c : Nat) (l : RawLine) : State :=
  let s := s.faceStages f c l
  (s.setFace f { s.face f with line := none }).settle f c

/-- The stockpiles of a context's head begin a new epoch (R193). -/
def State.newEpochs (s : State) (f c : Nat) : State :=
  let x := s.fctx (4 * f + c)
  if x.stk then upTo 4 (fun p s => s.bumpEpoch x.head p) s else s

/-- The line of an enable that has ended completes after the context was enabled again (R149): it leaves as a line of the
context as it stood, whose disable ends with it. -/
def State.oldLineThrough (s : State) (f c : Nat) (x : FCtx) (l : RawLine) : State :=
  let k := 4 * f + c
  let new := s.fctx k
  let s := ((s.setFctx k { x with dly := new.dly }).lineThrough f c l).ctxEnd f c
  let s := s.setFctx k { new with dly := (s.fctx k).dly }
  (s.setFace f { s.face f with old := none }).newEpochs f c

/-- `FACE_LINE_OUT` (R141, R149, R161): the line in the Face leaves stage 9. -/
def execFaceLineOut (f : Fin 4) (s : State) : Out :=
  match (s.face f).line with
  | none => .next s
  | some (c, l) =>
    match (s.face f).old with
    | some x => .next (s.oldLineThrough f c x l)
    | none =>
      let s := s.lineThrough f c l
      .next (if (s.fctx (4 * f + c)).flushing then s.ctxFlush f c else s)

/-! ### Context enable and disable (R148, R149) -/

/-- An enable that R148 refuses. -/
def State.enableRefused (s : State) (f c : Nat) : Bool :=
  let others := (List.range 4).filter (fun d => d != c && s.ctxEn f d)
  let r := s.spoolRegion f c
  others.any (fun d => s.ctxPort f d == s.ctxPort f c && s.ctxStream f d == s.ctxStream f c)
    || (s.ctxInline f c && others.any (fun d => s.ctxInline f d))
    || (!s.ctxInline f c && !(decide (dramBase ≤ r.1) && decide (r.1 + r.2 ≤ dramBase + dramSize)))
    || (s.ctxStock f c && (List.range 16).any (fun i =>
          i != 4 * f + c && s.ctxEn (i / 4) (i % 4) && s.ctxStock (i / 4) (i % 4)
            && s.ctxPort (i / 4) (i % 4) == s.ctxPort f c))

/-- A context starts (R135, R149, R170, R193). Where the line of its last enable is still in the Face, that line goes on
as a line of the context as it stood. -/
def State.ctxStart (s : State) (f c : Nat) : State :=
  let k := 4 * f + c
  let x := s.fctx k
  let s := s.setFctx k
    { head := s.ctxPort f c, stk := s.ctxStock f c, nextSlab := x.nextSlab, dly := x.dly, brk := true }
  if !x.flushing then s.newEpochs f c
  else if (s.face f).old.isSome then s
  else s.setFace f { s.face f with old := some x }

/-- A context stops (R149): lines not yet in stage 1 are discarded, slots freed, the line in the Face completes, if it is
of this enable. -/
def State.ctxStop (s : State) (f c : Nat) : State :=
  let k := 4 * f + c
  let x := s.fctx k
  let s := s.setFctx k { x with queue := [], cur := none, dropCur := false, flushing := true, taint := false,
                                slabs := x.slabs.map (fun i => { i with slot := none, waiting := 0 }) }
  if (s.face f).line.any (fun l => l.1 == c) && (s.face f).old.isNone then s else s.ctxFlush f c

/-- A write of FACE.f.C.c.SRC (R148, R149, R489). -/
def State.writeSrc (s : State) (f c : Nat) (hit : Hit) (w : Word) : State :=
  let a := Adr.fsrcSrc f c
  let old := s.reg a
  let s := s.store hit a w
  match old.toNat.testBit 0, s.ctxEn f c with
  | false, true =>
    if s.enableRefused f c || s.outOfService (0x10 + f) then
      (s.setFlag a 0 false).setFlag (Adr.faceStatusCfgerr f) 0 true
    else s.ctxStart f c
  | true, false => s.ctxStop f c
  | true, true => if s.reg a = old then s else s.setFctx (4 * f + c) { s.fctx (4 * f + c) with taint := true }
  | false, false => s

/-- A write of a spool register (R149): a change while the context is enabled is the undefined case. -/
def State.writeSpool (s : State) (f c : Nat) (hit : Hit) (a : Nat) (w : Word) : State :=
  let old := s.reg a
  let s := s.store hit a w
  if s.ctxEn f c && s.reg a != old then s.setFctx (4 * f + c) { s.fctx (4 * f + c) with taint := true } else s

/-- A context without an enabled source and without a line in the Face: written RWS values take effect at once
(R123). -/
def State.ctxIdle (s : State) (f c : Nat) : Bool := !s.ctxEn f c && !(s.face f).line.any (fun l => l.1 == c)

/-- The context whose window holds a register of Face f (R146, R167). -/
def ctxOfReg (f a : Nat) : Option Nat :=
  let o := a - Adr.faceStatusCfgerr f
  if 0x100 ≤ o ∧ o < 0x500 then some ((o - 0x100) / 0x100)
  else if 0x800 ≤ o ∧ o < 0xA00 then some ((o - 0x800) / 0x80)
  else none

/-- A write of a Face register: the RWS values of its context, or the bank selects, take effect at once where nothing
holds them (R123, R142). -/
def State.writeFaceRws (s : State) (f : Nat) (hit : Hit) (a : Nat) (w : Word) : State :=
  let s := s.store hit a w
  match ctxOfReg f a with
  | some c => if s.ctxIdle f c then s.ctxAdopt f c else s
  | none => upTo 4 (fun c s => if s.ctxIdle f c then s.adoptBanks f c else s) s

/-- A write of FACE.f.C.c.SRC by an agent. -/
def srcWrite (ag : Agent) (f c : Nat) (w : Word) (s : State) : Out :=
  s.guardWrite ag (Adr.fsrcSrc f c) w (fun hit s => .next (s.writeSrc f c hit w))

/-- `CONTEXT_ENABLE` (R148, R149). -/
def execContextEnable (ag : Agent) (f c : Fin 4) (s : State) : Out :=
  srcWrite ag f c (putBits (s.reg (Adr.fsrcSrc f c)) 0 0 1) s

/-- `CONTEXT_DISABLE` (R149). -/
def execContextDisable (ag : Agent) (f c : Fin 4) (s : State) : Out :=
  srcWrite ag f c (putBits (s.reg (Adr.fsrcSrc f c)) 0 0 0) s

/-! ### Tables (R142 to R144) -/

/-- The selected table kind. -/
def State.selKind (s : State) (f : Nat) : Nat := s.fld (Adr.faceTblSel f) 2 0

/-- The key of the selected table's entry e. -/
def State.selKey (s : State) (f e : Nat) : Nat :=
  tblKey (s.selKind f) (s.fld (Adr.faceTblSel f) 4 3) (s.fld (Adr.faceTblSel f) 6 5) (s.flag (Adr.faceTblSel f) 7) e

/-- A write of TBL_SEL (R143): channel 3 of a tone table is a reserved encoding. -/
def State.writeTblSel (s : State) (f : Nat) (hit : Hit) (w : Word) : State :=
  let a := Adr.faceTblSel f
  let s := s.store hit a w
  let bad := s.selKind f == 3 && s.fld a 6 5 == 3
  let s := if bad then (s.setFld a 6 5 0).setFlag (Adr.faceStatusCfgerr f) 0 true else s
  if tblLen (s.selKind f) ≤ s.fld (Adr.faceTblAddr f) 13 0 then
    (s.setReg (Adr.faceTblAddr f) 0).setFlag (Adr.faceStatusCfgerr f) 0 true
  else s

/-- A write of TBL_ADDR (R143): a value at or beyond the table's length leaves 0. -/
def State.writeTblAddr (s : State) (f : Nat) (hit : Hit) (w : Word) : State :=
  let s := s.store hit (Adr.faceTblAddr f) w
  if tblLen (s.selKind f) ≤ s.fld (Adr.faceTblAddr f) 13 0 then
    (s.setReg (Adr.faceTblAddr f) 0).setFlag (Adr.faceStatusCfgerr f) 0 true
  else s

/-- TBL_ADDR after an access (R143). -/
def State.nextEntry (s : State) (f : Nat) : State :=
  let e := s.fld (Adr.faceTblAddr f) 13 0 + 1
  s.setReg (Adr.faceTblAddr f) (BitVec.ofNat 20 (if tblLen (s.selKind f) ≤ e then 0 else e))

/-- The slabs of a context that the Face has begun and not finished marked: a bank they use was written (R144). -/
def FCtx.taintNow (x : FCtx) : FCtx :=
  let now := (x.slabs.filter (fun i => x.begun.any (fun b => decide (i.id ≤ b)))).map SlabInfo.id
  { x with taintSlabs := x.taintSlabs ++ now.filter (fun i => !x.taintSlabs.contains i) }

/-- A bank was written (R144): the slabs in progress of the contexts that use it become undefined. -/
def State.taintBank (s : State) (f kind ctx : Nat) (bank : Bool) : State :=
  upTo 4 (fun c s =>
    if (kind == 2 || c == ctx) && s.bankAct f kind c == bank then
      let s := s.setFctx (4 * f + c) (s.fctx (4 * f + c)).taintNow
      if (s.face f).line.any (fun l => l.1 == c) then s.setFace f { s.face f with old := (s.face f).old.map FCtx.taintNow }
      else s
    else s) s

/-- A table entry written: 16 bits for black and tone tables. -/
def State.putTbl (s : State) (f key : Nat) (v : Word) : State :=
  let kind := key / 2 ^ 19
  let v := if kind = 0 || kind = 3 then v &&& 0x0FFFF else v
  s.setFace f { s.face f with tbl := SMap.set tblBoot (s.face f).tbl key v }

/-- A run of entries written. -/
def State.putTblRun (s : State) (f key : Nat) : List Word → State
  | [] => s
  | v :: vs => (s.putTbl f key v).putTblRun f (key + 1) vs

/-- A read of TBL_DATA (R143). -/
def State.readTbl (s : State) (f : Nat) : Word × State :=
  (SMap.get tblBoot (s.face f).tbl (s.selKey f (s.fld (Adr.faceTblAddr f) 13 0)), s.nextEntry f)

/-- A write of TBL_DATA (R143, R144). -/
def State.writeTbl (s : State) (f : Nat) (v : Word) : State :=
  let sel := Adr.faceTblSel f
  let s := s.taintBank f (s.selKind f) (s.fld sel 4 3) (s.flag sel 7)
  (s.putTbl f (s.selKey f (s.fld (Adr.faceTblAddr f) 13 0)) v).nextEntry f

/-- `TBL_SEL_WRITE` (R143). -/
def execTblSelWrite (ag : Agent) (f : Fin 4) (v : Word) (s : State) : Out :=
  s.guardWrite ag (Adr.faceTblSel f) v (fun hit s => .next (s.writeTblSel f hit v))

/-- `TBL_DATA_ACCESS` (R143): a read by any agent, or a write. -/
def execTblDataAccess (ag : Agent) (f : Fin 4) (wr : Option Word) (s : State) : Out :=
  match wr with
  | some v => s.guardWrite ag (Adr.faceTblData f) v (fun _ s => .next (s.writeTbl f v))
  | none =>
    if !s.on (facePd f) then .next (s.retW ag 0)
    else
      let r := s.definedOr (Adr.faceTblData f) (s.readTbl f)
      .next (r.2.retW ag r.1)

end Sys2Proof.Machine
end

