-- ==== Sys2Proof/Machine/Operands.lean ====
section
/-!
DEFINITION. Tsumante syllables: operations and their forms (R302 to R305), reserved values (R299), operands and
immediates (R300, R301), addresses (R304), decoding of bundles (R291 to R298).
-/
namespace Sys2Proof.Machine

/-- The slots in which an operation has a cell. -/
inductive SlotKind where
  | al | al1 | mu | ls | br
deriving DecidableEq, Repr

/-- Slots, and whether the immediate, address and immediate-address forms have cells (R302 to R305). For `ld` and `st`
the address form is that of an A register. -/
def TOp.forms : TOp → SlotKind × Bool × Bool × Bool
  | .alNop | .neg | .abs | .not | .clz | .par | .brev => (.al, false, false, false)
  | .mov | .add | .sub | .and | .or | .shl | .shr => (.al, true, true, true)
  | .addc | .subc | .xor | .andn | .cmp | .tst | .min | .max | .minu | .maxu | .sar | .rol | .crcs =>
    (.al, true, false, false)
  | .dadd | .dsub | .dsl | .dsr => (.al1, true, false, false)
  | .dadc | .dsbc | .d2b | .b2d => (.al1, false, false, false)
  | .mul | .mulu | .fmul | .mpya | .mac | .msu | .muCrcs => (.mu, true, false, false)
  | .muNop | .fmpya | .fmac | .fmsu | .clra | .movta | .ext | .divq | .divr | .fdiv | .muPar | .muBrev =>
    (.mu, false, false, false)
  | .lsNop => (.ls, false, false, false)
  | .ld | .st => (.ls, false, true, false)
  | .brNop | .b | .call | .jr | .loop | .loopi | .halt => (.br, false, false, false)

/-- A slot is of a kind. -/
def SlotKind.has : SlotKind → Slot → Bool
  | .al, .al0 | .al, .al1 | .al1, .al1 | .mu, .mu0 | .mu, .mu1 | .ls, .ls0 | .ls, .ls1 | .br, .br => true
  | _, _ => false

/-- The syllable names a defined cell (R297, R302 to R305). -/
def TOp.defined (o : TOp) (y : Syl) : Bool :=
  let f := o.forms
  f.1.has y.slot && (if y.im && y.ad then f.2.2.2 else if y.im then f.2.1 else if y.ad then f.2.2.1 else true)

/-- Slot codes (R292). -/
def slotCode : Slot → Nat
  | .al0 => 0 | .al1 => 1 | .mu0 => 2 | .mu1 => 3 | .ls0 => 4 | .ls1 => 5 | .br => 6

/-- The addressing mode (R299, R304). -/
def modeOf (y : Syl) : Nat := let m := bits y.md.toNat 12 10; if 6 ≤ m then 0 else m

/-- OFF, signed (R304). -/
def offOf (y : Syl) : Int := sext 10 (bits y.md.toNat 9 0)

/-- A defined syllable claims an extension syllable (R298). -/
def TOp.claims (o : TOp) (y : Syl) : Bool :=
  match o with
  | .b | .call => y.sb == 1
  | .ld | .st => modeOf y == 5
  | _ => y.im && y.sb == 1

/-! ### Registers of a hewer (R299, R308) -/

/-- A D register as it stands. -/
def Hewer.dr (h : Hewer) (n : BitVec 5) : Word := SMap.get (fun _ => (0 : Word)) h.d n.toNat

/-- An A register; numbers 16 to 31 stand for 0 to 15. -/
def Hewer.ar (h : Hewer) (n : BitVec 5) : Word := SMap.get (fun _ => (0 : Word)) h.a (n.toNat % 16)

/-- An accumulator; numbers 4 to 31 stand for 0 to 3. -/
def Hewer.accr (h : Hewer) (n : BitVec 5) : BitVec 48 := SMap.get (fun _ => (0 : BitVec 48)) h.acc (n.toNat % 4)

/-- The short immediates of logical and unsigned operations are zero-extended (R300). -/
def TOp.zeroExt : TOp → Bool
  | .and | .or | .xor | .andn | .tst | .minu | .maxu | .mulu | .crcs | .muCrcs => true
  | _ => false

/-- The constant of an immediate form (R300). -/
def immOf (o : TOp) (y : Syl) (ext : Option Word) : Word :=
  if y.sb = 1 then ext.getD 0
  else if o.zeroExt then y.md.setWidth 20
  else y.md.signExtend 20

/-- Source B: the immediate, or the D register named in SB. -/
def Hewer.srcB (h : Hewer) (o : TOp) (y : Syl) (ext : Option Word) : Word := if y.im then immOf o y ext else h.dr y.sb

/-- Source A: a D register, in an address form an A register (R302). -/
def Hewer.srcA (h : Hewer) (y : Syl) : Word := if y.ad then h.ar y.sa else h.dr y.sa

/-- The saturating form is selected: S of a register form that is no address form (R300, R301, R311). -/
def satOf (y : Syl) : Bool := !y.im && !y.ad && y.md.toNat.testBit 12

/-- The syllable writes no flag: NF of a register form, or an address form (R301, R302). -/
def nfOf (y : Syl) : Bool := y.ad || (!y.im && y.md.toNat.testBit 11)

/-- The rounding mode; reserved ones truncate (R299, R301). -/
def rndOf (y : Syl) : Nat := if y.im then 0 else let r := bits y.md.toNat 10 8; if 4 ≤ r then 0 else r

/-- ESH (R301). -/
def eshOf (y : Syl) : Nat := bits y.md.toNat 4 0

/-- The address of an access and the update of its address register (R304). -/
def Hewer.address (h : Hewer) (y : Syl) (ext : Option Word) : Word × Option Word :=
  let an := h.ar y.sa
  let ao := an + BitVec.ofInt 20 (offOf y)
  match modeOf y with
  | 1 => (ao, none)
  | 2 => (an, some ao)
  | 3 => (ao, some ao)
  | 4 => (an + h.dr y.sb, none)
  | 5 => (ext.getD 0, none)
  | _ => (an, none)

/-! ### Decoding (R291 to R298, R302 to R305) -/

/-- The operations of the AL map from 0x00 and from 0x20. -/
def alOps : List TOp :=
  [.alNop, .mov, .add, .sub, .neg, .abs, .addc, .subc, .and, .or, .xor, .andn, .not, .cmp, .tst, .min, .max, .minu, .maxu,
   .shl, .shr, .sar, .rol, .clz, .crcs, .par, .brev]
/-- Those from 0x20. -/
def decOps : List TOp := [.dadd, .dadc, .dsub, .dsbc, .dsl, .dsr, .d2b, .b2d]
/-- The operations of the MU map from 0x00. -/
def muOps : List TOp := [.muNop, .mul, .mulu, .fmul, .mpya, .fmpya, .mac, .msu, .fmac, .fmsu, .clra, .movta, .ext]

/-- The operation that an opcode names in a slot. -/
def opOf (slot : Slot) (op : Nat) : Option TOp :=
  let o := op % 64
  match slot with
  | .al0 | .al1 => if o < 0x20 then alOps[o]? else decOps[o - 0x20]?
  | .mu0 | .mu1 =>
    if op.testBit 6 then none
    else if o < 0x0D then muOps[o]?
    else if o = 0x10 then some .divq else if o = 0x11 then some .divr else if o = 0x12 then some .fdiv
    else if o = 0x18 then some .muCrcs else if o = 0x19 then some .muPar else if o = 0x1A then some .muBrev else none
  | .ls0 | .ls1 => if op = 0 then some .lsNop else if op = 1 || op = 2 then some .ld else if op = 3 || op = 4 then some .st else none
  | .br => [TOp.brNop, .b, .call, .jr, .loop, .loopi, .halt][op]?

/-- The slot of a slot code below 7. -/
def slotOf (n : Nat) : Slot := ([Slot.al0, .al1, .mu0, .mu1, .ls0, .ls1].getD n .br)

/-- A 40-bit syllable read (R291 to R293). -/
def readSyl (w : BitVec 40) : RawSyl :=
  let v := w.toNat
  let sc := bits v 38 36
  if sc = 7 then if bits v 35 32 = 0 then .ext (BitVec.ofNat 20 v) else .reserved
  else
    let slot := slotOf sc
    let op := bits v 35 28
    let ls := sc = 4 || sc = 5
    .slot (opOf slot op)
      { slot := slot, im := sc < 4 && op.testBit 7, ad := if ls then op = 2 || op = 4 else sc < 2 && op.testBit 6,
        dst := BitVec.ofNat 5 (bits v 27 23), sa := BitVec.ofNat 5 (bits v 22 18), sb := BitVec.ofNat 5 (bits v 17 13),
        md := BitVec.ofNat 13 (bits v 12 0) }

/-- The syllables of the bundle at an address: up to STOP, the seventh slot syllable or the ninth syllable (R295). -/
def fetch (imem : SMap (BitVec 40)) (size : Nat) : Nat → Nat → Nat → List RawSyl
  | 0, _, _ => []
  | fuel + 1, pc, nslot =>
    let w := SMap.get (fun _ => (0 : BitVec 40)) imem pc
    let r := readSyl w
    let n := match r with
      | .slot _ _ => nslot + 1
      | _ => nslot
    if w.toNat.testBit 39 || n = 7 then [r] else r :: fetch imem size fuel ((pc + 1) % size) n

/-- The bundle at an address. -/
def fetchBundle (imem : SMap (BitVec 40)) (size pc : Nat) : List RawSyl := fetch imem size 9 pc 0

end Sys2Proof.Machine
end

