-- ==== Sys2Proof/Machine/Flags.lean ====
section
/-!
DEFINITION. The results and flags of the Tsumante operations (R308 to R324).
-/
namespace Sys2Proof.Machine

/-- What an operation delivers: a word or none, the flags it writes or none, the sticky bits it sets. -/
structure Res where
  v : Option Word := none
  fl : Option Flags := none
  sat : Bool := false
  dz : Bool := false
deriving DecidableEq, Repr

/-- Flags that describe a delivered word, with C and V (R310). -/
def wordFlags (w : Word) (c v : Bool) : Flags := { z := w == 0, n := w.msb, c := c, v := v }

/-- A word with flags, C and V as given. -/
def deliver (w : Word) (c v : Bool) : Res := { v := some w, fl := some (wordFlags w c v) }

/-- An exact result delivered over the signed range, modular or saturating (R312). -/
def signedRes (exact : Int) (c s : Bool) : Res :=
  let out := decide (exact < -524288) || decide (524287 < exact)
  let w := BitVec.ofInt 20 (if out && s then satInt exact (-524288) 524287 else exact)
  { deliver w c out with sat := out && s }

/-- SA + SB + carry (R310, R311). -/
def addRes (a b : Word) (c s : Bool) : Res :=
  signedRes (a.toInt + b.toInt + b2n c) (decide (2 ^ 20 ≤ a.toNat + b.toNat + b2n c)) s

/-- SA − SB − borrow (R310, R311). -/
def subRes (a b : Word) (w s : Bool) : Res :=
  signedRes (a.toInt - b.toInt - b2n w) (decide (b.toNat + b2n w ≤ a.toNat)) s

/-- A count: the low 6 bits (R314). -/
def countOf (b : Word) : Nat := b.toNat % 64

/-- Shift left (R314). -/
def shlRes (a b : Word) (s : Bool) : Res :=
  let n := countOf b
  signedRes (a.toInt * 2 ^ n) (decide (1 ≤ n) && decide (n ≤ 20) && a.toNat.testBit (20 - n)) s

/-- Shift right (R314). (DEDUCED, log 136) -/
def shrRes (a b : Word) : Res :=
  let n := countOf b
  deliver (a >>> n) (decide (1 ≤ n) && decide (n ≤ 20) && a.toNat.testBit (n - 1)) false

/-- Arithmetic shift right (R314). -/
def sarRes (a b : Word) : Res :=
  let n := countOf b
  deliver (a.sshiftRight n) (if n ≤ 20 then decide (1 ≤ n) && a.toNat.testBit (n - 1) else a.msb) false

/-- Leading zeros of a word, `k` bits to look at (R315). -/
def clzBits (a : Nat) : Nat → Nat
  | 0 => 0
  | k + 1 => if a.testBit k then 0 else 1 + clzBits a k

/-- The number of 1 bits below bit k. -/
def ones (a : Nat) : Nat → Nat
  | 0 => 0
  | k + 1 => b2n (a.testBit k) + ones a k

/-- Eight steps of a reflected CRC register (R315). -/
def crcSteps (p : Word) : Nat → Word → Word
  | 0, s => s
  | k + 1, s => crcSteps p k (if s.toNat.testBit 0 then (s >>> 1) ^^^ p else s >>> 1)

/-- `brev` (R315). -/
def brevWord (a : Word) : Word := BitVec.ofNat 20 ((List.range 20).foldl (fun v i => 2 * v + b2n (a.toNat.testBit i)) 0)

/-- `par` (R315). -/
def parWord (a : Word) : Word := BitVec.ofNat 20 (ones a.toNat 20 % 2)

/-! ### Packed decimal (R323, R324) -/

/-- Digit k of a word. -/
def digit (w : Word) (k : Nat) : Nat := bits w.toNat (4 * k + 3) (4 * k)

/-- A digit above 9. -/
def badDigit (w : Word) : Bool := (List.range 5).any (fun k => decide (9 < digit w k))

/-- Decimal addition from digit k up: the digits so far and the carry (R323). -/
def decAdd (a b : Word) : Nat → Nat → Nat → Nat → Nat × Nat
  | 0, _, c, v => (v, c)
  | n + 1, k, c, v =>
    let t := digit a k + digit b k + c
    if 10 ≤ t then decAdd a b n (k + 1) 1 (v + (t - 10) % 16 * 16 ^ k) else decAdd a b n (k + 1) 0 (v + t * 16 ^ k)

/-- Decimal subtraction from digit k up: the digits so far and the borrow (R323). -/
def decSub (a b : Word) : Nat → Nat → Nat → Nat → Nat × Nat
  | 0, _, w, v => (v, w)
  | n + 1, k, w, v =>
    if digit a k < digit b k + w then decSub a b n (k + 1) 1 (v + (digit a k + 26 - digit b k - w) % 16 * 16 ^ k)
    else decSub a b n (k + 1) 0 (v + (digit a k - digit b k - w) * 16 ^ k)

/-- A decimal result: N is 0 (R310). -/
def decRes (v : Nat) (c bad sat : Bool) : Res :=
  let w : Word := BitVec.ofNat 20 v
  { v := some w, fl := some { z := w == 0, n := false, c := c, v := bad }, sat := sat }

/-- `dadd`, `dadc` (R323). -/
def daddRes (a b : Word) (c s : Bool) : Res :=
  let r := decAdd a b 5 0 (b2n c) 0
  let ovf := r.2 == 1
  decRes (if ovf && s then 0x99999 else r.1) ovf (badDigit a || badDigit b) (ovf && s)

/-- `dsub`, `dsbc` (R323). -/
def dsubRes (a b : Word) (w s : Bool) : Res :=
  let r := decSub a b 5 0 (b2n w) 0
  let under := r.2 == 1
  decRes (if under && s then 0 else r.1) (!under) (badDigit a || badDigit b) (under && s)

/-- `dsl` (R324). -/
def dslRes (a b : Word) : Res :=
  let n := min (countOf b) 5
  decRes (a.toNat * 16 ^ n % 2 ^ 20) (a.toNat / 16 ^ (5 - n) != 0) (badDigit a) false

/-- `dsr` (R324). -/
def dsrRes (a b : Word) : Res :=
  let n := min (countOf b) 5
  decRes (a.toNat / 16 ^ n) (a.toNat % 16 ^ n != 0) (badDigit a) false

/-- `d2b` (R324). -/
def d2bRes (a : Word) : Res :=
  decRes (digit a 0 + 10 * digit a 1 + 100 * digit a 2 + 1000 * digit a 3 + 10000 * digit a 4) false (badDigit a) false

/-- The packed digits of a number below 100,000. -/
def packDec (n : Nat) : Nat :=
  n % 10 + 16 * (n / 10 % 10) + 256 * (n / 100 % 10) + 4096 * (n / 1000 % 10) + 65536 * (n / 10000 % 10)

/-- `b2d` (R324). -/
def b2dRes (a : Word) (s : Bool) : Res :=
  let big := decide (99999 < a.toNat)
  decRes (if big && s then 0x99999 else packDec (a.toNat % 100000)) false big (big && s)

/-! ### AL results (R311, R314, R315) -/

/-- The result of an AL operation on SA and SB, with C as it stood and the saturating form. -/
def alRes (o : TOp) (a b : Word) (c s : Bool) : Res :=
  match o with
  | .mov => deliver b false false
  | .add => addRes a b false s
  | .sub => subRes a b false s
  | .neg => subRes 0 a false s
  | .abs => { signedRes a.toInt.natAbs false s with }
  | .addc => addRes a b c s
  | .subc => subRes a b (!c) s
  | .and => deliver (a &&& b) false false
  | .or => deliver (a ||| b) false false
  | .xor => deliver (a ^^^ b) false false
  | .andn => deliver (a &&& ~~~ b) false false
  | .not => deliver (~~~ a) false false
  | .cmp => { subRes a b false false with v := none }
  | .tst => { deliver (a &&& b) false false with v := none }
  | .min => deliver (if a.slt b then a else b) false false
  | .max => deliver (if a.slt b then b else a) false false
  | .minu => deliver (if a.ult b then a else b) false false
  | .maxu => deliver (if a.ult b then b else a) false false
  | .shl => shlRes a b s
  | .shr => shrRes a b
  | .sar => sarRes a b
  | .rol => deliver (a.rotateLeft (countOf b % 20)) false false
  | .clz => deliver (BitVec.ofNat 20 (clzBits a.toNat 20)) false false
  | .crcs | .muCrcs => deliver (crcSteps b 8 a) false false
  | .par | .muPar => deliver (parWord a) false false
  | .brev | .muBrev => deliver (brevWord a) false false
  | .dadd => daddRes a b false s
  | .dadc => daddRes a b c s
  | .dsub => dsubRes a b false s
  | .dsbc => dsubRes a b (!c) s
  | .dsl => dslRes a b
  | .dsr => dsrRes a b
  | .d2b => d2bRes a
  | .b2d => b2dRes a s
  | _ => {}

/-! ### MU results (R316 to R322) -/

/-- The integer that a rounding mode selects for n / d, d > 0 (R319). -/
def roundQ (rnd : Nat) (n : Int) (d : Nat) : Int :=
  let q := n.fdiv d
  let r2 := 2 * (n - q * d)
  if rnd = 0 then q
  else if rnd = 1 then (if (d : Int) ≤ r2 then q + 1 else q)
  else if r2 < d then q
  else if (d : Int) < r2 then q + 1
  else if rnd = 2 then (if q % 2 = 0 then q else q + 1)
  else (if q < 0 then q + 1 else q)

/-- `mulu`: over the unsigned range (R312, R316). -/
def muluRes (a b : Word) (s : Bool) : Res :=
  let p := a.toNat * b.toNat
  let out := decide (2 ^ 20 ≤ p)
  { deliver (if out && s then 0xFFFFF else BitVec.ofNat 20 p) false out with sat := out && s }

/-- `divq` (R321). -/
def divqRes (a b : Word) : Res :=
  if b = 0 then { deliver (if a.msb then 0x80000 else 0x7FFFF) false false with dz := true }
  else if a = 0x80000 && b = 0xFFFFF then deliver 0x7FFFF false true
  else deliver (BitVec.ofInt 20 (a.toInt.tdiv b.toInt)) false false

/-- `divr` (R321). -/
def divrRes (a b : Word) : Res :=
  if b = 0 then { deliver a false false with dz := true }
  else deliver (BitVec.ofInt 20 (a.toInt.tmod b.toInt)) false false

/-- `fdiv` (R322). -/
def fdivRes (rnd : Nat) (a b : Word) : Res :=
  if b = 0 then { deliver (if a.msb then 0x80000 else 0x7FFFF) false false with dz := true }
  else if a = 0 then deliver 0 false false
  else if b.toInt.natAbs ≤ a.toInt.natAbs then deliver (if a.msb == b.msb then 0x7FFFF else 0x80000) false true
  else
    let n := a.toInt * 2 ^ 19
    deliver (BitVec.ofInt 20 (roundQ rnd (if b.msb then -n else n) b.toInt.natAbs)) false false

/-- `ext`: an accumulator shifted, rounded and delivered over the signed range (R320). -/
def extRes (acc : BitVec 48) (esh rnd : Nat) (s : Bool) : Res := signedRes (roundQ rnd acc.toInt (2 ^ esh)) false s

/-- The word results of the MU slots other than `ext`. -/
def muRes (o : TOp) (a b : Word) (rnd : Nat) (s : Bool) : Res :=
  match o with
  | .mul => signedRes (a.toInt * b.toInt) false s
  | .mulu => muluRes a b s
  | .fmul => signedRes (roundQ rnd (a.toInt * b.toInt) (2 ^ 19)) false s
  | .divq => divqRes a b
  | .divr => divrRes a b
  | .fdiv => fdivRes rnd a b
  | .muCrcs | .muPar | .muBrev => alRes o a b false false
  | _ => {}

/-- What an accumulator operation does to its accumulator (R317, R318). -/
def accRes (o : TOp) (a b : Word) : FVal :=
  let p := a.toInt * b.toInt
  match o with
  | .mpya => .accSet (BitVec.ofInt 48 p)
  | .fmpya => .accSet (BitVec.ofInt 48 (2 * p))
  | .mac => .accAdd p
  | .msu => .accAdd (-p)
  | .fmac => .accAdd (2 * p)
  | .fmsu => .accAdd (-(2 * p))
  | .movta => .accSet (BitVec.ofInt 48 (a.toInt * 2 ^ 20))
  | _ => .accSet 0

/-- The flags of an accumulator operation: those that set the accumulator describe its value, the accumulating ones
write none (R309, R310). -/
def accFlags : FVal → Option Flags
  | .accSet v => some { z := v == 0, n := v.msb, c := false, v := false }
  | _ => none

/-! ### Conditions (R305) -/

/-- A branch condition, tested against the flags and sticky bits. -/
def condHolds (cond : Nat) (f : Flags) (sat dz : Bool) : Bool :=
  match cond with
  | 0 => true
  | 1 => f.z
  | 2 => !f.z
  | 3 => f.n
  | 4 => !f.n
  | 5 => f.c
  | 6 => !f.c
  | 7 => f.v
  | 8 => !f.v
  | 9 => !f.z && f.n == f.v
  | 10 => f.n == f.v
  | 11 => f.n != f.v
  | 12 => f.z || f.n != f.v
  | 13 => f.c && !f.z
  | 14 => !f.c || f.z
  | 15 => sat
  | 16 => dz
  | _ => false

end Sys2Proof.Machine
end

