-- ==== Sys2Proof/Machine/Hewer.lean ====
section
/-!
DEFINITION. Hewers and the foreman (R262 to R270, R282 to R285, R295 to R298, R306, R309, R318, R325 to R332): one
syllable of a bundle, the end of a bundle, results landing, loops and branches, and the control registers.
-/
namespace Sys2Proof.Machine

/-! ### One syllable -/

/-- Where a core's addresses change meaning: its own data memory below the first, instruction memory of the second size,
shared memory from the third (R266, R285, R291). -/
structure CoreKind where
  own : Nat
  imem : Nat
  shared : Nat
deriving DecidableEq, Repr

/-- A hewer, or the foreman. -/
def coreKind (k : Nat) : CoreKind := if k = 64 then ⟨0x40000, 0x10000, 0x100000⟩ else ⟨0x20000, 0x8000, 0x80000⟩

/-- An undefined syllable (R297). -/
def Hewer.illegal (h : Hewer) : Hewer := { h with cur := { h.cur with ill := true } }

/-- A result due in a later bundle (R269). -/
def Hewer.result (h : Hewer) (t : Target) (v : FVal) (lat : Nat) : Hewer :=
  { h with cur := { h.cur with flights := h.cur.flights ++ [{ tgt := t, val := v, land := h.cyc + lat }] } }

/-- Flags and sticky bits of a syllable (R306, R309): the highest slot code stands. -/
def Hewer.mark (h : Hewer) (y : Syl) (r : Res) (nf : Bool) : Hewer :=
  let c := h.cur
  let fl := match r.fl with
    | some f => if nf then c.flags
      else if c.flags.all (fun p => decide (p.1 < slotCode y.slot)) then some (slotCode y.slot, f) else c.flags
    | none => c.flags
  { h with cur := { c with flags := fl, sat := c.sat || r.sat, dz := c.dz || r.dz } }

/-- A word delivered to DST with its flags. -/
def Hewer.put (h : Hewer) (y : Syl) (r : Res) (lat : Nat) : Hewer :=
  let h := h.mark y r (nfOf y)
  match r.v with
  | some w => h.result (if y.ad then .a (y.dst.toNat % 16) else .d y.dst.toNat) (.word w) lat
  | none => h

/-- An AL operation (R302, R311). -/
def Hewer.al (h : Hewer) (o : TOp) (y : Syl) (ext : Option Word) : Hewer :=
  h.put y (alRes o (h.srcA y) (h.srcB o y ext) h.fl.c (satOf y)) 1

/-- An MU operation with a word result (R303, R316, R321). -/
def Hewer.mu (h : Hewer) (o : TOp) (y : Syl) (ext : Option Word) (lat : Nat) : Hewer :=
  h.put y (muRes o (h.dr y.sa) (h.srcB o y ext) (rndOf y) (satOf y)) lat

/-- An accumulator operation (R317, R318). -/
def Hewer.acc48 (h : Hewer) (o : TOp) (y : Syl) (ext : Option Word) : Hewer :=
  let v := accRes o (h.dr y.sa) (h.srcB o y ext)
  (h.mark y { fl := accFlags v } (nfOf y)).result (.acc (y.dst.toNat % 4)) v 3

/-- A load or a store (R264, R266, R267, R304, R325). A shared-range access of LS1 is settled at the end of the bundle. -/
def Hewer.access (h : Hewer) (ck : CoreKind) (st : Bool) (y : Syl) (ext : Option Word) : Hewer :=
  let a := h.address y ext
  let upd : List Flight := match a.2 with
    | some w => [{ tgt := .a (y.sa.toNat % 16), val := .word w, land := h.cyc + 1 }]
    | none => []
  let tgt : Target := if y.ad then .a (y.dst.toNat % 16) else .d y.dst.toNat
  let data := if y.ad then h.ar y.dst else h.dr y.dst
  let n := a.1.toNat
  let c := h.cur
  if n < ck.own then
    let c := { c with flights := c.flights ++ upd }
    if st then { h with cur := { c with stores := c.stores ++ [(slotCode y.slot, n, data)] } }
    else { h with cur := { c with
      flights := c.flights ++ [{ tgt := tgt, val := .word (SMap.get (fun _ => (0 : Word)) h.dmem n), land := h.cyc + 3 }] } }
  else
    let p : PortAcc := { addr := n, wr := if st then some data else none, tgt := if st then none else some tgt,
                         at_ := h.cyc + 4, land := h.cyc + (if ck.shared ≤ n then 8 else 12) }
    if y.slot = .ls1 then { h with cur := { c with port1 := some (p, upd) } }
    else { h with cur := { c with port0 := some p, flights := c.flights ++ upd } }

/-- An address in instruction memory. -/
def iaddr (ck : CoreKind) (v : Int) : Nat := (v % (ck.imem : Int)).toNat

/-- The target of `b` and `call` (R305). -/
def Hewer.target (h : Hewer) (ck : CoreKind) (y : Syl) (ext : Option Word) : Nat :=
  if y.sb = 1 then (ext.getD 0).toNat % ck.imem else iaddr ck ((h.pc.toNat : Int) + sext 13 y.md.toNat)

/-- A branch action of the bundle. -/
def Hewer.act (h : Hewer) (a : BrAct) (link : Option Nat) : Hewer := { h with cur := { h.cur with br := a, link := link } }

/-- The loop number (R299, R305). -/
def loopNo (y : Syl) : Nat := y.dst.toNat % 4

/-- `loop`, `loopi` (R329): LBn is set at the end of the bundle. -/
def Hewer.startLoop (h : Hewer) (ck : CoreKind) (y : Syl) (count : Word) : Hewer :=
  h.act (.loop (loopNo y) 0 (iaddr ck ((h.pc.toNat : Int) + y.md.toNat)) count) none

/-- A defined syllable whose claims are met (R302 to R331). The link of `call` is written at the end of the bundle. -/
def Hewer.run1 (h : Hewer) (ck : CoreKind) (o : TOp) (y : Syl) (ext : Option Word) : Hewer :=
  match o with
  | .alNop | .muNop | .lsNop | .brNop => h
  | .mov | .add | .sub | .neg | .abs | .addc | .subc | .and | .or | .xor | .andn | .not | .cmp | .tst | .min | .max | .minu
  | .maxu | .shl | .shr | .sar | .rol | .clz | .crcs | .par | .brev | .dadd | .dadc | .dsub | .dsbc | .dsl | .dsr | .d2b
  | .b2d => h.al o y ext
  | .mul | .mulu | .fmul | .muCrcs | .muPar | .muBrev => h.mu o y ext 3
  | .divq | .divr | .fdiv => h.mu o y ext 12
  | .mpya | .fmpya | .mac | .msu | .fmac | .fmsu | .clra | .movta => h.acc48 o y ext
  | .ext => h.put y (extRes (h.accr y.sa) (eshOf y) (rndOf y) (satOf y)) 3
  | .ld => h.access ck false y ext
  | .st => h.access ck true y ext
  | .b => if condHolds y.dst.toNat h.fl h.sat h.dz then h.act (.goto (h.target ck y ext)) none else h
  | .jr => if condHolds y.dst.toNat h.fl h.sat h.dz then h.act (.goto ((h.dr y.sa).toNat % ck.imem)) none else h
  | .call => h.act (.goto (h.target ck y ext)) (some y.dst.toNat)
  | .loop => h.startLoop ck y (h.dr y.sa)
  | .loopi => h.startLoop ck y (BitVec.ofNat 20 (y.sb.toNat + 32 * y.sa.toNat))
  | .halt => h.act .halt none

/-- LB of a loop, LE, LC. -/
def Hewer.lbv (h : Hewer) (n : Nat) : Nat := (SMap.get (fun _ => (0 : BitVec 16)) h.lb n).toNat
/-- LE -/
def Hewer.lev (h : Hewer) (n : Nat) : Nat := (SMap.get (fun _ => (0 : BitVec 16)) h.le n).toNat
/-- LC -/
def Hewer.lcv (h : Hewer) (n : Nat) : Nat := (SMap.get (fun _ => (0 : Word)) h.lc n).toNat

/-- An address lies from LB up to and including LE of a loop. Addresses wrap (R295); an end offset reaches at most 8,191
syllables on, so an LE farther away lies before LB, and the body is empty. (DEDUCED, log 156) -/
def Hewer.inBody (h : Hewer) (ck : CoreKind) (n a : Nat) : Bool :=
  let from_ := fun (x : Nat) => (x + ck.imem - h.lbv n) % ck.imem
  decide (from_ (h.lev n) < 8192) && decide (from_ a ≤ from_ (h.lev n))

/-- A bundle is annulled: a loop that was started with count 0 passes over its body (R331). -/
def Hewer.annulled (h : Hewer) (ck : CoreKind) : Bool := h.loops.any (fun n => h.lcv n == 0 && h.inBody ck n h.pc.toNat)

/-- A slot syllable taken into the bundle (R296 to R298): `o` is the operation its opcode names, `ext` the extension
syllable assigned to it. (DEDUCED, log 139) -/
def Hewer.slotSyl (h : Hewer) (ck : CoreKind) (o : Option TOp) (y : Syl) (ext : Option Word) : Hewer :=
  let dup := h.cur.slots.contains y.slot
  let h := { h with cur := { h.cur with slots := y.slot :: h.cur.slots, syls := h.cur.syls + 1 } }
  if h.annulled ck then h
  else
    match o with
    | none => h.illegal
    | some o =>
      if dup || !o.defined y then h.illegal
      else if o.claims y then (if ext.isSome then h.run1 ck o y ext else h.illegal)
      else h.run1 ck o y none

/-- Syllables of no slot taken into the bundle: how many, and whether one of them is undefined: an extension that no
claimant takes or that comes third, or a reserved slot code (R293, R298). -/
def Hewer.otherSyls (h : Hewer) (ck : CoreKind) (n : Nat) (bad : Bool) : Hewer :=
  let h := { h with cur := { h.cur with syls := h.cur.syls + n } }
  if bad && !h.annulled ck then h.illegal else h

/-! ### The end of a bundle -/

/-- LS0 and LS1 in the shared range: LS1 is undefined (R264). (DEDUCED, log 70) -/
def Hewer.settlePorts (h : Hewer) : Hewer :=
  match h.cur.port0, h.cur.port1 with
  | some p, some _ => { h with ports := h.ports ++ [p], cur := { h.cur with ill := true } }
  | some p, none => { h with ports := h.ports ++ [p] }
  | none, some (p, fs) => { h with ports := h.ports ++ [p], cur := { h.cur with flights := h.cur.flights ++ fs } }
  | none, none => h

/-- Stores to own memory take effect, LS0 before LS1 (R267). -/
def Hewer.commitStores (h : Hewer) : Hewer :=
  let put := fun (m : SMap Word) (c : Nat) =>
    h.cur.stores.foldl (fun m (s : Nat × Nat × Word) => if s.1 = c then SMap.set (fun _ => (0 : Word)) m s.2.1 s.2.2 else m) m
  { h with dmem := put (put h.dmem 4) 5 }

/-- Flags, sticky bits and ILLADR at the end of the bundle (R297, R306, R309). -/
def Hewer.commitFlags (h : Hewer) : Hewer :=
  let c := h.cur
  { h with
    fl := match c.flags with
      | some p => p.2
      | none => h.fl
    sat := h.sat || c.sat, dz := h.dz || c.dz
    illadr := if c.ill && !h.illop then h.pc else h.illadr
    illop := h.illop || c.ill }

/-- The loops that a taken branch ends at its issue (R332). -/
def Hewer.leaveLoops (h : Hewer) (ck : CoreKind) (t : Nat) : Hewer :=
  { h with loops := h.loops.filter (fun n => !(h.inBody ck n h.pc.toNat && !h.inBody ck n t)) }

/-- The loops that end at this bundle, the most recently started first: the address to go round to, if one does (R330,
R331). -/
def Hewer.evalLoops : List Nat → Hewer → Hewer × Option Nat
  | [], h => (h, none)
  | n :: ns, h =>
    if h.lev n ≠ h.pc.toNat then Hewer.evalLoops ns h
    else if 1 < h.lcv n then
      ({ h with lc := SMap.set (fun _ => (0 : Word)) h.lc n (BitVec.ofNat 20 (h.lcv n - 1)) }, some (h.lbv n))
    else
      Hewer.evalLoops ns { h with lc := SMap.set (fun _ => (0 : Word)) h.lc n 0, loops := h.loops.filter (fun m => m != n) }

/-- The BR action of the bundle: a branch and its delay bundles, a loop, a halt (R326 to R332). A `halt` in the delay
bundles of another changes nothing. -/
def Hewer.brAct (h : Hewer) (ck : CoreKind) (next : Nat) : Hewer :=
  match h.cur.br with
  | .none_ => h
  | .goto t =>
    let h := if h.cur.link.isSome then h else h.leaveLoops ck t
    { h with branch := h.branch ++ [(3, t)] }
  | .loop n _ last count =>
    { h with lb := SMap.set (fun _ => (0 : BitVec 16)) h.lb n (BitVec.ofNat 16 next),
             le := SMap.set (fun _ => (0 : BitVec 16)) h.le n (BitVec.ofNat 16 last),
             lc := SMap.set (fun _ => (0 : Word)) h.lc n count,
             loops := h.loops.filter (fun m => m != n) ++ [n] }
  | .halt => { h with haltIn := some (h.haltIn.getD 3) }

/-- No delay bundle of a branch or of a `halt` is pending: RUN 0 stops the core here (R282, R305, R327).
(DEDUCED, log 67) -/
def Hewer.noDelay (h : Hewer) : Bool := h.branch.isEmpty && h.haltIn.isNone

/-- The next bundle issued (R328), and the halt (R282, R305): `fell` tells that RUN went to 0 by a `halt`. -/
def Hewer.advancePc (h : Hewer) (ck : CoreKind) : Hewer × Bool :=
  let next := (h.pc.toNat + h.cur.syls) % ck.imem
  let h := h.brAct ck next
  let r := Hewer.evalLoops h.loops.reverse h
  let h := r.1
  let left := h.branch.map (fun p => (p.1 - 1, p.2))
  let due := (left.find? (fun p => p.1 == 0)).map Prod.snd
  let pc := match due, r.2 with
    | some t, _ => t
    | none, some t => t
    | none, none => next
  let hi := h.haltIn.map (· - 1)
  let fell := hi == some 0
  let h := { h with branch := left.filter (fun p => p.1 != 0), pc := BitVec.ofNat 16 pc,
                    haltIn := if fell then none else hi, halting := h.halting || fell }
  (if h.halting && h.noDelay then { h with running := false, halting := false } else h, fell)

/-- The results staged in the bundle are in flight; the next bundle begins. -/
def Hewer.nextBundle (h : Hewer) : Hewer := { h with flight := h.flight ++ h.cur.flights, cur := {}, cyc := h.cyc + 1 }

/-- The end of a bundle, before results land. -/
def Hewer.commit (h : Hewer) (ck : CoreKind) : Hewer × Bool :=
  let r := h.settlePorts.commitStores.commitFlags.advancePc ck
  (r.1.nextBundle, r.2)

/-- Syllables of a fetched bundle with the extension syllables they claim (R298): claimants in order take the first
two extensions. -/
def assignExt : List RawSyl → List Slot → List Word → List (Option TOp × Syl × Option Word)
  | [], _, _ => []
  | .slot o y :: l, seen, es =>
    let first := !seen.contains y.slot
    let claim := first && (match o with
      | some o => o.defined y && o.claims y
      | none => false)
    match claim, es with
    | true, e :: es => (o, y, some e) :: assignExt l (y.slot :: seen) es
    | _, _ => (o, y, none) :: assignExt l (y.slot :: seen) es
  | _ :: l, seen, es => assignExt l seen es

/-- The extensions of a bundle. -/
def extsOf (l : List RawSyl) : List Word := l.filterMap (fun r => match r with
  | .ext w => some w
  | _ => none)

/-- A fetched bundle taken in: its slot syllables, its extensions, its reserved slot codes (R293 to R298). -/
def Hewer.takeBundle (h : Hewer) (ck : CoreKind) (l : List RawSyl) : Hewer :=
  let es := extsOf l
  let as := assignExt l [] (es.take 2)
  let used := (as.filter (fun a => a.2.2.isSome)).length
  let h := h.otherSyls ck es.length (decide (2 < es.length) || decide (used < (es.take 2).length))
  let res := (l.filter (· == .reserved)).length
  let h := h.otherSyls ck res (decide (0 < res))
  as.foldl (fun h a => h.slotSyl ck a.1 a.2.1 a.2.2) h

/-! ### Results landing (R269, R270, R318) -/

/-- A register after a result lands. -/
def Hewer.landOne (h : Hewer) (f : Flight) : Hewer :=
  match f.tgt, f.val with
  | .d n, .word w => { h with d := SMap.set (fun _ => (0 : Word)) h.d n w }
  | .a n, .word w => { h with a := SMap.set (fun _ => (0 : Word)) h.a n w }
  | .acc n, .accSet v => { h with acc := SMap.set (fun _ => (0 : BitVec 48)) h.acc n v }
  | .acc n, .accAdd p =>
    { h with acc := SMap.set (fun _ => (0 : BitVec 48)) h.acc n (SMap.get (fun _ => (0 : BitVec 48)) h.acc n + BitVec.ofInt 48 p) }
  | _, _ => h

/-- A free value for a register in which two results land at once (R270). -/
def freeFor (t : Target) (v : Nat) : FVal :=
  match t with
  | .acc _ => .accSet (BitVec.ofNat 48 v)
  | _ => .word (BitVec.ofNat 20 v)

/-- Results landing in this bundle, one register after the other; two in one register leave a free value.
(DEDUCED, log 137) -/
def State.landList (s : State) (k : Nat) : Nat → List Flight → State
  | 0, _ => s
  | _, [] => s
  | n + 1, f :: fs =>
    let rest := fs.filter (fun g => g.tgt != f.tgt)
    if rest.length = fs.length then (s.setCore k ((s.core k).landOne f)).landList k n fs
    else
      let d := s.draw
      (d.2.setCore k ((s.core k).landOne { f with val := freeFor f.tgt d.1 })).landList k n rest

/-- The results due in the bundle of core k land. -/
def State.land (s : State) (k : Nat) : State :=
  let h := s.core k
  let due := h.flight.filter (fun f => f.land ≤ h.cyc)
  (s.setCore k { h with flight := h.flight.filter (fun f => h.cyc < f.land) }).landList k due.length due

/-! ### Port accesses (R264, R265) -/

/-- A write of SW.CMD (R286): a request queued with its place, or CFGERR where 8 are outstanding or the encoding is
reserved. (DESIGN CHOICE, log 72) -/
def State.swCmd (s : State) (w : Word) : State :=
  let c := bits w.toNat 1 0
  if c = 0 || c = 3 || decide (8 ≤ s.swq.length) then s.setFlag Adr.foremanSwStatusCfgerr 0 true
  else
    let a := BitVec.ofNat 40 ((s.reg Adr.foremanSwAddrL).toNat + 2 ^ 20 * (s.reg Adr.foremanSwAddrH).toNat)
    s.setSwq (s.swq ++ [{ addr := a, wr := if c = 2 then some (s.reg Adr.foremanSwWdata) else none,
                          pos := ((s.reg Adr.foremanSwDone).toNat + s.swq.length) % 8 }])

/-- `SW_READ` (R286): SW.CMD written READ by the foreman. -/
def execSwRead (s : State) : Out := if s.on 1 then .next (s.swCmd 1) else .next s

/-- `SW_WRITE` (R286): SW.CMD written WRITE by the foreman. -/
def execSwWrite (s : State) : Out := if s.on 1 then .next (s.swCmd 2) else .next s

/-- An access of the foreman outside its own memory (R285, R288): its ends of the boxes and the system window. -/
def foremanPort (a : Nat) (wr : Option Word) (s : State) : Word × Out :=
  if a < 0x50000 then
    let n := (a - 0x40000) / 0x40
    if n < 80 then
      let r := s.boxAccess .foreman n true (a % 0x40) wr
      (r.1, .next r.2)
    else (0, .next s)
  else if a < 0x50100 then
    let f := Adr.foremanSwAddrL + 4 * (a - 0x50000)
    match wr, RegMap.find f with
    | none, _ => (if f = Adr.foremanSwPend then BitVec.ofNat 20 s.swq.length else s.reg f, .next s)
    | some _, none => (0, .next s)
    | some w, some hit => (0, .next (if f = Adr.foremanSwCmd then s.swCmd w else s.store hit f w))
  else (0, .next s)

/-- An access of core k through its port. -/
def corePort (k a : Nat) (wr : Option Word) (s : State) : Word × Out :=
  if k = 64 then foremanPort a wr s else hewerPort (Fin.ofNat 8 (k / 8)) (Fin.ofNat 8 (k % 8)) a wr s

/-- Accesses performed in order; a load's result is in flight from then on. -/
def portList (k : Nat) : List PortAcc → State → Out
  | [], s => .next s
  | p :: ps, s =>
    let r := corePort k p.addr p.wr s
    Out.andThen r.2 (fun s =>
      let s := match p.tgt with
        | some t =>
          let h := s.core k
          s.setCore k { h with flight := h.flight ++ [{ tgt := t, val := .word r.1, land := p.land }] }
        | none => s
      portList k ps s)

/-- The accesses and results of core k that are due in the bundle it has come to. -/
def settleCore (k : Nat) (s : State) : Out :=
  let h := s.core k
  let due := h.ports.filter (fun p => p.at_ ≤ h.cyc)
  let s := s.setCore k { h with ports := h.ports.filter (fun p => h.cyc < p.at_) }
  Out.andThen (portList k due s) (fun s => .next (s.land k))

/-- HCTRL.RUN of core k read 0 from now on (R305). -/
def State.clearRun (s : State) (k : Nat) : State := if k = 64 then s else s.setFlag (Adr.benchHctrl (k / 8) (k % 8)) 0 false

/-- The state an outcome leaves, or the state before where it leaves none. -/
def Out.stateOr (o : Out) (s : State) : State :=
  match o with
  | .next t => t
  | _ => s

/-- The address after the second delay bundle of a `call` in the bundle of core k: the first delay bundle is the one that is
issued next, with the results that have landed by then, the second follows it by R328 as instruction memory holds it (R305).
(DEDUCED, log 69) -/
def linkAddr (k : Nat) (s : State) : Nat :=
  let ck := coreKind k
  let h1 := ((settleCore k (s.setCore k ((s.core k).commit ck).1)).stateOr s).core k
  let h2 := ((h1.takeBundle ck (fetchBundle h1.imem ck.imem h1.pc.toNat)).settlePorts.commitFlags.advancePc ck).1
  (h2.pc.toNat + (fetchBundle h1.imem ck.imem h2.pc.toNat).length) % ck.imem

/-- The link of a `call`: a result with the AL latency (R305). -/
def State.setLink (s : State) (k : Nat) : State :=
  match (s.core k).cur.link with
  | some n => s.setCore k ((s.core k).result (.d n) (.word (BitVec.ofNat 20 (linkAddr k s))) 1)
  | none => s

/-- The end of the bundle of core k. -/
def endBundle (k : Nat) (s : State) : Out :=
  let s := s.setLink k
  let r := (s.core k).commit (coreKind k)
  let s := s.setCore k r.1
  settleCore k (if r.2 then s.clearRun k else s)

/-- The syllables `l` issued as a bundle of core k. -/
def issueSyls (k : Nat) (l : List RawSyl) (s : State) : Out :=
  endBundle k (s.setCore k ({ s.core k with raw := [] }.takeBundle (coreKind k) l))

/-- A core that was told to halt stops at a bundle boundary where no delay bundle is pending (R282). What it has issued
goes on: results land and accesses are performed in their cycles. -/
def haltCore (k : Nat) (s : State) : Out :=
  let h := s.core k
  if h.running && h.halting && h.noDelay && h.raw.isEmpty then .next (s.setCore k { h with running := false, halting := false })
  else .next s

/-- One cycle of a core. A running core issues the bundle at PC (R262), or the one that commands have begun, or halts; for a
halted one the cycle passes in which its accesses and results become due (R264, R269, R282). (DEDUCED, log 68) -/
def issue (k : Nat) (s : State) : Out :=
  let h := s.core k
  if !h.running then
    if h.ports.isEmpty && h.flight.isEmpty then .next s else settleCore k (s.setCore k { h with cyc := h.cyc + 1 })
  else if h.halting && h.noDelay && h.raw.isEmpty then haltCore k s
  else issueSyls k (if h.raw.isEmpty then fetchBundle h.imem (coreKind k).imem h.pc.toNat else h.raw) s

/-- One bench cycle of a hewer whose bench is powered. -/
def hewerCycle (k : Nat) (s : State) : Out := if s.on (benchPd (k / 8)) then issue k s else .next s

/-! ### Control registers (R282 to R284) -/

/-- A hewer reset (R282): registers, loops, flags and sticky bits are 0, results in flight are dropped, PC is START. Accesses
already issued are still performed; their loads' results are dropped. -/
def Hewer.reset (h : Hewer) (start : Nat) : Hewer :=
  { dmem := h.dmem, imem := h.imem, cyc := h.cyc, pc := BitVec.ofNat 16 start, fwOff := h.fwOff,
    ports := h.ports.map (fun p => { p with tgt := none }) }

/-- Sticky bits cleared (R284). -/
def Hewer.clearSticky (h : Hewer) : Hewer := { h with illop := false, sat := false, dz := false, illadr := 0 }

/-- A hewer with RUN written (R282): one that runs the symbology firmware (`fw`) goes on with it or halts. -/
def Hewer.setRun (h : Hewer) (fw run : Bool) : Hewer :=
  if fw then { h with fwOff := !run }
  else if run then { h with running := true, halting := false } else { h with halting := h.running }

/-- A write of HCTRL (R282): CLRSTK acts first, then RESET, then RUN. -/
def State.writeHctrl (s : State) (b i : Nat) (w : Word) : State :=
  let k := 8 * b + i
  let a := Adr.benchHctrl b i
  let halted := !s.runBit k && !(s.core k).running
  let s := if w.toNat.testBit 2 then s.setCore k (s.core k).clearSticky else s
  let s :=
    if w.toNat.testBit 1 then
      if halted then s.setCore k ((s.core k).reset (s.fld (Adr.benchStart b i) 14 0))
      else s.setFlag (Adr.benchStatus b) 0 true
    else s
  let run := w.toNat.testBit 0
  (s.setFlag a 0 run).setCore k ((s.core k).setRun (s.fwRuns b) run)

/-- A write of HCTRL by an agent: no hewer reaches it (R284). -/
def hctrlWrite (ag : Agent) (b i : Nat) (w : Word) (s : State) : Out :=
  match ag with
  | .hewer _ _ => .next s
  | _ => s.guardWrite ag (Adr.benchHctrl b i) w (fun _ s => .next (s.writeHctrl b i w))

/-- HCTRL as a write that changes nothing but the bits given. -/
def State.hctrlWord (s : State) (b i : Nat) (extra : Nat) : Word := BitVec.ofNat 20 (b2n (s.runBit (8 * b + i)) + extra)

/-- `HEWER_RUN` (R282): RUN written 1. -/
def execHewerRun (ag : Agent) (b h : Fin 8) (s : State) : Out := hctrlWrite ag b h 1 s

/-- `HEWER_STOP` (R282): RUN written 0. -/
def execHewerStop (ag : Agent) (b h : Fin 8) (s : State) : Out := hctrlWrite ag b h 0 s

/-- `HEWER_RESET` (R282): RESET written 1, RUN as it stands. -/
def execHewerReset (ag : Agent) (b h : Fin 8) (s : State) : Out := hctrlWrite ag b h (s.hctrlWord b h 2) s

/-- `CLRSTK` (R284): CLRSTK written 1, RUN as it stands. -/
def execClrstk (ag : Agent) (b h : Fin 8) (s : State) : Out := hctrlWrite ag b h (s.hctrlWord b h 4) s

/-- The number of a core: 8b + h, the foreman 64. -/
def coreIdx : Core → Nat
  | .hewer b h => 8 * b.val + h.val
  | .foreman => 64

/-- `HEWER_HALT` (R282). -/
def execHewerHalt (c : Core) (s : State) : Out := haltCore (coreIdx c) s

/-! ### The memory access port (R283) -/

/-- The size of the space that MA_SEL selects. -/
def maSize (space : Nat) : Nat := if space = 0 then 0x80000 else if space = 1 then 0x20000 else 0x8000

/-- MA_ADDR after an access (R283). -/
def State.maNext (s : State) (b : Nat) : State :=
  let n := maSize (s.fld (Adr.benchMaSel b) 1 0)
  s.setReg (Adr.benchMaAddr b) (BitVec.ofNat 20 (((s.reg (Adr.benchMaAddr b)).toNat % n + 1) % n))

/-- An access to MA_DATA (R283) by reader r: what a read returns, and the state after it. A write takes the bits that the
last write of MA_DATAH staged; a read latches the upper bits for its reader (R490). -/
def State.maAccess (s : State) (r b : Nat) (wr : Option Word) : Word × State :=
  let space := s.fld (Adr.benchMaSel b) 1 0
  let hw := s.fld (Adr.benchMaSel b) 4 2
  if space ≠ 0 && s.hewerRuns (8 * b + hw) then (0, s.setFlag (Adr.benchStatus b) 0 true)
  else
    let i := (s.reg (Adr.benchMaAddr b)).toNat % maSize space
    let a := if space = 0 then 0x80000 + i else i
    match wr with
    | some w =>
      let v := if space = 2 then w.toNat + 2 ^ 20 * (s.reg (Adr.benchMaDatah b)).toNat else w.toNat
      (0, (s.localPut b space hw a v).maNext b)
    | none =>
      let v := s.localGet b space hw a
      let s := if space = 2 then s.setLatch (latchKey r (Adr.benchMaDatah b)) (BitVec.ofNat 20 (v / 2 ^ 20)) else s
      (BitVec.ofNat 20 v, s.maNext b)

/-- `MA_DATA_ACCESS` (R283). No hewer reaches the port (R284). -/
def execMaDataAccess (ag : Agent) (b : Fin 8) (wr : Option Word) (s : State) : Out :=
  match ag, wr with
  | .hewer _ _, _ => .next s
  | _, some w => s.guardWrite ag (Adr.benchMaData b) w (fun _ s => .next (s.maAccess (readerOf ag) b wr).2)
  | _, none =>
    if s.on (benchPd b) then
      let r := s.definedOr (Adr.benchMaData b) (s.maAccess (readerOf ag) b none)
      .next (r.2.retW ag r.1)
    else .next (s.retW ag 0)

/-- `MA_DATAH_WRITE` (R283). -/
def execMaDatahWrite (ag : Agent) (b : Fin 8) (v : Word) (s : State) : Out :=
  match ag with
  | .hewer _ _ => .next s
  | _ => s.guardWrite ag (Adr.benchMaDatah b) v (fun hit s => .next (s.store hit (Adr.benchMaDatah b) v))

end Sys2Proof.Machine
end

