-- ==== Sys2Proof/Machine/Sample.lean ====
section
/-!
DEFINITION. What the symbology firmware reads from a patch (R223, R225 to R228): module samples, confidences, codewords,
format and version information, scan rows and their votes.
-/
namespace Sys2Proof
namespace Machine

/-! ### The patch (R217) -/

/-- A patch in hand: its rows of 8-bit pixels, and for each pixel the number 4h + p of the head and plane that supplied it,
64 for a filled one. -/
structure Patch where
  w : Nat
  h : Nat
  px : List (List Nat)
  src : List (List Nat)
deriving DecidableEq, Repr

/-- A list cut into slices of `n`, at most `fuel` of them. -/
def slices {α : Type} (n : Nat) : Nat → List α → List (List α)
  | 0, _ => []
  | f + 1, l => l.take n :: slices n f (l.drop n)

/-- Run lengths written out. -/
def unrun (l : List (Nat × Nat)) : List Nat := l.flatMap (fun p => List.replicate p.1 p.2)

/-- The two pixels of a patch word. -/
def wordPixels (w : Word) : List Nat := [w.toNat % 256, w.toNat / 1024 % 256]

/-- The patch of an entry, as its slot in shared memory holds it. -/
def State.patchOf (s : State) (e : Entry) : Patch :=
  let nw := (e.wid + 1) / 2
  { w := e.wid, h := e.hgt,
    px := (List.range e.hgt).map (fun j =>
      ((s.sharedRun e.bench (s.slotAddr e + j * nw) nw).flatMap wordPixels).take e.wid),
    src := slices e.wid e.hgt (unrun e.src) }

/-- A pixel of a patch. -/
def Patch.at_ (p : Patch) (i j : Nat) : Nat := at0 (p.px.getD j []) i

/-! ### Modules (R225) -/

/-- The three patch columns or rows, of `n`, nearest a coordinate in 2^-8 pixels. -/
def near3 (c : Int) (n : Nat) : List Nat :=
  let m := max 1 (min (clampN (ridiv c 256) (n - 1)) (n - 2))
  ((List.range 3).map (m - 1 + ·)).filter (· < n)

/-- A module's sample: the mean of the 3 × 3 pixels nearest its centre; for a dot of DotCode the largest of them on a
light-on-dark code and the smallest on a dark-on-light one (R225). -/
def Patch.sample (p : Patch) (id : Nat) (light : Bool) (c : Pt) : Nat :=
  let l := (near3 c.y p.h).flatMap (fun j => (near3 c.x p.w).map (fun i => p.at_ i j))
  if id = 3 then (if light then l.foldl max 0 else l.foldl min 255) else rdiv l.sum l.length

/-- The dark and light means as fractions: μD = `a / m`, μL = `b / m`; T lies midway between them, so that a module at
either mean has confidence 256 (R225). -/
structure Levels where
  a : Nat
  b : Nat
  m : Nat
deriving DecidableEq, Repr

/-- The levels of two groups of samples. -/
def levelsOf (dark light : List Nat) : Levels :=
  { a := dark.sum * light.length, b := light.sum * dark.length, m := dark.length * light.length }

/-- A sample below and above the threshold. -/
def Levels.below (v : Levels) (s : Nat) : Bool := decide (2 * v.m * s < v.a + v.b)
/-- A sample above the threshold. -/
def Levels.above (v : Levels) (s : Nat) : Bool := decide (v.a + v.b < 2 * v.m * s)

/-- A module's confidence: min(255, ⌊512 · |s − T| / (μL − μD)⌋) (R225). -/
def Levels.conf (v : Levels) (s : Nat) : Nat :=
  if v.b ≤ v.a then Config.flatConf s % 256
  else min 255 (256 * (2 * (v.m : Int) * s - (v.a + v.b : Nat)).natAbs / (v.b - v.a))

/-- The levels of the finder and timing modules. -/
def finderLevels (fnd : List (Nat × Bool)) (light : Bool) (smp : List Nat) : Levels :=
  levelsOf ((fnd.filter (fun f => f.2 != light)).map (fun f => at0 smp f.1))
    ((fnd.filter (fun f => f.2 == light)).map (fun f => at0 smp f.1))

/-- The levels refitted over a block of modules: the means of the block's samples on either side of the threshold, where
both sides have one. (DEDUCED, log 150) -/
def Levels.refit (v : Levels) (block : List Nat) : Levels :=
  let lo := block.filter v.below
  let hi := block.filter (fun s => !v.below s)
  if lo.isEmpty || hi.isEmpty then v else levelsOf lo hi

/-- The block of 8 × 8 modules of an index. -/
def block8 (cols i : Nat) : Nat × Nat := (i % cols / 8, i / cols / 8)

/-- The modules of a grid: whether each reads dark, and its confidence (R225). -/
def readModules (g : Fit2d) (fnd : List (Nat × Bool)) (light : Bool) (smp : List Nat) : List (Bool × Nat) :=
  let v := finderLevels fnd light smp
  smp.zipIdx.map (fun p =>
    let u := v.refit ((smp.zipIdx.filter (fun q => block8 g.cols q.2 == block8 g.cols p.2)).map Prod.fst)
    (if light then u.above p.1 else u.below p.1, u.conf p.1))

/-! ### Codewords (R225 to R227) -/

/-- One Reed–Solomon block as sampled (R226): codewords, their confidences and the check count r. -/
structure SampledBlock where
  cw : List Nat
  conf : List Nat
  r : Nat
deriving DecidableEq, Repr

/-- Bits, the most significant first. -/
def msbFirst (l : List Bool) : Nat := l.foldl (fun v b => 2 * v + b2n b) 0

/-- The bits of a number, the most significant first. -/
def bitsMsb (n v : Nat) : List Bool := (List.range n).map (fun i => v.testBit (n - 1 - i))

/-- A block read from the modules of a symbol; a codeword's confidence is the lowest of its modules'. -/
def sampleBlock (id : Nat) (mods : List (Bool × Nat)) (m : BlockMap) : SampledBlock :=
  let get := fun (q : Nat × Bool) => mods.getD q.1 (false, 0)
  { r := m.r
    cw := m.cw.map (fun c =>
      let l := c.map (fun q => (get q).1 != q.2)
      if id = 3 then Config.dotValue l % 256 else msbFirst l % 256)
    conf := m.cw.map (fun c => (c.map (fun q => (get q).2)).foldl min 255) }

/-- The remainder of a polynomial over GF(2) by a generator of degree `d`, from bit `n + d − 1` down. -/
def bchRem (gen d : Nat) : Nat → Nat → Nat
  | 0, v => v
  | n + 1, v => bchRem gen d n (if v.testBit (n + d) then v ^^^ (gen * 2 ^ n) else v)

/-- A BCH codeword of `n` data bits. -/
def bchWord (gen d n v : Nat) : Nat := v * 2 ^ d + bchRem gen d n (v * 2 ^ d)

/-- The number of bits that differ. -/
def bitDist (n a b : Nat) : Nat := ((List.range n).filter (fun i => a.testBit i != b.testBit i)).length

/-- The data of the BCH codeword within 3 bits of a word, if any: the codes correct 3 errors. -/
def bchFix (gen d n mask w : Nat) : Option Nat :=
  (List.range (2 ^ n)).find? (fun v => decide (bitDist (n + d) (bchWord gen d n v ^^^ mask) w ≤ 3))

/-- The first copy of format or version information that can be corrected (R227). -/
def bchRead (gen d n mask : Nat) (mods : List (Bool × Nat)) (copies : List (List Nat)) : Option Nat :=
  (copies.filterMap (fun c => bchFix gen d n mask (msbFirst (c.map (fun i => (mods.getD i (false, 0)).1)))))[0]?

/-- The module counts of the Data Matrix sizes of R223: columns and rows. -/
def dataMatrixSizes : List (Nat × Nat) :=
  [10, 12, 14, 16, 18, 20, 22, 24, 26, 32, 36, 40, 44, 48, 52, 64, 72, 80, 88, 96, 104, 120, 132, 144].map (fun n => (n, n))
    ++ [(18, 8), (32, 8), (26, 12), (36, 12), (36, 16), (48, 16)]

/-- A size is one of R223. -/
def sizeOk (id cols rows : Nat) : Bool :=
  if id = 1 then dataMatrixSizes.contains (cols, rows)
  else if id = 2 then cols == rows && decide (21 ≤ cols) && decide (cols ≤ 177) && cols % 4 == 1
  else (Config.layout2d id cols rows 0).all (fun m => decide (m.cw.length ≤ 112))

/-- The format of a grid: a QR Code's format information, with its version information correctable and agreeing from
version 7; none where it is not (GRID, R227). -/
def gridFormat (id : Nat) (g : Fit2d) (mods : List (Bool × Nat)) : Option Nat :=
  if id = 2 then
    let v := (g.cols - 17) / 4
    if 7 ≤ v && bchRead 0x1F25 12 6 0 mods (Config.qrVersion g.cols) != some v then none
    else bchRead 0x537 10 5 0x5412 mods (Config.qrFormat g.cols)
  else some 0

/-! ### Scan rows (R228) -/

/-- The patch row of scan line k of n: the lines are spaced evenly over the middle 80 % (R228). (DEDUCED, log 151) -/
def scanRow (h n k : Nat) : Nat := min (h - 1) (h * (n + 4 * (2 * k + 1)) / (10 * n))

/-- Every element present. -/
def allSome {α : Type} : List (Option α) → Option (List α)
  | [] => some []
  | none :: _ => none
  | some a :: l => (allSome l).map (a :: ·)

/-- How many times a value stands in a list. -/
def timesIn {α : Type} [BEq α] (a : α) (l : List α) : Nat := (l.filter (· == a)).length

/-- The distinct values of a list in their order. -/
def distinct {α : Type} [BEq α] : List α → List α
  | [] => []
  | a :: l => a :: (distinct l).filter (fun b => !(b == a))

/-- The value that at least `agree` members of a list give: the one with most; none on a tie or without one. -/
def winner {α : Type} [BEq α] (agree : Nat) (l : List α) : Option α :=
  let c := (distinct l).filter (fun a => decide (agree ≤ timesIn a l))
  let top := c.foldl (fun m a => max m (timesIn a l)) 0
  match c.filter (fun a => timesIn a l == top) with
  | [a] => some a
  | _ => none

end Machine

open Machine

/-- The element widths of a scan row in its reading direction. -/
def ScanRow.widths (r : ScanRow) (rev : Bool) : List Nat :=
  let l := (r.edges.zip (r.edges.drop 1)).map (fun p => p.2 - p.1)
  if rev then l.reverse else l

/-- A scan row has a quiet zone of at least `qz` modules on both sides. -/
def ScanRow.quiet (r : ScanRow) (narrow qz : Nat) : Bool :=
  decide (qz * narrow ≤ 16 * (at0 r.edges 0 - r.lo))
    && decide (qz * narrow ≤ 16 * (r.hi - at0 r.edges (r.edges.length - 1)))

/-- The rows that count, with their text: those of the first `n` with their quiet zones (R228). -/
def Fit1d.texts (f : Fit1d) (id n qz : Nat) : List (Option (ScanRow × RowText)) :=
  (List.range n).map (fun k => match f.rows.getD k none with
    | some r => if r.quiet f.narrow qz then some (r, Config.rowText id (r.widths f.rev)) else none
    | none => none)

/-- The characters of a row that is complete from start to stop pattern. -/
def RowText.whole (t : RowText) : Option (List Nat) := if t.start && t.stop then allSome t.chars else none

/-- The character of a row at position i of n: rows with a start pattern count from the start, rows with a stop pattern
from the stop; a row with both has n characters. -/
def RowText.charAt (t : RowText) (n i : Nat) : Option Nat :=
  if t.start && t.stop && t.chars.length != n then none
  else if t.start then (t.chars[i]?).join
  else if t.stop && decide (n ≤ t.chars.length + i) then (t.chars[t.chars.length + i - n]?).join
  else none

namespace Machine

/-- The sequence the rows agree on (R228): of the complete sequences that AGREE rows give the one that most give; where no
complete sequence has AGREE rows, each character position by itself, over every row that gives a character there, in a
symbol as long as most rows with start and stop patterns have it. -/
def agreed (agree : Nat) (rows : List RowText) : Option (List Nat) :=
  let whole := rows.filterMap RowText.whole
  if (distinct whole).any (fun a => decide (agree ≤ timesIn a whole)) then winner agree whole
  else
    match winner 1 ((rows.filter (fun t => t.start && t.stop)).map (fun t => t.chars.length)) with
    | none => none
    | some n => allSome ((List.range n).map (fun i => winner agree (rows.filterMap (fun t => t.charAt n i))))

/-! ### Data (R227, R254) -/

/-- The sum of digits weighted 3 and 1 in turn from the right. -/
def sum31 (l : List Nat) : Nat := (l.reverse.zipIdx.map (fun p => if p.2 % 2 = 0 then 3 * p.1 else p.1)).sum

/-- The check character or digit of a 1D symbol is right: modulo 103, 43 or 10 (R227). -/
def checkOk (id : Nat) (l : List Nat) : Bool :=
  let data := l.dropLast
  let last := l.getLastD 0
  if id = 4 then (data.zipIdx.map (fun p => p.1 * max 1 p.2)).sum % 103 == last
  else if id = 6 then data.sum % 43 == last
  else
    let d := if id = 11 then Config.upceDigits l else l
    (sum31 d.dropLast + d.getLastD 0) % 10 == 0

/-- The data of a 1D symbol's characters (R254): start, stop and check characters are removed; check digits stay. `chk` tells
that a check character is present. (DEDUCED, log 152) -/
def data1d (id : Nat) (chk full : Bool) (l : List Nat) : List DataEl :=
  if id = 4 then Config.text1d 4 l.dropLast
  else if id = 6 then
    let d := Config.text1d 6 (if chk then l.dropLast else l)
    if full then Config.fullAscii d else d
  else l.map (fun d => .byte (BitVec.ofNat 8 (0x30 + d % 10)))

/-- The number of data characters of a 1D symbol: those of its symbol characters that are no start, stop or check
character. -/
def count1d (id : Nat) (chk : Bool) (l : List Nat) : Nat :=
  if id = 4 then l.length - 2 else if id = 6 && chk then l.length - 1 else l.length

/-- The payload of a read's data, whether FNC1 stands first, and whether it contains ECI designators (R254). -/
def payloadOf (l : List DataEl) : List Byte × Bool × Bool :=
  let lead := match l with
    | .fnc1 :: _ => true
    | _ => false
  let eci := l.any (fun x => match x with
    | .eci _ => true
    | _ => false)
  let out := fun (x : DataEl) => match x with
    | .byte b => if eci && b == 0x5C then [b, b] else [b]
    | .fnc1 => [0x1D]
    | .eci n => 0x5C :: (List.range 6).map (fun i => BitVec.ofNat 8 (0x30 + n / 10 ^ (5 - i) % 10))
  ((if lead then l.drop 1 else l).flatMap out, lead, eci)

end Machine
end Sys2Proof
end

