-- ==== Sys2Proof/Machine/Grade.lean ====
section
/-!
DEFINITION. Print grading (R242 to R248): measurements on the patch and the grades of 2D and 1D reads. Reflectances are in
tenths of a percent, lengths on the patch in 2^-8 pixels or, for module pitches, in 2^-16 pixels; quotients are exact.
-/
namespace Sys2Proof
namespace Machine

/-! ### Limits -/

/-- The grade of a value by its least limits for A, B, C and D. -/
def gradeMin (a b c d v : Rat) : Nat := if a ≤ v then 4 else if b ≤ v then 3 else if c ≤ v then 2 else if d ≤ v then 1 else 0

/-- The grade of a value by its largest limits for A, B, C and D. -/
def gradeMax (a b c d v : Rat) : Nat := if v ≤ a then 4 else if v ≤ b then 3 else if v ≤ c then 2 else if v ≤ d then 1 else 0

/-- Symbol contrast grades (R245, R248). -/
def scGrade (v : Rat) : Nat := gradeMin 700 550 400 200 v

/-- Modulation grades (R245). -/
def modGrade (v : Rat) : Nat := gradeMin (1 / 2) (2 / 5) (3 / 10) (1 / 5) v

/-- UEC grades: `spare / r` (R245). -/
def uecGrade (spare r : Nat) : Nat := gradeMin (31 / 50) (1 / 2) (37 / 100) (1 / 4) ((spare : Rat) / r)

/-- The lowest of several grades; 0xF counts as higher than every grade. -/
def lowest (l : List Nat) : Nat := l.foldl min 0xF

/-- A block's grade for one modulation parameter (R246): the grades of its codewords, `e` corrected errors at positions
`errs`, `r` check symbols. -/
def blockGrade (g errs : List Nat) (e r : Nat) : Nat :=
  [4, 3, 2, 1].foldl (fun best t =>
    let d := (g.zipIdx.filter (fun p => decide (p.1 < t) && !errs.contains p.2)).length
    max best (min t (uecGrade (r - 2 * e - d) r))) 0

/-- A decoded Reed–Solomon block: ERRS, ERAS, SPARE, check symbols, the positions of the corrected errors, and the corrected
codewords. -/
structure Block where
  errs : Nat
  eras : Nat
  spare : Nat
  r : Nat
  at_ : List Nat
  cw : List Nat
deriving DecidableEq, Repr

/-- The block with the least SPARE (R239). -/
def leastSpare : List Block → Option Block
  | [] => none
  | b :: l => match leastSpare l with
    | some c => if b.spare ≤ c.spare then some b else some c
    | none => some b

/-- Nibbles n0 to n9 as one number. -/
def nibbles (l : List Nat) : BitVec 40 := BitVec.ofNat 40 (l.foldr (fun g v => g + 16 * v) 0)

/-- What grading delivers: the grade nibbles, SCV. -/
structure Grades where
  g : BitVec 40 := 0xFFFFFFFFFF
  scv : Nat := 0
  graded : Bool := false
deriving DecidableEq, Repr

/-! ### Apertures (R243, R244) -/

/-- The reflectance of a patch value (R243), in tenths of a percent; K_hp is `pct / y8`. -/
def reflect (k : Nat × Nat) (v : Nat) : Nat := min 1000 (rdiv (v * k.1 * 10) k.2)

/-- K_hp of the head and plane numbered 4h + p. -/
def FwSet.khp (f : FwSet) (k : Nat) : Nat × Nat := SMap.get (fun _ => (100, 255)) f.refl k

/-- The reflectances of a patch: each pixel by the K_hp of the head and plane that supplied it (R243). -/
def Patch.refl (p : Patch) (f : FwSet) : List (List Nat) :=
  p.px.zipIdx.map (fun r => r.1.zipIdx.map (fun v =>
    let k := at0 (p.src.getD r.2 []) v.2
    if k < 64 then reflect (f.khp k) v.1 else Config.fillRefl v.1 % 1001))

/-- The rows or columns, of `n`, up to `rad` from a coordinate. -/
def nearRows (c : Int) (rad n : Nat) : List Nat :=
  (List.range (2 * rad + 1)).filterMap (fun (k : Nat) =>
    let i : Int := ridiv c 256 - rad + k
    if 0 ≤ i && decide (i < n) then some i.toNat else none)

/-- A list's mean, none for an empty list. -/
def meanOf (l : List Nat) : Option Rat := if l.isEmpty then none else some ((l.sum : Rat) / l.length)

/-- The sample at a point: the mean reflectance of the pixels whose centres lie in a circle of diameter `diam` around it
(R244); none where no pixel does. -/
def apMean (refl : List (List Nat)) (w h : Nat) (diam : Rat) (c : Pt) : Option Rat :=
  let rad := (diam / 512).ceil.toNat + 1
  meanOf ((nearRows c.y rad h).flatMap (fun (j : Nat) => (nearRows c.x rad w).filterMap (fun (i : Nat) =>
    let dx : Int := 256 * (i : Nat) - c.x
    let dy : Int := 256 * (j : Nat) - c.y
    if 4 * ((dx * dx + dy * dy : Int) : Rat) ≤ diam * diam then some (at0 (refl.getD j []) i) else none)))

/-- The aperture of APER percent of a module of `x` 2^-16 pixels spans at least 3 patch pixels (R242, R244). -/
def aperOk (aper : Nat) (x : Rat) : Bool := decide ((3 * 100 * 65536 : Rat) ≤ aper * x)

/-! ### The fitted grid (R245) -/

/-- The integer square root, `n` bits of it to come. -/
def isqrt : Nat → Nat → Nat → Nat
  | 0, _, r => r
  | n + 1, v, r => let t := r + 2 ^ n; isqrt n v (if t * t ≤ v then t else r)

end Machine

open Machine

/-- The point of the patch nearest a point. -/
def Pt.into (c : Pt) (w h : Nat) : Pt := { x := max 0 (min c.x (256 * (w - 1 : Nat))), y := max 0 (min c.y (256 * (h - 1 : Nat))) }

/-- A centre of a grid. -/
def Fit2d.get (g : Fit2d) (i j : Nat) : Pt := g.centres.getD (j * g.cols + i) { x := 0, y := 0 }

/-- Point a moved on by its step from point b. -/
def Pt.beyond (a b : Pt) : Pt := { x := 2 * a.x - b.x, y := 2 * a.y - b.y }

/-- A centre of column i + 1 of the grid with one column more on each side. -/
def Fit2d.getX (g : Fit2d) (i j : Nat) : Pt :=
  if i = 0 then (g.get 0 j).beyond (g.get 1 j)
  else if i = g.cols + 1 then (g.get (g.cols - 1) j).beyond (g.get (g.cols - 2) j)
  else g.get (i - 1) j

/-- A place of the grid with its one module of quiet zone around it, columns and rows from 0 (R245).
(DEDUCED, log 153) -/
def Fit2d.withZone (g : Fit2d) (i j : Nat) : Pt :=
  if j = 0 then (g.getX i 0).beyond (g.getX i 1)
  else if j = g.rows + 1 then (g.getX i (g.rows - 1)).beyond (g.getX i (g.rows - 2))
  else g.getX i (j - 1)

/-- The distance of two points in 2^-16 pixels. -/
def Pt.dist (a b : Pt) : Nat := isqrt 40 (65536 * ((a.x - b.x) ^ 2 + (a.y - b.y) ^ 2).toNat) 0

/-- The mean fitted pitch along x, in 2^-16 pixels. -/
def Fit2d.pitchU (g : Fit2d) : Rat :=
  (meanOf ((List.range g.rows).flatMap (fun j => (List.range (g.cols - 1)).map (fun i => (g.get i j).dist (g.get (i + 1) j))))).getD 0

/-- The mean fitted pitch along y. -/
def Fit2d.pitchV (g : Fit2d) : Rat :=
  (meanOf ((List.range (g.rows - 1)).flatMap (fun j => (List.range g.cols).map (fun i => (g.get i j).dist (g.get i (j + 1)))))).getD 0

/-- The module pitch X measured on the patch: the mean of both (R244). -/
def Fit2d.pitch (g : Fit2d) : Rat := (g.pitchU + g.pitchV) / 2

/-- The sum of points. -/
def sumPts (l : List Pt) : Pt := l.foldl (fun a b => { x := a.x + b.x, y := a.y + b.y }) { x := 0, y := 0 }

/-- The sum over the rows of the vectors from their first to their last centre. -/
def Fit2d.alongU (g : Fit2d) : Pt :=
  sumPts ((List.range g.rows).map (fun j =>
    let a := g.get 0 j
    let b := g.get (g.cols - 1) j
    { x := b.x - a.x, y := b.y - a.y }))

/-- The sum over the columns of the vectors from their first to their last centre. -/
def Fit2d.alongV (g : Fit2d) : Pt :=
  sumPts ((List.range g.cols).map (fun i =>
    let a := g.get i 0
    let b := g.get i (g.rows - 1)
    { x := b.x - a.x, y := b.y - a.y }))

/-- The largest squared distance of a centre from the ideal grid, in 2^-16 square pixels: the grid of the mean steps about
the mean centre (R245). -/
def Fit2d.farthest (g : Fit2d) : Rat :=
  let n : Rat := g.cols * g.rows
  let o := sumPts g.centres
  let u := g.alongU
  let v := g.alongV
  let du : Rat := g.rows * ((g.cols : Rat) - 1)
  let dv : Rat := g.cols * ((g.rows : Rat) - 1)
  let off := fun (i j : Nat) (o u v c : Int) =>
    (c : Rat) - ((o : Rat) / n + (u : Rat) / du * (i - ((g.cols : Rat) - 1) / 2) + (v : Rat) / dv * (j - ((g.rows : Rat) - 1) / 2))
  (List.range g.rows).foldl (fun m j => (List.range g.cols).foldl (fun m i =>
    let c := g.get i j
    let x := off i j o.x u.x v.x c.x
    let y := off i j o.y u.y v.y c.y
    max m (x * x + y * y)) m) 0

namespace Machine

/-- Grid non-uniformity grades: a squared distance in 2^-16 square pixels against limits in modules of `x` 2^-16 pixels. -/
def gnGrade (d2 x : Rat) : Nat :=
  let lim := fun (k : Rat) => (k * x / 256) * (k * x / 256)
  gradeMax (lim (19 / 50)) (lim (1 / 2)) (lim (63 / 100)) (lim (3 / 4)) d2

/-! ### 2D grades (R245 to R247) -/

/-- The largest and the smallest of some values. -/
def extremes (l : List Rat) : Rat × Rat :=
  match l with
  | [] => (0, 0)
  | a :: l => l.foldl (fun r x => (max r.1 x, min r.2 x)) (a, a)

/-- Samples about their global threshold: Rmax, Rmin, SC and modulation (R245). -/
structure Contrast where
  hi : Rat
  lo : Rat
deriving DecidableEq, Repr

/-- SC. -/
def Contrast.sc (c : Contrast) : Rat := c.hi - c.lo
/-- GT. -/
def Contrast.gt (c : Contrast) : Rat := (c.hi + c.lo) / 2
/-- A share of SC: a free value where all samples are equal. -/
def Contrast.share (c : Contrast) (v : Rat) : Rat := if c.sc = 0 then Config.flatShare v else v / c.sc
/-- The modulation 2|R − GT| / SC of a sample. -/
def Contrast.mod (c : Contrast) (r : Rat) : Rat := c.share (2 * |r - c.gt|)
/-- The modulation under RM: 0 for a module on the wrong side of GT for its decoded value. -/
def Contrast.rmod (c : Contrast) (light dark : Bool) (r : Rat) : Rat :=
  if (dark != light && decide (c.gt < r)) || (dark == light && decide (r < c.gt)) then 0 else c.mod r

/-- The bits of a codeword's modules. -/
def codeBits (id v : Nat) : List Bool := if id = 3 then Config.dotBits v else bitsMsb 8 v

/-- The grade of a codeword: the lowest of its modules', of which `m` lists the decoded values (R246). -/
def codewordGrade (grade : Nat → Bool → Nat) (m : List (Nat × Bool)) (bs : List Bool) : Nat :=
  lowest ((m.zip bs).map (fun q => grade q.1.1 (q.2 != q.1.2)))

/-- A parameter's grade by blocks: the lowest block grade (R246). -/
def byBlocks (id : Nat) (grade : Nat → Bool → Nat) (maps : List BlockMap) (bl : List Block) : Nat :=
  lowest ((maps.zip bl).map (fun q =>
    blockGrade ((q.1.cw.zip q.2.cw).map (fun c => codewordGrade grade c.1 (codeBits id c.2))) q.2.at_ q.2.errs q.2.r))

/-- Grades of a 2D read (R245, R246) of format `fmt`. -/
def grade2d (f : FwSet) (id fmt : Nat) (light : Bool) (p : Patch) (g : Fit2d) (bl : List Block) : Grades :=
  let refl := p.refl f
  let diam := f.aper * g.pitch / 25600
  let smp := g.centres.map (fun c => (apMean refl p.w p.h diam (c.into p.w p.h)).getD 0)
  let zone := (List.range (g.rows + 2)).flatMap (fun j => (List.range (g.cols + 2)).filterMap (fun i =>
    apMean refl p.w p.h diam (g.withZone i j)))
  let e := extremes (smp ++ zone)
  let c : Contrast := { hi := e.1, lo := e.2 }
  let maps := Config.layout2d id g.cols g.rows fmt
  let fnd := Config.finder2d id g.cols g.rows
  let gm := fun (i : Nat) (_ : Bool) => modGrade (c.mod (smp.getD i 0))
  let gr := fun (i : Nat) (dark : Bool) => modGrade (c.rmod light dark (smp.getD i 0))
  let bad := (fnd.filter (fun q => decide (gr q.1 q.2 ≤ 1))).length
  let fpd := if id = 3 then 0xF else gradeMax 0 (1 / 50) (1 / 25) (2 / 25) ((bad : Rat) / fnd.length)
  let an := gradeMax (3 / 50) (2 / 25) (1 / 10) (3 / 25) (|g.pitchU - g.pitchV| / g.pitch)
  let n := [4, scGrade c.sc, byBlocks id gm maps bl, byBlocks id gr maps bl, fpd, an, gnGrade g.farthest g.pitch,
    lowest (bl.map (fun b => uecGrade b.spare b.r))]
  { g := nibbles (lowest n :: n ++ [0xF]), scv := ((c.sc / 10) + 1 / 2).floor.toNat, graded := true }

/-- A signed percentage as an ashlar holds it, saturating (R247). -/
def pgByte (v : Int) : Nat := (satInt v (-128) 127 % 256).toNat

/-- Print growth along an axis: the mean width less the pitch, in percent of the pitch (R247); 0 where the pitch is 0. -/
def growth (wide : Nat) (pitch : Rat) : Nat := pgByte (100 * (256 * (wide : Rat) - pitch) / pitch + 1 / 2).floor

/-! ### 1D grades (R248) -/

/-- A profile's extremes between two pixels. -/
def within_ (prof : List Rat) (a b : Nat) : List Rat :=
  let l := (prof.drop a).take (b - a)
  if l.isEmpty then (prof.drop a).take 1 else l

/-- The pixels of elements, from edges in 1/16 pixel: those whose centres lie between two edges. -/
def elements (prof : List Rat) (edges : List Nat) : List (List Rat) :=
  (edges.zip (edges.drop 1)).map (fun q => within_ prof ((q.1 + 15) / 16) ((q.2 + 15) / 16))

/-- The peaks inside a profile: samples above both their neighbours' reach. -/
def peaks : List Rat → List Rat
  | a :: b :: c :: l => (if a ≤ b && c ≤ b && (decide (a < b) || decide (c < b)) then [b] else []) ++ peaks (b :: c :: l)
  | _ => []

/-- The non-uniformity of an element (R248): of a bar, from its lowest value to its highest inner peak; of a space, from
its highest value to its lowest inner valley; 0 without one. (PRESUMED, log 154) -/
def nonUniform (bar : Bool) (l : List Rat) : Rat :=
  let l := if bar then l else l.map (fun v => -v)
  match peaks l with
  | [] => 0
  | p => (extremes p).1 - (extremes l).2

/-- What is graded of a scan row that decodes alone: its seven grades, and its SC. A row that does not has every parameter
graded F (R248). -/
def rowGrades (id qz : Nat) (prof : List Rat) (narrow : Nat) (row : Option ScanRow) (rev : Bool) : List Nat × Rat :=
  match row with
  | none => ([0, 0, 0, 0, 0, 0, 0], 0)
  | some r =>
    let z := qz * narrow / 16
    let e := extremes (within_ prof ((at0 r.edges 0 - z + 15) / 16) ((at0 r.edges (r.edges.length - 1) + z) / 16 + 1))
    let c : Contrast := { hi := e.1, lo := e.2 }
    let els := elements prof r.edges
    let lev := els.zipIdx.map (fun q => if q.2 % 2 = 0 then (extremes q.1).2 else (extremes q.1).1)
    let ec := (lev.zip (lev.drop 1)).map (fun q => |q.1 - q.2|)
    let ecmin := (extremes ec).2
    let ern := (extremes (els.zipIdx.map (fun q => nonUniform (q.2 % 2 == 0) q.1))).1
    ([4, scGrade c.sc, if 2 * c.lo ≤ c.hi then 4 else 0, if 150 ≤ ecmin then 4 else 0,
      gradeMin (7 / 10) (3 / 5) (1 / 2) (2 / 5) (c.share ecmin), gradeMax (3 / 20) (1 / 5) (1 / 4) (3 / 10) (c.share ern),
      gradeMin (31 / 50) (1 / 2) (37 / 100) (1 / 4) (Config.decodability id (r.widths rev))], c.sc)

/-- The grade of a mean: `total / n` against 3.5, 2.5, 1.5 and 0.5 (R248). -/
def meanGrade (total n : Nat) : Nat := gradeMin (7 / 2) (5 / 2) (3 / 2) (1 / 2) ((total : Rat) / n)

/-- Grades of a 1D read over its SCANS rows (R248); `alone` lists the rows that decode alone. (DEDUCED, log 79) -/
def grade1d (f : FwSet) (id scans qz : Nat) (p : Patch) (fit : Fit1d) (alone : List (Option ScanRow)) : Grades :=
  let refl := p.refl f
  let diam := (f.aper : Rat) * fit.narrow / 100
  let prof := fun (k : Nat) => (List.range p.w).map (fun i =>
    (apMean refl p.w p.h diam { x := 256 * i, y := 256 * scanRow p.h scans k }).getD 0)
  let rows := (List.range scans).map (fun k => rowGrades id qz (prof k) fit.narrow (alone.getD k none) fit.rev)
  let n := (List.range 7).map (fun i => meanGrade (rows.map (fun r => at0 r.1 i)).sum scans)
  { g := nibbles (meanGrade (rows.map (fun r => lowest r.1)).sum scans :: n ++ [0xF, 0xF]),
    scv := ((rows.map Prod.snd).sum / (10 * scans) + 1 / 2).floor.toNat, graded := true }

end Machine
end Sys2Proof
end

