-- ==== Sys2Proof/Machine/Decoder.lean ====
section
/-!
DEFINITION. The symbology firmware on a ticket (R223 to R228, R237 to R240, R242): attempts in the class's order,
erasures, votes of scan rows, the cause of a NOREAD, the report to the Riddle.
-/
namespace Sys2Proof.Machine

/-! ### Settings (R224, R240) -/

/-- The settings of a symbology at reset (R224, R240). -/
def symReset (id : Nat) : SymSet :=
  { on := decide (1 ≤ id ∧ id ≤ 4), lenMin := if id = 7 then 6 else 1 }

/-- The settings of a symbology. -/
def FwSet.sym (f : FwSet) (id : Nat) : SymSet := SMap.get symReset f.syms id

/-- The firmware settings with those of a symbology replaced. -/
def FwSet.setSym (f : FwSet) (id : Nat) (x : SymSet) : FwSet := { f with syms := SMap.set symReset f.syms id x }

/-- The order of a class: 3 LINEAR, 4 GRID, 5 DOT (R224). -/
def FwSet.order (f : FwSet) (cls : Nat) : List Nat := if cls = 3 then f.orderLin else if cls = 4 then f.orderGrid else f.orderDot

/-- A 2D symbology: Data Matrix, QR Code, DotCode. -/
def is2d (id : Nat) : Bool := 1 ≤ id && id ≤ 3

/-! ### Error correction (R226, R227) -/

/-- The field and first root of a 2D symbology (R227). -/
def symField (id : Nat) : Gf × Nat :=
  if id = 1 then ({ prime := false, poly := 0x12D }, 1) else if id = 2 then ({ prime := false, poly := 0x11D }, 0)
  else ({ prime := true, alpha := 3 }, 1)

/-- Insertion by confidence, the lower position first on a tie. -/
def insertConf (x : Nat × Nat) : List (Nat × Nat) → List (Nat × Nat)
  | [] => [x]
  | y :: l => if x.1 < y.1 then x :: y :: l else y :: insertConf x l

/-- The positions marked as erasures (R226 steps 1 and 2). -/
def erasuresOf (x : SymSet) (b : SampledBlock) : List Nat :=
  let low := b.conf.zipIdx.filter (fun p => decide (p.1 < x.eraseConf))
  let fmax := b.r * x.eraseMax / 100
  let kept := (low.foldl (fun l p => insertConf p l) []).take fmax
  (List.range b.cw.length).filter (fun i => kept.any (fun p => p.2 == i))

/-- Symbols with corrections put in. -/
def applyFix (cw : List Nat) (fix : List (Nat × Nat)) : List Nat := fix.foldl (fun l p => l.set p.1 p.2) cw

/-- A decoded block of the symbols `cw` with erasures at `era`: its corrected errors are those that are no erasures. -/
def blockOf (r : Nat) (cw era : List Nat) (x : EccRes) : Block :=
  { errs := x.errs, eras := x.eras, spare := x.spare, r := r,
    at_ := (x.fix.map Prod.fst).filter (fun i => !era.contains i), cw := applyFix cw x.fix }

/-- The firmware's job on unit b: configuration, codeword and list, GO, DONE (R226, R231 to R236). The places of the codeword
and the list in shared memory are the firmware's own. (DESIGN CHOICE, log 78) -/
def State.fwJob (s : State) (b id r : Nat) (cw era : List Nat) : Option Block × State :=
  let g := symField id
  let n := cw.length
  let d := s.drawList 4 (2 ^ 19)
  let at_ := fun (v : Nat) => BitVec.ofNat 20 (0x80000 + v)
  let s := (d.2.setReg (Adr.benchEccCfg b) (BitVec.ofNat 20 (b2n g.1.prime + 2 * g.2))).setReg (Adr.benchEccLen b)
    (BitVec.ofNat 20 (n % 256 + 256 * (r % 128)))
  let s := if g.1.prime then s.setReg (Adr.benchEccAlpha b) (BitVec.ofNat 20 g.1.alpha)
    else s.setReg (Adr.benchEccPoly b) (BitVec.ofNat 20 g.1.poly)
  let s := ((s.setReg (Adr.benchEccCw b) (at_ (at0 d.1 0))).setReg (Adr.benchEccEra b) (at_ (at0 d.1 1))).setReg
    (Adr.benchEccNera b) (BitVec.ofNat 20 era.length)
  let fail := fun (refused bad range : Bool) => (none, s.eccEnd b false refused bad range (at0 d.1 2) (at0 d.1 3))
  if s.undefAt (Adr.benchEccCfg b) then
    let x := s.drawList (n + 6) 256
    let v := fun (i : Nat) => at0 x.1 (n + i)
    (if v 0 % 2 = 1 then some { errs := v 1, eras := v 2, spare := v 3, r := r, at_ := [], cw := x.1.take n } else none,
      x.2.eccEnd b (v 4 % 2 == 1) false (v 5 % 2 == 1) false (at0 d.1 2) (at0 d.1 3))
  else if n < 2 || decide ((if g.1.prime then 112 else 255) < n) || r < 1 || decide (80 < r) || decide (n ≤ r)
      || decide (r < era.length) then fail true false false
  else
    let c := readCodeword g.1.prime cw era
    let x := g.1.decode g.2 r c.1 c.2.1
    if x.ok then
      (some (blockOf r c.1 c.2.1 x), s.eccEnd b true false c.2.2.1 c.2.2.2 (x.errs + 256 * x.eras) x.spare)
    else fail false c.2.2.1 c.2.2.2

/-- How a part of an attempt ended: with a value, with the cause of a failure, or abandoned at the deadline. -/
inductive Ended (α : Type) where
  | go (a : α)
  | fail (cause : Nat)
  | late
deriving Repr

/-- The deadline has passed at a check that lies `age` before the ticket's completion (R237). -/
def State.lateAt (s : State) (e : Entry) (age : Nat) : Bool := decide (e.deadline.toNat + age < s.tm.toNat)

/-- One block through the ECC unit (R226), with a deadline check after each job. -/
def State.runBlock (s : State) (b id : Nat) (x : SymSet) (e : Entry) (m : SampledBlock) (ages : List Nat) :
    Ended Block × List Nat × State :=
  let era := erasuresOf x m
  let j := s.fwJob b id m.r m.cw era
  if s.lateAt e (at0 ages 0) then (.late, ages.drop 1, j.2)
  else
    match j.1 with
    | some k => (.go k, ages.drop 1, j.2)
    | none =>
      if era.isEmpty then (.fail 5, ages.drop 1, j.2)
      else
        let j := j.2.fwJob b id m.r m.cw []
        if s.lateAt e (at0 ages 1) then (.late, ages.drop 2, j.2)
        else
          match j.1 with
          | some k => (.go k, ages.drop 2, j.2)
          | none => (.fail 5, ages.drop 2, j.2)

/-- The blocks of a symbol, up to the first that fails. -/
def State.runBlocks (s : State) (b id : Nat) (x : SymSet) (e : Entry) : List SampledBlock → List Nat →
    Ended (List Block) × List Nat × State
  | [], ages => (.go [], ages, s)
  | m :: l, ages =>
    let r := s.runBlock b id x e m ages
    match r.1 with
    | .late => (.late, r.2)
    | .fail c => (.fail c, r.2)
    | .go k =>
      let q := r.2.2.runBlocks b id x e l r.2.1
      match q.1 with
      | .go ks => (.go (k :: ks), q.2)
      | .fail c => (.fail c, q.2)
      | .late => (.late, q.2)

/-! ### Where a symbol lies (R253) -/

/-- A point of the patch on the web: across in 2^-16 µm and along in 48.16 counts, through the ticket's centre, angle and
OUTPITCH. -/
def State.webOf (s : State) (e : Entry) (c : Pt) : Int × BitVec 64 :=
  let du := ridiv ((2 * c.x - 256 * ((e.wid : Int) - 1)) * e.q) 8
  let dv := ridiv ((2 * c.y - 256 * ((e.hgt : Int) - 1)) * e.q) 8
  (e.crossUm * 65536 + turnX du dv e.box.phi,
    posAdd (e.counts ++ (0 : BitVec 16)) (toCounts (s.geoUpc e.gset e.chan) (turnY du dv e.box.phi)))

/-- A length on the patch of `x` 2^-16 pixels, in units of 1/`n` µm, rounded to nearest. (DEDUCED, log 155) -/
def Entry.umOf (e : Entry) (x : Rat) (n : Rat) : Nat := (x * e.q / 2 ^ 26 * n + 1 / 2).floor.toNat

/-- Where a symbol lies and how large it is: centre, direction of its x axis on the patch, module pitch and extents in 2^-16
pixels. -/
structure Shape where
  centre : Pt
  axis : Pt
  module : Rat
  extu : Rat
  extv : Rat
deriving DecidableEq, Repr

/-- The shape of a fitted grid: its x axis runs along its columns. -/
def shape2d (g : Fit2d) : Shape :=
  let o := sumPts g.centres
  { centre := { x := ridiv o.x (g.cols * g.rows), y := ridiv o.y (g.cols * g.rows) }, axis := g.alongU, module := g.pitch,
    extu := g.cols * g.pitchU, extv := g.rows * g.pitchV }

/-- The shape of a 1D symbol: midway between its start and stop patterns on the rows that have both. -/
def shape1d (p : Patch) (scans : Nat) (f : Fit1d) (rows : List (Nat × ScanRow)) : Shape :=
  let n := rows.length
  let a := (rows.map (fun r => at0 r.2.edges 0)).sum
  let b := (rows.map (fun r => at0 r.2.edges (r.2.edges.length - 1))).sum
  { centre := { x := ridiv (8 * (a + b : Nat)) n, y := ridiv (256 * (rows.map (fun r => scanRow p.h scans r.1)).sum : Nat) n },
    axis := { x := if f.rev then -1 else 1, y := 0 }, module := 256 * f.narrow,
    extu := 4096 * ((b : Rat) - a) / n, extv := 256 * f.height }

/-! ### One attempt (R227, R228, R238 to R240) -/

/-- How an attempt ended: the cause it failed with (0 for a read), its symbology identifier (R223), what a read delivers. -/
structure Tried where
  cause : Nat
  sym : Nat
  res : ReadRes := {}
deriving DecidableEq, Repr

/-- The stage of R227 at which a cause ends an attempt: finder, grid, error correction, data and checks. -/
def stageOf (cause : Nat) : Nat := if cause = 3 then 1 else if cause = 4 then 2 else if cause = 5 then 3 else 4

/-- The length limits of a 1D symbology (R240). -/
def lengthOk (x : SymSet) (id n : Nat) : Bool :=
  if id = 6 then decide (x.lenMin ≤ n) && decide (n ≤ x.lenMax)
  else if id = 7 then (if x.lens.isEmpty then decide (x.lenMin ≤ n) && decide (n ≤ x.lenMax) else x.lens.contains n)
  else true

/-- A check character or digit that is tested: always but for Code 39 and Interleaved 2 of 5, where it is a setting. -/
def checked (x : SymSet) (id : Nat) : Bool := if id = 6 || id = 7 then x.check else true

/-- A GS1 element string that does not parse (R240). -/
def gs1Bad (gs1 : Bool) (pay : List Byte) : Bool := gs1 && !Config.gs1Parses pay

/-- The fields of a read (R251 to R254): `fl` holds GS1, ECI, MIRROR and LIGHT. -/
def State.readOf (s : State) (e : Entry) (sym : Nat) (fl : Bool × Bool × Bool × Bool) (pay : List Byte) (h : Shape)
    (cols rows : Nat) (gr : Grades) (pg : Nat × Nat) (bl : List Block) : ReadRes :=
  let least := leastSpare bl
  let w := s.webOf e h.centre
  { sym := sym, cause := 0
    flags := BitVec.ofNat 6 (b2n fl.1 + 2 * b2n (gs1Bad fl.1 pay) + 4 * b2n fl.2.1 + 8 * b2n fl.2.2.1 + 16 * b2n fl.2.2.2
      + 32 * b2n gr.graded)
    pos := ((w.2 + 0x8000) >>> 16).setWidth 48, cross := BitVec.ofInt 32 (ridiv w.1 65536),
    angle := (e.box.phi + atan2c h.axis.y h.axis.x) % 36000, module := min 65535 (e.umOf h.module 10),
    cols := cols % 65536, rows := rows % 65536, extu := min 65535 (e.umOf h.extu (1 / 10)),
    extv := min 65535 (e.umOf h.extv (1 / 10)), grades := gr.g,
    spare := (least.map (·.spare)).getD 0, rchk := (least.map (·.r)).getD 0,
    errs := min 255 (bl.map (·.errs)).sum, eras := min 255 (bl.map (·.eras)).sum,
    scv := gr.scv, pgx := pg.1, pgy := pg.2, payload := pay }

/-- An attempt's end, with the deadline checks left and the state. -/
abbrev Attempted := Ended Tried × List Nat × State

/-- The data stage of a 2D attempt and its grading (R227, R238, R239, R242). -/
def State.finish2d (s : State) (e : Entry) (p : Patch) (id : Nat) (a : Attempt) (g : Fit2d) (fmt : Nat) (bl : List Block)
    (ages : List Nat) : Attempted :=
  let f := s.fw
  let x := f.sym id
  let fail := fun (c : Nat) => (Ended.go { cause := c, sym := id }, ages, s)
  if (leastSpare bl).any (fun b => decide (b.spare < x.reserve)) then fail 5
  else
    match Config.message id g.cols g.rows fmt (bl.map (·.cw)) with
    | none => fail 6
    | some m =>
      let d := payloadOf m.data
      let gs1 := m.gs1 || d.2.1
      let grades := x.grade && aperOk f.aper g.pitch
      if f.gs1Strict && gs1Bad gs1 d.1 then fail 6
      else if grades && s.lateAt e (at0 ages 0) then (.late, ages, s)
      else
        let gr := if grades then grade2d f id fmt a.light p g bl else {}
        (.go { cause := 0, sym := id,
               res := s.readOf e id (gs1, d.2.2, a.mirror, a.light) d.1 (shape2d g) g.cols g.rows gr
                 (growth g.wideU g.pitchU, growth g.wideV g.pitchV) bl }, ages, s)

/-- A 2D attempt (R225 to R227). -/
def State.try2d (s : State) (b : Nat) (e : Entry) (p : Patch) (id : Nat) (a : Attempt) (ages : List Nat) : Attempted :=
  match a.found with
  | .finder => (.go { cause := 4, sym := id }, ages, s)
  | .grid g =>
    let mods := readModules g (Config.finder2d id g.cols g.rows) a.light (g.centres.map (p.sample id a.light))
    match if sizeOk id g.cols g.rows then gridFormat id g mods else none with
    | none => (.go { cause := 4, sym := id }, ages, s)
    | some fmt =>
      let maps := Config.layout2d id g.cols g.rows fmt
      let r := s.runBlocks b id (s.fw.sym id) e (maps.map (sampleBlock id mods)) ages
      match r.1 with
      | .late => (.late, r.2)
      | .fail c => (.go { cause := c, sym := id }, r.2)
      | .go bl => r.2.2.finish2d e p id a g fmt bl r.2.1
  | _ => (.go { cause := 3, sym := id }, ages, s)

/-- A 1D attempt (R227, R228). A symbol that its rows do not agree on ends in CHECK where one of them is complete, in FINDER
otherwise. -/
def State.try1d (s : State) (e : Entry) (p : Patch) (id : Nat) (a : Attempt) (ages : List Nat) : Attempted :=
  match a.found with
  | .rows fit =>
    let f := s.fw
    let x := f.sym id
    let rows := fit.texts id x.scans x.qz
    let texts := rows.filterMap (Option.map Prod.snd)
    match agreed x.agree texts with
    | none => (.go { cause := if texts.any (fun t => t.whole.isSome) then 7 else 3, sym := id }, ages, s)
    | some l =>
      let chk := checked x id
      let d := payloadOf (data1d id chk x.fullascii l)
      let out := if id = 4 && d.2.1 then 5 else id
      let fail := fun (c : Nat) => (Ended.go { cause := c, sym := out }, ages, s)
      let ok := fun (l : List Nat) => !chk || checkOk id l
      if !ok l then fail 7
      else if !lengthOk x id (count1d id chk l) then fail 8
      else if f.gs1Strict && gs1Bad d.2.1 d.1 then fail 6
      else
        let grades := (f.sym out).grade && aperOk f.aper (256 * fit.narrow)
        if grades && s.lateAt e (at0 ages 0) then (.late, ages, s)
        else
          let alone := rows.map (fun r => match r with
            | some (row, t) => if t.whole.any ok then some row else none
            | none => none)
          let ends := rows.zipIdx.filterMap (fun r => match r.1 with
            | some (row, t) => if t.start && t.stop then some (r.2, row) else none
            | none => none)
          let gr := if grades then grade1d f out x.scans x.qz p fit alone else {}
          (.go { cause := 0, sym := out,
                 res := s.readOf e out (d.2.1, d.2.2, false, false) d.1 (shape1d p x.scans fit ends) (count1d id chk l) 1 gr
                   (0, 0) [] }, ages, s)
  | _ => (.go { cause := 3, sym := id }, ages, s)

/-- The variants of a 2D symbology that its settings try, as (light-on-dark, mirrored) in order (R227). -/
def variants (x : SymSet) : List (Bool × Bool) :=
  let pick := fun (t : Tri) => match t with
    | .first => [false]
    | .second => [true]
    | .auto => [false, true]
  (pick x.pol).flatMap (fun l => (pick x.mirror).map (fun m => (l, m)))

/-- The attempt with a symbology and variant; one that is not given finds no finder. -/
def findAttempt (att : List Attempt) (id : SymId) (v : Bool × Bool) : Attempt :=
  (att.find? (fun a => a.sym == id && (!is2d id.val || (a.light == v.1 && a.mirror == v.2)))).getD
    { sym := id, light := v.1, mirror := v.2, found := .nothing, ages := [] }

/-- An attempt, with the deadline check before it (R237). -/
def State.tryOne (s : State) (b : Nat) (e : Entry) (p : Patch) (a : Attempt) : Ended Tried × State :=
  if s.lateAt e (at0 a.ages 0) then (.late, s)
  else
    let r := if is2d a.sym.val then s.try2d b e p a.sym.val a (a.ages.drop 1) else s.try1d e p a.sym.val a (a.ages.drop 1)
    (r.1, r.2.2)

/-- The better of two failures: the later stage, the earlier attempt on a tie (R227, R238). -/
def further (a b : Tried) : Tried := if stageOf a.cause < stageOf b.cause then b else a

/-- Attempts in order up to the first read, `best` the failure that counts so far (R224, R238). -/
def State.tryList (s : State) (b : Nat) (e : Entry) (p : Patch) : List Attempt → Option Tried → Ended (Option Tried) × State
  | [], best => (.go best, s)
  | a :: l, best =>
    let r := s.tryOne b e p a
    match r.1 with
    | .late => (.late, r.2)
    | .fail _ => r.2.tryList b e p l best
    | .go t => if t.cause = 0 then (.go (some t), r.2) else r.2.tryList b e p l (some (match best with
      | some w => further w t
      | none => t))

/-- What a class tries: its enabled symbologies in order, a 2D one with its variants. -/
def FwSet.plan (f : FwSet) (cls : Nat) (att : List Attempt) : List Attempt :=
  ((f.order cls).filter (fun id => (f.sym id).on)).flatMap (fun id =>
    (if is2d id then variants (f.sym id) else [(false, false)]).map (findAttempt att (Fin.ofNat 12 id)))

/-! ### A ticket (R219, R224, R237, R238) -/

/-- A candidate decoded by a hewer of bench b: read or not, with its fields. A read that is complete only after the
deadline counts as DEADLINE (R237). (DESIGN CHOICE, log 77) -/
def State.decode (s : State) (b : Nat) (e : Entry) (att : List Attempt) : (Bool × ReadRes) × State :=
  let r := s.tryList b e (s.patchOf e) (s.fw.plan e.cls att) none
  match r.1 with
  | .go none => ((false, { cause := 2 }), r.2)
  | .go (some t) =>
    if t.cause = 0 then ((if s.lateAt e 0 then (false, { cause := 1 }) else (true, t.res)), r.2)
    else ((false, { cause := t.cause, sym := if t.cause ≤ 3 then 0 else t.sym }), r.2)
  | _ => ((false, { cause := 1 }), r.2)

/-- A read or a NOREAD counted for the report of `sym` (R241). -/
def FwSet.count (f : FwSet) (read : Bool) (r : ReadRes) : FwSet :=
  let x := f.sym r.sym
  f.setSym r.sym (if read then { x with reads := x.reads + 1 }
    else { x with noreads := SMap.set (fun _ => 0) x.noreads r.cause (SMap.get (fun _ => 0) x.noreads r.cause + 1) })

/-- The result of an entry in hand reported: result slot, counts, RIDDLE.DONE (R219, R279). -/
def State.report (s : State) (b i : Nat) (x : Bool × ReadRes) : State :=
  let s := (s.setFw (s.fw.count x.1 x.2)).setSlot i x.2
  if (s.reg Adr.riddleBenches).toNat.testBit b then s.riddleDone i (if x.1 then 1 else 2) else s

/-- A hewer of bench b can use the ECC unit: it is free, or no attempt has a grid to decode (R229). -/
def State.eccFreeFor (s : State) (b : Nat) (att : List Attempt) : Bool :=
  ((s.bench b).eccOwner == 0 && (s.bench b).ecc.isNone) || !att.any (fun a => match a.found with
    | .grid _ => true
    | _ => false)

/-- `DECODE_TICKET` (R227): hewer b.h takes the oldest waiting ticket of its bench, frees its queue entry, and decodes,
grades and reports it. Nothing waits, or the hewer does not run the firmware: nothing happens; nor while another
agent holds the ECC unit that a grid needs, for which the hewer waits. -/
def execDecodeTicket (b h : Fin 8) (att : List Attempt) (s : State) : Out :=
  let k := s.bench b
  if !s.fwRuns b || (s.core (8 * b.val + h.val)).fwOff || !s.eccFreeFor b att then .next s
  else
    match k.order with
    | [] => .next s
    | n :: _ =>
      let i := ((s.tqEnt b n).words.getD 0 0).toNat % 4096
      let s := ((s.tqTake (.hewer b h) b).2).tqFree b (BitVec.ofNat 20 (16 + n))
      match s.ent i with
      | none => .next s
      | some e =>
        let r := s.decode b e att
        .next (r.2.report b i r.1)

end Sys2Proof.Machine
end

