-- ==== Sys2Proof/Machine/Host.lean ====
section
/-!
DEFINITION. The host link (R469 to R482): configuration space, mirror, rings; posting of ashlars with trend monitors and
text lines (R249, R250, R255, R256, R259, R260).
-/
namespace Sys2Proof

/-- The lower-case name of a grade parameter (R245, R248). -/
def GradeParam.text : GradeParam → String
  | .overall => "overall" | .dec => "dec" | .sc => "sc" | .mod => "mod" | .rm => "rm" | .fpd => "fpd" | .an => "an"
  | .gn => "gn" | .uec => "uec" | .rmin => "rmin" | .ecmin => "ecmin" | .defects => "defects"
  | .decodability => "decodability"

namespace Machine

/-! ### Mirror block (R475, R481) -/

/-- Every word of the mirror block written with its current value. -/
def State.mirrorAll (s : State) : State :=
  let s := s.mirror 0 (s.reg Adr.pcieResProd)
  let s := s.mirror 4 (s.reg Adr.pciePayProd)
  let s := upTo 14 (fun i s => s.mirror (8 + 4 * i) 0) s
  upTo 48 (fun r s => s.mirror (0x40 + 4 * r) (s.reg (Adr.pcieStreamProd r))) s

/-- `HOST_WRITE_RESUME` (R475): writing has become possible again, the return from D3hot to D0 included, and an enabled mirror block
is rewritten. -/
def execHostWriteResume (s : State) : Out :=
  if s.pcie.up && s.pcie.bme && s.pcie.stale then .next ((s.setPcie { s.pcie with stale := false, d3 := false }).mirrorAll)
  else .next s

/-! ### Rings (R477 to R482) -/

/-- The mirror words of the result and payload rings (R256, R481). -/
def State.mirrorRes (s : State) : State := (s.mirror 0 (s.reg Adr.pcieResProd)).mirror 4 (s.reg Adr.pciePayProd)

/-- A write of PCIE.CTRL: RES_EN going to 1 zeroes the indices, MIR_EN going to 1 writes every mirror word (R481,
R482). -/
def State.writePcieCtrl (s : State) (hit : Hit) (w : Word) : State :=
  let old := (s.reg Adr.pcieCtrl).toNat
  let s := s.store hit Adr.pcieCtrl w
  let new := (s.reg Adr.pcieCtrl).toNat
  let s := if !old.testBit 0 && new.testBit 0 then
      ((((s.setReg Adr.pcieResProd 0).setReg Adr.pcieResCons 0).setReg Adr.pciePayProd 0).setReg Adr.pciePayCons 0).mirrorRes
    else s
  if !old.testBit 1 && new.testBit 1 then s.mirrorAll else s

/-- A write of STREAM.r.CTRL: EN going to 1 zeroes the indices (R482). -/
def State.writeStreamCtrl (s : State) (r : Nat) (hit : Hit) (w : Word) : State :=
  let old := s.ringEn r
  let s := s.store hit (Adr.pcieStreamCtrlEn r) w
  if !old && s.ringEn r then
    ((s.setReg (Adr.pcieStreamProd r) 0).setReg (Adr.pcieStreamCons r) 0).mirror (0x40 + 4 * r) 0
  else s

/-- PCIE.CTRL with one bit changed. -/
def State.pcieCtrlWord (s : State) (i : Nat) (b : Bool) : Word := putBits (s.reg Adr.pcieCtrl) i i (b2n b)

/-- A write of PCIE.CTRL by an agent. -/
def pcieCtrlWrite (ag : Agent) (w : Word) (s : State) : Out :=
  s.guardWrite ag Adr.pcieCtrl w (fun hit s => .next (s.writePcieCtrl hit w))

/-- `MIRROR_ENABLE` (R481). -/
def execMirrorEnable (ag : Agent) (s : State) : Out := pcieCtrlWrite ag (s.pcieCtrlWord 1 true) s

/-- `RESULT_RING_ENABLE` (R482). -/
def execResultRingEnable (ag : Agent) (en : Bool) (s : State) : Out := pcieCtrlWrite ag (s.pcieCtrlWord 0 en) s

/-- `STREAM_RING_ENABLE` (R482). -/
def execStreamRingEnable (ag : Agent) (r : Fin 48) (en : Bool) (s : State) : Out :=
  let w : Word := BitVec.ofNat 20 (b2n en)
  s.guardWrite ag (Adr.pcieStreamCtrlEn r) w (fun hit s => .next (s.writeStreamCtrl r hit w))

/-- Entries of the result ring (R477). -/
def State.resN (s : State) : Nat := 2 ^ (10 + s.fld Adr.pcieResSize 2 0)

/-- Units of the payload ring (R478). -/
def State.payUnits (s : State) : Nat := s.fld Adr.pciePaySize 13 0 * 64

/-- A consumer write is accepted (R480). -/
def State.consOk (s : State) (a : Nat) (v : Word) : Bool :=
  if a = Adr.pcieResCons then decide ((s.reg Adr.pcieResProd - v).toNat ≤ s.resN)
  else if a = Adr.pciePayCons then decide (v.toNat < s.payUnits)
  else
    let r := (a - Adr.pcieStreamCons 0) / 0x20
    decide ((s.reg (Adr.pcieStreamProd r) - v).toNat ≤ s.ringUnits r)

/-- A write of a consumer register (R480): the host's, whoever owns the block. -/
def consWrite (ag : Agent) (a : Nat) (v : Word) (s : State) : Out :=
  if !s.on 1 then .next s
  else if ag != .host then .next s.undefineAll
  else if s.consOk a v then .next (s.setReg a v)
  else .next (s.setFlag Adr.pcieStatus 11 true)

/-- `RES_CONS_WRITE` (R480). -/
def execResConsWrite (ag : Agent) (v : Word) (s : State) : Out := consWrite ag Adr.pcieResCons v s

/-- `PAY_CONS_WRITE` (R480). -/
def execPayConsWrite (ag : Agent) (v : Word) (s : State) : Out := consWrite ag Adr.pciePayCons v s

/-- `STREAM_CONS_WRITE` (R480). -/
def execStreamConsWrite (ag : Agent) (r : Fin 48) (v : Word) (s : State) : Out := consWrite ag (Adr.pcieStreamCons r) v s

/-! ### Trend monitors (R249, R250) -/

/-- The grade nibble of a parameter for a symbology; none where the parameter is not defined for it. -/
def paramNib (sym : Nat) (p : GradeParam) : Option Nat :=
  match p with
  | .overall => some 0
  | .dec => some 1
  | .sc => some 2
  | .mod => some (if is2d sym then 3 else 5)
  | .rm => if is2d sym then some 4 else none
  | .fpd => if is2d sym then some 5 else none
  | .an => if is2d sym then some 6 else none
  | .gn => if is2d sym then some 7 else none
  | .uec => if is2d sym then some 8 else none
  | .rmin => if is2d sym then none else some 3
  | .ecmin => if is2d sym then none else some 4
  | .defects => if is2d sym then none else some 6
  | .decodability => if is2d sym then none else some 7

/-- A number in an ashlar: `n` bytes from byte i on. -/
def ashNum (a : List Byte) (i n : Nat) : Nat := leNat ((a.drop i).take n)

/-- SYM of an ashlar. -/
def ashSym (a : List Byte) : Nat := bits (ashNum a 0 4) 23 20
/-- READ of an ashlar. -/
def ashRead (a : List Byte) : Bool := (ashNum a 0 4).testBit 31
/-- PLANES of an ashlar. -/
def ashPlanes (a : List Byte) : Nat := bits (ashNum a 8 2) 11 8

/-- The value with which an ashlar enters a monitor, if it matches and is not skipped. -/
def TrendMon.entry (m : TrendMon) (a : List Byte) : Option Nat :=
  let symOk := m.sym.all (· == ashSym a)
  let headOk := m.heads.contains (ashNum a 8 1 % 16)
  let planeOk := (List.range 4).all (fun p => !(ashPlanes a).testBit p || m.planes.contains p)
  if !(symOk && headOk && planeOk) then none
  else if !ashRead a then (if m.noread then some 0 else none)
  else
    match paramNib (ashSym a) m.param with
    | none => none
    | some n => let g := bits (ashNum a 32 5) (4 * n + 3) (4 * n); if g = 15 then none else some g

/-- A monitor after an entry, and its mean in tenths where its state changed. -/
def TrendMon.add (m : TrendMon) (g : Nat) : TrendMon × Option Nat :=
  let m := { m with entries := (g :: m.entries).take m.window, total := m.total + 1 }
  if m.total < m.window then (m, none)
  else
    let mean := 10 * m.entries.foldl (· + ·) 0 / m.window
    if !m.low && mean < m.below then ({ m with low := true }, some mean)
    else if m.low && m.above ≤ mean then ({ m with low := false }, some mean)
    else (m, none)

/-- A trend monitor. -/
def FwSet.trend (f : FwSet) (t : Nat) : Option TrendMon := SMap.get (fun _ => (none : Option TrendMon)) f.trends t

/-- The firmware settings with a monitor replaced. -/
def FwSet.setTrend (f : FwSet) (t : Nat) (m : Option TrendMon) : FwSet :=
  { f with trends := SMap.set (fun _ => (none : Option TrendMon)) f.trends t m }

/-- The monitors after a posted ashlar, with the events of those that changed. -/
def FwSet.trendStep (f : FwSet) (a : List Byte) : FwSet × List Event :=
  upTo 8 (fun t x =>
    match x.1.trend t with
    | none => x
    | some m =>
      match m.entry a with
      | none => x
      | some g =>
        let r := m.add g
        (x.1.setTrend t (some r.1), match r.2 with
          | some mean => x.2 ++ [.trend t r.1.low r.1.param.text mean]
          | none => x.2)) (f, [])

/-! ### Text lines (R259, R260) -/

/-- Symbology names (R223). -/
def symText (n : Nat) : String :=
  ["none", "datamatrix", "qr", "dotcode", "code128", "gs1-128", "code39", "i2of5", "ean13", "ean8", "upca", "upce"].getD n "none"

/-- Cause names (R238). -/
def causeText (n : Nat) : String :=
  ["none", "deadline", "disabled", "finder", "grid", "ecc", "format", "check", "length"].getD n "none"

/-- Names of the STATUS flags in bit order (R252). -/
def flagNames : List String :=
  ["uncertain", "xjoin", "trunc", "solo", "retry", "partial", "late", "clipped", "suspect", "crcerr", "shortline", "cut",
    "gs1", "gs1err", "eci", "mirror", "light", "graded", "trend"]

/-- A grade's letter. -/
def gradeText (g : Nat) : String := ["f", "d", "c", "b", "a"].getD g "-"

/-- Two decimal digits. -/
def twoDigits (n : Nat) : List Byte := decBytes (n / 10 % 10) ++ decBytes (n % 10)

/-- A payload byte in a text line. -/
def dataText (b : Byte) : List Byte :=
  if b = 0x5C then [0x5C, 0x5C]
  else if 0x20 ≤ b.toNat && b.toNat ≤ 0x7E then [b]
  else [0x5C, 0x78, hexDigit (b.toNat / 16), hexDigit b.toNat]

/-- The graded parameters of a symbology as `name=letter`. -/
def gradesText (a : List Byte) : List Byte :=
  [GradeParam.dec, .sc, .rmin, .ecmin, .mod, .rm, .fpd, .an, .gn, .uec, .defects, .decodability].flatMap (fun p =>
    match paramNib (ashSym a) p with
    | none => []
    | some n =>
      let g := bits (ashNum a 32 5) (4 * n + 3) (4 * n)
      if g = 15 then [] else 0x20 :: bytesOf p.text ++ 0x3D :: bytesOf (gradeText g))

/-- The text line of a posted ashlar (R259). -/
def textLine (a payload : List Byte) (detail : Bool) : List Byte :=
  let h := ashNum a 8 1
  let st := ashNum a 4 4
  let sp := fun (t : String) => bytesOf t
  let where_ :=
    sp " h" ++ decBytes (h % 16) ++ (if h / 16 = h % 16 then [] else sp "+h" ++ decBytes (h / 16))
      ++ sp " p" ++ ((List.range 4).filter (fun p => (ashPlanes a).testBit p)).flatMap decBytes
      ++ sp " e" ++ decBytes (bits (ashNum a 8 2) 13 12)
      ++ sp " pos " ++ intBytes (BitVec.ofNat 48 (ashNum a 10 6)).toInt
      ++ sp " x " ++ intBytes (BitVec.ofNat 32 (ashNum a 16 4)).toInt
      ++ sp " ang " ++ decBytes (ashNum a 20 2 / 100) ++ 0x2E :: twoDigits (ashNum a 20 2)
  let lat := sp " lat " ++ decBytes (ashNum a 44 4)
  let flags := (flagNames.zipIdx.filter (fun p => st.testBit p.2 && p.2 != 17)).flatMap (fun p => 0x20 :: bytesOf p.1)
  let head := 0x40 :: decBytes (bits (ashNum a 0 4) 19 0)
  if ashRead a then
    head ++ sp " read " ++ sp (symText (ashSym a)) ++ where_ ++ sp " grade " ++ sp (gradeText (ashNum a 32 1 % 16))
      ++ (if detail then sp " grades" ++ gradesText a else []) ++ lat ++ flags ++ sp " : " ++ payload.flatMap dataText
  else
    head ++ sp " noread " ++ sp (causeText (bits (ashNum a 0 4) 27 24)) ++ 0x20 :: sp (symText (ashSym a)) ++ where_ ++ lat
      ++ flags

/-- A text line queued, or counted as lost (R260). -/
def CmdChan.queueText (c : CmdChan) (l : List Byte) : CmdChan :=
  let q := if c.textLost = 0 then [l] else [bytesOf "@lost " ++ decBytes c.textLost, l]
  if c.textq.length + q.length ≤ 256 then { c with textq := c.textq ++ q, textLost := 0 }
  else { c with textLost := c.textLost + 1 }

/-! ### Posting (R255, R256, R477, R478) -/

/-- Where a payload of k units is placed (R478); none to wait. -/
def place (p c size k : Nat) : Option Nat :=
  if k = 0 then some p
  else if p < c then (if k ≤ c - p - 1 then some p else none)
  else if k ≤ size - p && !(c == 0 && size - p == k) then some p
  else if k + 1 ≤ c then some 0
  else none

/-- Posting may start: 50 µs after the last start, rings enabled, host memory writable, mirror rewritten (R256, R475,
R482). -/
def State.mayPost (s : State) : Bool :=
  s.on 1 && s.flag Adr.pcieCtrl 0 && s.hostCan && !s.pcie.stale
    && s.res.lastPost.all (fun t => decide (50 * usT ≤ s.since t))
    && decide ((s.reg Adr.pcieResProd - s.reg Adr.pcieResCons).toNat < s.resN)

/-- A staged result posted at payload unit u: payload, ashlar, producer indices, mirror; then text line and events. -/
def State.post (s : State) (r : Staged) (rest : List Staged) (u k : Nat) : State :=
  let t := s.fw.trendStep r.ashlar
  let lat := min ((s.tm - r.time).toNat / usT) 0xFFFFFFFF
  let st := ashNum r.ashlar 4 4 ||| (if t.2.isEmpty then 0 else 2 ^ 18)
  let a := patch (patch (patch r.ashlar 4 (leBytes st 4)) 44 (leBytes lat 4)) 56 (leBytes (64 * u) 4)
  let s := s.putHost (s.hostBase Adr.pciePayBaseL Adr.pciePayBaseH + 64 * u)
    (r.payload ++ List.replicate (64 * k - r.payload.length) 0)
  let i := (s.reg Adr.pcieResProd).toNat
  let s := s.putHost (s.hostBase Adr.pcieResBaseL Adr.pcieResBaseH + i % s.resN * 64) a
  let s := (s.setReg Adr.pcieResProd (BitVec.ofNat 20 (i + 1))).setReg Adr.pciePayProd (BitVec.ofNat 20 ((u + k) % s.payUnits))
  let s := ((s.mirrorRes).setRes { s.res with staging := rest, lastPost := some s.time }).setFw t.1
  let s := match s.fw.text with
    | some n => s.setChan (1 - n) ((s.chan (1 - n)).queueText (textLine a r.payload s.fw.detail))
    | none => s
  t.2.foldl (fun s e => s.raise e) s

/-- A staged result as it is read back: one whose copies in DRAM are undefined gives a free ashlar and payload (R433). -/
def State.readStaged (s : State) (r : Staged) : Staged × State :=
  if !r.undef then (r, s)
  else
    let a := s.drawList r.ashlar.length 256
    let p := a.2.drawList r.payload.length 256
    ({ r with ashlar := a.1.map (BitVec.ofNat 8 ·), payload := p.1.map (BitVec.ofNat 8 ·) }, p.2)

/-- `ASHLAR_POST` (R256): the oldest staged result, if it may be posted and finds room. -/
def execAshlarPost (s : State) : Out :=
  match s.res.staging with
  | [] => .next s
  | r :: rest =>
    if !s.mayPost then .next s
    else
      let k := (r.payload.length + 63) / 64
      match place (s.reg Adr.pciePayProd).toNat (s.reg Adr.pciePayCons).toNat s.payUnits k with
      | none => .next s
      | some u => .next ((s.readStaged r).2.post (s.readStaged r).1 rest u k)

/-! ### The endpoint (R32, R455, R469 to R471, R475) -/

/-- The endpoint is present: PCI is powered (R32). -/
def State.endpoint (s : State) : Bool := s.on 1

/-- The configuration space at its reset values, the link down. -/
def Pcie.resetCfg (p : Pcie) : Pcie := { p with up := false, width := 0, speed := 0, bme := false, mse := false, d3 := false, cfg := [] }

/-- `PCIE_LINK_UP` (R32, R469): a link of 1, 2, 4 or 8 lanes at one of the five speeds; the reference is present. -/
def execPcieLinkUp (width speed : Nat) (s : State) : Out :=
  if s.endpoint && (width == 1 || width == 2 || width == 4 || width == 8) && 1 ≤ speed && speed ≤ 5 then
    .next ((s.setPw { s.pw with pciRef := true }).setPcie { s.pcie with up := true, width := width, speed := speed, perst := false })
  else .next s

/-- `LINK_DOWN` (R475). -/
def execLinkDown (s : State) : Out :=
  if s.endpoint && s.pcie.up then
    .next ((s.setPcie { s.pcie.resetCfg with stale := true }).incr Adr.pcieLinkdn)
  else .next s

/-- `PERST_ASSERT` (R455, R475): the link and the configuration space are reset, the engine runs on. -/
def execPerstAssert (s : State) : Out :=
  if s.endpoint then .next (s.setPcie { s.pcie.resetCfg with perst := true, stale := true }) else .next s

/-- `BUS_MASTER_DISABLE` (R475): Bus Master Enable cleared, or D3hot entered. -/
def execBusMasterDisable (d3 : Bool) (s : State) : Out :=
  if s.endpoint && s.pcie.up then
    .next (s.setPcie (if d3 then { s.pcie with d3 := true, stale := true } else { s.pcie with bme := false, stale := true }))
  else .next s

/-- Bytes of a configuration register that the host may write, as a mask (R469 to R471): Memory Space, Bus Master, parity
and SERR enables of Command, the address bits of the BARs, Cache Line Size and Interrupt Line. -/
def cfgMask (reg : Nat) : Nat :=
  if reg = 1 then 0x146
  else if reg = 3 then 0xFF
  else if reg = 4 then 0xF0000000
  else if reg = 5 then 0xFFFFFFFF
  else if reg = 7 then 0xFFFFFFF8
  else if reg = 15 then 0xFF
  else 0

/-- Fixed bits of a configuration register (R470, R471): identity, class, capability list, BAR types. -/
def cfgFixed (reg : Nat) : Nat :=
  if reg = 0 then 0x16201E73
  else if reg = 1 then 0x00100000
  else if reg = 2 then 0x11800000
  else if reg = 4 then 0x4
  else if reg = 6 then 0xC
  else if reg = 11 then 0x00011E73
  else 0

/-- A register of the type 0 header; the capability registers and the capability pointer are not placed by the manual.
(DESIGN CHOICE, log 81) -/
def cfgKnown (reg : Nat) : Bool := reg < 16 && reg != 13

/-- The word that byte enables select. -/
def byteMask (be : BitVec 4) : Nat :=
  (List.range 4).foldl (fun v i => if be.toNat.testBit i then v + 255 * 256 ^ i else v) 0

/-- A configuration register as it reads. -/
def State.cfgRead (s : State) (reg : Nat) : BitVec 32 :=
  BitVec.ofNat 32 (cfgFixed reg) ||| SMap.get (fun _ => (0 : BitVec 32)) s.pcie.cfg reg

/-- A configuration register written: Command holds Memory Space and Bus Master Enable. -/
def State.cfgWrite (s : State) (reg : Nat) (be : BitVec 4) (v : BitVec 32) : State :=
  let m := BitVec.ofNat 32 (cfgMask reg &&& byteMask be)
  let old := SMap.get (fun _ => (0 : BitVec 32)) s.pcie.cfg reg
  let w := (old &&& ~~~ m) ||| (v &&& m)
  let p := { s.pcie with cfg := SMap.set (fun _ => (0 : BitVec 32)) s.pcie.cfg reg w }
  s.setPcie (if reg = 1 then
      { p with mse := w.toNat.testBit 1, bme := w.toNat.testBit 2, stale := p.stale || (p.bme && !w.toNat.testBit 2) }
    else p)

/-- `CONFIG_REQUEST` (R469, R470): a read returns the register's four bytes; a register the manual does not place reads
a free value. -/
def execConfigRequest (wr : Bool) (reg : Nat) (be : BitVec 4) (v : BitVec 32) (s : State) : Out :=
  if !s.endpoint || !s.pcie.up then .next s
  else if wr then .next ((s.cfgWrite reg be v).setPcie { (s.cfgWrite reg be v).pcie with ur := false, ep := false, data := [] })
  else if cfgKnown reg then
    .next (s.setPcie { s.pcie with ur := false, ep := false, data := leBytes (s.cfgRead reg).toNat 4 })
  else
    let d := s.draw
    .next (d.2.setPcie { s.pcie with ur := false, ep := false, data := leBytes d.1 4 })

/-- A completion with Unsupported Request. -/
def State.completeUr (s : State) : State := s.setPcie { s.pcie with ur := true, ep := false, data := [] }

/-- A memory request reaches the function: link up, D0, Memory Space enabled. -/
def State.memSpace (s : State) : Bool := s.endpoint && s.pcie.up && s.pcie.mse && !s.pcie.d3

/-- `BAR2_REQUEST` (R473): a write of `data`, or a read of as many bytes; `ue` tells that the read and its repeat meet an
uncorrectable result: the data of the poisoned completion is free. -/
def execBar2Request (wr : Bool) (off : Nat) (data : List Byte) (ue : Bool) (s : State) : Out :=
  if !s.endpoint || !s.pcie.up then .next s
  else if !s.memSpace then .next (if wr then s else s.completeUr)
  else if wr then .next (if off < dramSize && s.on 7 then s.putDram off data else s)
  else if dramSize < off + data.length || dramSize ≤ off then .next s.completeUr
  else if ue then
    let d := s.drawList data.length 256
    .next (((d.2.setPcie { s.pcie with ur := false, ep := true, data := d.1.map (BitVec.ofNat 8 ·) }).spoilAdd .dramUe 0x41 .lasting
      (dramBase + off)).incr Adr.pciePoison)
  else .next (s.setPcie { s.pcie with ur := false, ep := false, data := s.dramRun off data.length })

end Machine
end Sys2Proof
end

