-- ==== Sys2Proof/Machine/Port.lean ====
section
/-!
DEFINITION. Camera ports: stream filters, conversion, slabs, the tag matcher of R110, watchdogs, outcomes (R100 to R115,
R119, R120).
-/
namespace Sys2Proof.Machine

/-! ### Streams -/

/-- An image stream of a port. -/
def State.pst (s : State) (p st : Nat) : PStream := SMap.get (fun _ => ({} : PStream)) (s.port p).st st

/-- The state with an image stream replaced. -/
def State.setPst (s : State) (p st : Nat) (v : PStream) : State :=
  s.setPort p { s.port p with st := SMap.set (fun _ => ({} : PStream)) (s.port p).st st v }

/-- CTRL.EN of a port whose domain is on. -/
def State.portOn (s : State) (p : Nat) : Bool := s.on (portPd p) && s.flag (Adr.portCtrl p) 0

/-- The virtual channel that a stream's filter names as last written. -/
def State.filtVc (s : State) (p st : Nat) : Nat := s.fld (Adr.portFilt p st) 3 0

/-- VC and data type of a stream's filter in effect. -/
def State.actVc (s : State) (p st : Nat) : Nat := s.efld (Adr.portFilt p st) 3 0
/-- Data type in effect. -/
def State.actDt (s : State) (p st : Nat) : Nat := s.efld (Adr.portFilt p st) 9 4
/-- Width in effect. -/
def State.actWidth (s : State) (p st : Nat) : Nat := s.efld (Adr.portWidth p st) 13 0 + 1

/-- EMB is enabled, as in effect. -/
def State.embOn (s : State) (p : Nat) : Bool := s.efld (Adr.portCtrl p) 6 6 == 1

/-- Counter-checked alignment of a stream (R112). -/
def State.alignOn (s : State) (p st : Nat) : Bool := (s.pst p st).align && s.embOn p

/-! ### Tags (R109, R110) -/

/-- The oldest tag that a stream has not passed. -/
def State.ptrTag (s : State) (p st : Nat) : Option TagEnt :=
  (s.head p).tags[(s.pst p st).ptr - (s.head p).tagBase]?

/-- The stream passes its oldest tag. -/
def State.pass (s : State) (p st : Nat) : State :=
  let x := s.pst p st
  (s.setPst p st { x with ptr := x.ptr + 1 }).passTags p

/-- The stream passes its oldest tag unmatched. -/
def State.passDisc (s : State) (p st : Nat) : State := (s.pass p st).incr (Adr.portTagDisc p)

/-- A time of TMO_FS in units of TIME. -/
def PStream.fsTicks (x : PStream) : Nat := x.tmoFs.toNat * usT

/-- Default anchoring, over at most `fuel` tags (R110). -/
def State.timeAnchor (s : State) (p st : Nat) : Nat → State × Option TagEnt
  | 0 => (s, none)
  | fuel + 1 =>
    let x := s.pst p st
    match s.ptrTag p st with
    | none => (s, none)
    | some t =>
      let age := (x.tfs - t.tag.time).toInt
      if age < 0 then (s, none)
      else if t.tag.index = 0 && decide (age ≤ x.fsTicks) then (s, some t)
      else (s.passDisc p st).timeAnchor p st fuel

/-- Anchoring by time; where the slab's Frame Start came later than TMO_FS after its first trigger, or TMO_FS is not below
N × MIN_INT, which tag anchors is a free choice among those that the FIFO holds (R111, R433). -/
def State.anchorTime (s : State) (p st : Nat) : State × Option TagEnt :=
  let x := s.pst p st
  let n := (s.head p).tags.length
  match s.ptrTag p st with
  | none => (s, none)
  | some t =>
    if !x.late && decide (x.fsTicks < t.n * (s.reg (Adr.trghMinInt p)).toNat) then s.timeAnchor p st (n + 1)
    else
      let d := s.draw
      let s := d.2.setPort p { d.2.port p with taint := true }
      let s := upTo (d.1 % (n + 1)) (fun _ s => s.passDisc p st) s
      (s, s.ptrTag p st)

/-- Counter-checked alignment, over at most `fuel` tags (R110). -/
def State.counterAnchor (s : State) (p st : Nat) (c : BitVec 16) : Nat → State × Option TagEnt
  | 0 => (s, none)
  | fuel + 1 =>
    match s.ptrTag p st with
    | none => (s, none)
    | some t =>
      if (t.trignum - c).toInt < 0 then (s.passDisc p st).counterAnchor p st c fuel
      else if t.trignum = c then (s, some t)
      else (s, none)

/-- The slab's anchor set, or the slab dead for want of one (R110). -/
def State.setAnchor (s : State) (p st : Nat) (byCounter : Bool) (a : Option TagEnt) : State :=
  let x := s.pst p st
  match a with
  | none => (s.setPst p st { x with dead := true, byCounter := byCounter }).incr (Adr.portUnanch p)
  | some t => s.setPst p st { x with anchor := some t, n := t.n - t.tag.index.toNat, byCounter := byCounter }

/-! ### Close (R110, R114, R119) -/

/-- What closes a slab. -/
inductive CloseCause where
  | frameStart | frameEnd | watchdog | disable
deriving DecidableEq, Repr

/-- The outcome of a slab that closes. -/
def PStream.outcome (x : PStream) (c : CloseCause) : Outc :=
  if x.dead then .unanchored
  else if x.anchor.isNone then .empty
  else if c == .watchdog || c == .disable then .timeout
  else if x.r < x.n then .short
  else .ok

/-- LAST of a stream. -/
def Adr.portLast (p st : Nat) : Nat := if st = 0 then Adr.portLast0 p else Adr.portLast1 p
/-- FLAGS of a stream. -/
def Adr.portFlags (p st : Nat) : Nat := if st = 0 then Adr.portFlags0 p else Adr.portFlags1 p

/-- An outcome recorded in LAST, FLAGS and the counters (R114, R119, R120). -/
def State.recordSlab (s : State) (p st : Nat) (o : Outc) (lines flags : Nat) : State :=
  let s := s.setReg (Adr.portLast p st) (BitVec.ofNat 20 (lines % 2 ^ 14 * 8 + o.code))
  (s.setReg (Adr.portFlags p st) (BitVec.ofNat 20 flags)).incr (Adr.portSlabs p)

/-- An open slab closes: the record, then the Face (R110, R114). -/
def State.closeSlab (s : State) (p st : Nat) (c : CloseCause) : State :=
  let x := s.pst p st
  let o := x.outcome c
  let unc := o == .short || (o == .timeout && x.linkerr)
  let flags := b2n x.long + 2 * b2n x.sline + 4 * b2n x.lline + 8 * b2n x.crc + 16 * b2n unc + 32 * b2n x.byCounter
  let s := s.recordSlab p st o x.r flags
  let s := if o == .short then s.incr (Adr.portShort p) else s
  let s := if x.long then s.incr (Adr.portLong p) else s
  let s := if c == .watchdog && o == .timeout then s.incr (Adr.portTmo p) else s
  let s := s.setPst p st { x with open_ := false }
  s.faceClose p st { outc := o, uncertain := unc, long := x.long, anchor := x.anchor.map TagEnt.tag }

/-- A slab opens at a Frame Start, closing the one that is open (R110); `rise` is the TRIG rise that the Frame Start
answers (R111). -/
def State.startSlab (s : State) (p st : Nat) (rise : Option (BitVec 64)) : State :=
  let s := if (s.pst p st).open_ then (s.incr (Adr.portFeMiss p)).closeSlab p st .frameStart else s
  let x := s.pst p st
  let s := s.setPst p st { x with
    open_ := true, dead := false, anchor := none, byCounter := false, r := 0, n := 0, long := false, linkerr := false,
    late := rise.any (fun t => decide ((x.fsTicks : Int) < (s.tm - t).toInt)),
    tfs := s.tm, embdone := false, sline := false, lline := false, crc := false }
  s.faceOpen p st

/-! ### Adoption at a Frame Start (R106, R115, R119) -/

/-- Image streams active on the other ports of a port's Face. -/
def State.activeElse (s : State) (p : Nat) : Nat :=
  ((List.range 8).filter (fun i =>
    let q := p / 4 * 4 + i / 2
    q != p && s.portOn q && s.strAct q (i % 2))).length

/-- An image stream's configuration: whether it is active, its virtual channel and its data type. -/
structure ImgCfg where
  on : Bool
  vc : Nat
  dt : Nat
deriving DecidableEq, Repr

/-- The configuration of a stream in effect. -/
def State.imgNow (s : State) (p st : Nat) : ImgCfg := ⟨s.strAct p st, s.actVc p st, s.actDt p st⟩

/-- The configuration that a stream asks for at a Frame Start of channel vc. -/
def State.imgNext (s : State) (p st vc : Nat) : ImgCfg :=
  if s.filtVc p st = vc then ⟨s.flag (Adr.portCtrl p) (4 + st), vc, s.fld (Adr.portFilt p st) 9 4⟩ else s.imgNow p st

/-- The change that a stream asks for at a Frame Start of channel vc is refused: the other stream of the port holds the
same VC and data type, or a fifth stream would be active on the Face (R106). IMG0 is judged before IMG1; what IMG1 gives up
at the same Frame Start is free for IMG0. (DEDUCED, log 143) -/
def State.imgRefused (s : State) (p st vc : Nat) : Bool :=
  let me := s.imgNext p st vc
  let now := s.imgNow p st
  let mate := s.imgNow p (1 - st)
  let mateNext := if st = 0 then s.imgNext p 1 vc else mate
  let clash := mate.on && mateNext == mate && mate.vc == me.vc && mate.dt == me.dt
  let fifth := !now.on && decide (4 ≤ s.activeElse p + b2n (mate.on && mateNext.on))
  me.on && me != now && (clash || fifth)

/-- A Frame Start of the virtual channel that a stream's filter names as last written: the stream's values take effect.
A slab open on another channel closes as by disable (R115); a slab open when the stream's enable goes closes at this
Frame Start. (DEDUCED, log 40) (DEDUCED, log 41) -/
def State.adoptStream (s : State) (p st vc : Nat) : State :=
  if s.filtVc p st ≠ vc then s
  else
    let en := s.flag (Adr.portCtrl p) (4 + st)
    let x := s.pst p st
    if s.imgRefused p st vc then s.setFlag (Adr.portStatus p) 6 true
    else
      let s := if x.act && x.open_ && s.actVc p st != vc then s.closeSlab p st .disable
        else if x.act && x.open_ && !en then (s.incr (Adr.portFeMiss p)).closeSlab p st .frameStart
        else s
      let s := s.adoptAll [Adr.portFilt p st, Adr.portWidth p st]
      let x := s.pst p st
      let s := s.setPst p st { x with
        act := en, ptr := if en && !x.act then (s.head p).tagBase else x.ptr,
        fill := s.reg (Adr.portFill p), tmoFs := s.reg (Adr.portTmoFs p), tmoFe := s.reg (Adr.portTmoFe p),
        cnt := s.reg (Adr.portCnt p), align := s.flag (Adr.portCtrl p) 7 }
      s.passTags p

/-- The values of EMB take effect at a Frame Start of the channel that its filter names as last written. -/
def State.adoptEmb (s : State) (p vc : Nat) : State :=
  if s.fld (Adr.portEmbFilt p) 3 0 ≠ vc then s
  else (s.adopt (Adr.portEmbFilt p)).setEff (Adr.portCtrl p) (putBits 0 6 6 (s.fld (Adr.portCtrl p) 6 6))

/-- A corrected header is counted (R107). -/
def State.header (s : State) (p : Nat) (cor : Bool) : State := if cor then s.incr (Adr.portEccCor p) else s

/-- `FRAME_START` (R107, R110, R115). (DEDUCED, log 39) -/
def execFrameStart (p : Fin 16) (hdr : FsHdr) (s : State) : Out :=
  if !s.portOn p then .next s
  else
    let v := hdr.vc.toNat
    let s := s.header p hdr.cor
    let s := ((s.adoptEmb p v).adoptStream p 0 v).adoptStream p 1 v
    let hit := (List.range 2).filter (fun st => s.strAct p st && s.actVc p st == v)
    .next (if hit.isEmpty then s.incr (Adr.portPktIgn p) else hit.foldl (fun s st => s.startSlab p st hdr.rise) s)

/-- `FRAME_END` (R107, R110). -/
def execFrameEnd (p : Fin 16) (hdr : PktHdr) (s : State) : Out :=
  if !s.portOn p then .next s
  else
    let s := s.header p hdr.cor
    let hit := (List.range 2).filter (fun st => s.strAct p st && s.actVc p st == hdr.vc.toNat)
    .next (if hit.isEmpty then s.incr (Adr.portPktIgn p)
      else hit.foldl (fun s st =>
        if (s.pst p st).open_ then s.closeSlab p st .frameEnd else s.incr (Adr.portPktIgn p)) s)

/-! ### Lines (R106 to R108, R110, R112) -/

/-- A stream's line of pixels brought to WIDTH (R108): padded with FILL or truncated. -/
def fitLine (dt w fill : Nat) (px : List Nat) : List Nat :=
  let n := if dtRgb dt then 8 else dtBits dt
  let v := fill % 2 ^ n
  let pad := if dtRgb dt then v * 65536 + v * 256 + v else v
  px.take w ++ List.replicate (w - px.length) pad

/-- The line delivered to the Face with its tag (R114); a line that is undefined (R89, R94)
has free pixel values. -/
def State.deliver (s : State) (p st : Nat) (comps : List (List Nat)) (t : TagEnt) (fl : LFlags) : State :=
  let dt := s.actDt p st
  let r := if t.undef then
      comps.foldl (fun (a : List (List Nat) × State) l =>
        let d := a.2.drawList l.length (2 ^ dtBits dt)
        (a.1 ++ [d.1], d.2)) ([], s)
    else (comps, s)
  r.2.faceLine p st r.1 dt t.tag fl

/-- An image line of an open slab that has been converted, from anchoring on (R110). -/
def State.matchLine (s : State) (p st : Nat) (comps : List (List Nat)) (fl : LFlags) : State :=
  let x := s.pst p st
  if x.dead then s.incr (Adr.portNotag p)
  else
    let s := if x.anchor.isSome then s
      else
        let s := if s.alignOn p st then s.incr (Adr.portAlignMiss p) else s
        let a := s.anchorTime p st
        a.1.setAnchor p st false a.2
    let x := s.pst p st
    match x.anchor with
    | none => s.incr (Adr.portNotag p)
    | some a =>
      if x.n ≤ x.r then s.setPst p st { x with long := true }
      else
        let want := a.trignum + BitVec.ofNat 16 x.r
        let s := s.setPst p st { x with r := x.r + 1 }
        match s.ptrTag p st with
        | none => s.incr (Adr.portNotag p)
        | some t =>
          if t.trignum ≠ want then s.incr (Adr.portNotag p)
          else (s.pass p st).deliver p st comps t { fl with suspect := x.linkerr }

/-- An image line of a stream: ignored without an open slab, otherwise converted and matched (R108, R110). -/
def State.imageLine (s : State) (p st : Nat) (bytes : List Byte) (crcBad : Bool) : State :=
  let x := s.pst p st
  if !x.open_ then s.incr (Adr.portPktIgn p)
  else
    let dt := s.actDt p st
    let w := s.actWidth p st
    let px := unpackLine dt bytes
    let short := decide (px.length < w)
    let long := decide (w < px.length)
    let s := if short then s.incr (Adr.portSline p) else s
    let s := if long then s.incr (Adr.portLline p) else s
    let s := s.setPst p st { x with sline := x.sline || short, lline := x.lline || long, crc := x.crc || crcBad }
    s.matchLine p st (compsOf dt (fitLine dt w x.fill.toNat px)) { crc := crcBad, short := short, long := long }

/-- The counter in an embedded line (R112). -/
def counterOf (cnt : Word) (bytes : List Byte) : BitVec 16 :=
  let i := bits cnt.toNat 9 0
  let a := (bytes.getD i 0).toNat
  let b := (bytes.getD (i + 1) 0).toNat
  BitVec.ofNat 16 (if cnt.toNat.testBit 10 then b * 256 + a else a * 256 + b)

/-- An embedded line for one image stream (R110, R112). -/
def State.embLine (s : State) (p st : Nat) (bytes : List Byte) (crcBad : Bool) : State :=
  if !s.alignOn p st then s
  else
    let s := if (s.pst p st).open_ then s else (s.incr (Adr.portFsMiss p)).startSlab p st none
    let x := s.pst p st
    if x.embdone || x.anchor.isSome || x.dead then s
    else
      let s := s.setPst p st { x with embdone := true }
      if crcBad || bytes.length < bits x.cnt.toNat 9 0 + 2 then s
      else
        let c := counterOf x.cnt bytes
        if (s.port p).learn then
          let a := s.anchorTime p st
          let s := match a.2 with
            | some t => (a.1.setReg (Adr.portCntOfs p) ((t.trignum - c).setWidth 20)).setPort p { a.1.port p with learn := false }
            | none => a.1
          s.setAnchor p st false a.2
        else
          let a := s.counterAnchor p st (c + (s.reg (Adr.portCntOfs p)).setWidth 16) ((s.head p).tags.length + 1)
          a.1.setAnchor p st true a.2

/-- A long packet (R101, R106, R107): as an embedded line, then as an image line, of the filters that match it. -/
def State.longPacket (s : State) (p vc dt : Nat) (bytes : List Byte) (crcBad eccCor : Bool) : State :=
  if !s.portOn p then s
  else
    let s := s.header p eccCor
    let emb := s.embOn p && s.efld (Adr.portEmbFilt p) 3 0 == vc && s.efld (Adr.portEmbFilt p) 9 4 == dt
    let img := (List.range 2).filter (fun st => s.strAct p st && s.actVc p st == vc && s.actDt p st == dt)
    if !emb && img.isEmpty then s.incr (Adr.portPktIgn p)
    else
      let s := if crcBad then s.incr (Adr.portCrcErr p) else s
      let s := if emb then
          ((List.range 2).filter (fun st => s.strAct p st && s.actVc p st == vc)).foldl
            (fun s st => s.embLine p st bytes crcBad) s
        else s
      img.foldl (fun s st => s.imageLine p st bytes crcBad) s

/-- `EMBEDDED_LINE` (R112). -/
def execEmbeddedLine (p : Fin 16) (vc : BitVec 4) (dt : BitVec 6) (bytes : List Byte) (crcBad eccCor : Bool) (s : State) : Out :=
  .next (s.longPacket p vc.toNat dt.toNat bytes crcBad eccCor)

/-- `IMAGE_LINE` (R110). (DEDUCED, log 38) -/
def execImageLine (p : Fin 16) (vc : BitVec 4) (dt : BitVec 6) (bytes : List Byte) (crcBad eccCor : Bool) (s : State) : Out :=
  .next (s.longPacket p vc.toNat dt.toNat bytes crcBad eccCor)

/-- `PACKET_UNMATCHED` (R101, R107): a packet that matches no enabled stream filter. -/
def execPacketUnmatched (p : Fin 16) (hdr : PktHdr) (dt : BitVec 6) (s : State) : Out :=
  if !s.portOn p then .next s
  else
    let v := hdr.vc.toNat
    let d := dt.toNat
    let s := s.header p hdr.cor
    let emb := s.embOn p && s.efld (Adr.portEmbFilt p) 3 0 == v && s.efld (Adr.portEmbFilt p) 9 4 == d
    let img := (List.range 2).any (fun st => s.strAct p st && s.actVc p st == v && s.actDt p st == d)
    .next (if emb || img then s else s.incr (Adr.portPktIgn p))

/-! ### Watchdogs and link events (R104, R105, R107, R113, R119) -/

/-- `FRAME_END_WATCHDOG` (R110, R113): TMO_FE after its Frame Start an open slab closes. -/
def execFrameEndWatchdog (p : Fin 16) (st : Fin 2) (s : State) : Out :=
  let x := s.pst p st
  if s.portOn p && x.act && x.open_ && decide ((x.tmoFe.toNat * 100 * usT : Int) < (s.tm - x.tfs).toInt) then
    .next (s.closeSlab p st .watchdog)
  else .next s

/-- `FRAME_START_WATCHDOG` (R110, R114): a tag older than TMO_FS with no slab open is passed; an INDEX 0 tag records
TIMEOUT, which goes to the Face as the outcome of a slab without lines. (DEDUCED, log 48) -/
def execFrameStartWatchdog (p : Fin 16) (st : Fin 2) (s : State) : Out :=
  let x := s.pst p st
  match s.ptrTag p st with
  | none => .next s
  | some t =>
    if s.portOn p && x.act && !x.open_ && decide ((x.fsTicks : Int) < (s.tm - t.tag.time).toInt) then
      let s := if t.tag.index = 0 then
          ((s.recordSlab p st .timeout 0 0).incr (Adr.portTmo p)).faceMissed p st
            { outc := .timeout, uncertain := false, long := false, anchor := some t.tag }
        else s
      .next (s.passDisc p st)
    else .next s

/-- A link error: every open slab records it (R107, R110). -/
def State.linkError (s : State) (p : Nat) : State :=
  upTo 2 (fun st s => if (s.pst p st).open_ then s.setPst p st { s.pst p st with linkerr := true } else s) s

/-- `LINK_ERROR` (R107). -/
def execLinkError (p : Fin 16) (k : LinkErrKind) (s : State) : Out :=
  if !s.portOn p then .next s
  else
    .next ((s.incr (match k with | .header => Adr.portEccErr p | .sotSync => Adr.portPhyErr p)).linkError p)

/-- `SKEW_CALIBRATION` (R104): DESKEW is set by a sequence after the enable. -/
def execSkewCalibration (p : Fin 16) (s : State) : Out :=
  .next (if s.portOn p then s.setFlag (Adr.portStatus p) 2 true else s)

/-- The clock lane or a data lane that LANES selects is in ULPS (R105). -/
def State.ulpsOn (s : State) (p : Nat) : Bool :=
  let n := 2 ^ s.fld (Adr.portCtrl p) 2 1
  (s.port p).ulps.any (fun l => match l with
    | none => true
    | some i => decide (i.val < n))

/-- A lane of a port enters ULPS, or exits it. -/
def State.setUlps (s : State) (l : PortLane) (v : Bool) : State :=
  if s.on (portPd l.port) then
    let x := s.port l.port
    let rest := x.ulps.filter (· != l.lane)
    s.setPort l.port { x with ulps := if v then l.lane :: rest else rest }
  else s

/-- `ULPS_ENTRY` (R105): no slab is closed. -/
def execUlpsEntry (l : PortLane) (s : State) : Out := .next (s.setUlps l true)

/-- `ULPS_EXIT` (R105). -/
def execUlpsExit (l : PortLane) (s : State) : Out := .next (s.setUlps l false)

/-- `CLOCK_LANE_HS_ENTRY` (R119): LINK reads 1. -/
def execClockLaneHsEntry (p : Fin 16) (s : State) : Out :=
  .next (if s.on (portPd p) then s.setFlag (Adr.portStatus p) 0 true else s)

/-- `CLOCK_LANE_HS_EXIT` (R119): LINK reads 0. -/
def execClockLaneHsExit (p : Fin 16) (s : State) : Out :=
  .next (if s.on (portPd p) then s.setFlag (Adr.portStatus p) 0 false else s)

/-! ### Register writes (R112, R115, R149) -/

/-- The port stops (R115): open slabs close by disable, streams and EMB are no longer in effect, tags are passed. -/
def State.portStop (s : State) (p : Nat) : State :=
  let s := upTo 2 (fun st s => if (s.pst p st).open_ then s.closeSlab p st .disable else s) s
  let s := upTo 2 (fun st s => s.setPst p st { s.pst p st with act := false }) s
  (s.setEff (Adr.portCtrl p) 0).passTags p

/-- A write of PORT.p.CTRL (R104, R112, R115): EN of a port out of service is held off (R427). -/
def State.writePortCtrl (s : State) (p : Nat) (hit : Hit) (w : Word) : State :=
  let was := s.flag (Adr.portCtrl p) 0
  let w := if s.outOfService p then putBits w 0 0 0 else w
  let s := s.store hit (Adr.portCtrl p) w
  let now := s.flag (Adr.portCtrl p) 0
  let s := if w.toNat.testBit 8 then s.setPort p { s.port p with learn := true } else s
  if !was && now then s.setFlag (Adr.portStatus p) 2 false
  else if was && !now then s.portStop p
  else s

/-- A write of a stream's filter or width: a new width or data type under an enabled context is the undefined case of
R149. -/
def State.writePortStr (s : State) (p st : Nat) (hit : Hit) (a : Nat) (w : Word) : State :=
  let oldW := s.strWidth p st
  let oldD := s.strDt p st
  let s := s.store hit a w
  if s.strWidth p st = oldW && s.strDt p st = oldD then s
  else
    match s.findCtx p st with
    | some c => s.setFctx (4 * (p / 4) + c) { s.fctx (4 * (p / 4) + c) with taint := true }
    | none => s

/-- A write of PORT.p.CTRL by an agent. -/
def portCtrlWrite (ag : Agent) (p : Nat) (w : Word) (s : State) : Out :=
  s.guardWrite ag (Adr.portCtrl p) w (fun hit s => .next (s.writePortCtrl p hit w))

/-- `PORT_ENABLE` (R115). -/
def execPortEnable (ag : Agent) (p : Fin 16) (s : State) : Out :=
  portCtrlWrite ag p (putBits (s.reg (Adr.portCtrl p)) 0 0 1) s

/-- `PORT_DISABLE` (R115). -/
def execPortDisable (ag : Agent) (p : Fin 16) (s : State) : Out :=
  portCtrlWrite ag p (putBits (s.reg (Adr.portCtrl p)) 0 0 0) s

/-- `PORT_LEARN` (R112). -/
def execPortLearn (ag : Agent) (p : Fin 16) (s : State) : Out :=
  portCtrlWrite ag p (putBits (s.reg (Adr.portCtrl p)) 8 8 1) s

end Sys2Proof.Machine
end

