-- ==== Sys2Proof/Machine/I2c.lean ====
section
/-!
DEFINITION. The I2C head controllers (R116 to R118).
-/
namespace Sys2Proof.Machine

/-- Byte i of I2C.TX (R119). -/
def State.i2cTx (s : State) (p i : Nat) : Byte := BitVec.ofNat 8 ((s.reg (Adr.portI2cTx p (i / 2))).toNat / 256 ^ (i % 2))

/-- Bytes put into I2C.RX from byte i on. -/
def State.putRx (s : State) (p : Nat) : Nat → List Byte → State
  | _, [] => s
  | i, b :: bs =>
    let a := Adr.portI2cRx p (i / 2)
    (s.setFld a (8 * (i % 2) + 7) (8 * (i % 2)) b.toNat).putRx p (i + 1) bs

/-- BUSY of a controller. -/
def State.i2cBusy (s : State) (p : Nat) : Bool := (s.port p).i2c.isSome

/-- A write of I2C.CMD (R117): a transaction starts, or CFGERR is set. -/
def State.writeI2cCmd (s : State) (p : Nat) (w : Word) : State :=
  let st := Adr.portI2cStatus p
  let wlen := bits w.toNat 12 7
  let rlen := bits w.toNat 18 13
  if s.i2cBusy p || 32 < wlen || 32 < rlen then s.setFlag st 5 true
  else if !w.toNat.testBit 19 then s
  else
    let job : I2cJob := { addr := BitVec.ofNat 7 w.toNat, wlen := wlen, rlen := rlen,
                          tx := (List.range wlen).map (s.i2cTx p) }
    (s.setPort p { s.port p with i2c := some job }).setFld st 4 0 1

/-- The command line channel that waits for port p's transaction gets its reply: the bytes read, or the failure.
(DESIGN CHOICE, log 43) -/
def State.i2cReply (s : State) (p : Nat) (code : Int) (rx : List Byte) : State :=
  upTo 10 (fun ch s =>
    match (s.chan ch).long with
    | some (.i2c q _) =>
      if q = p then
        (s.setChan ch { s.chan ch with long := none }).respondOk ch
          (reportLines "port i2c" (code :: rx.map (fun b => (b.toNat : Int))))
      else s
    | _ => s) s

/-- A transaction ends: DONE is set, BUSY clears (R118). `bit` is its failure's status bit, `xfer` its byte count.
(DEDUCED, log 42) -/
def State.i2cEnd (s : State) (p : Nat) (bit : Option Nat) (xfer : Nat) (rx : List Byte) : State :=
  let st := Adr.portI2cStatus p
  let s := (s.setPort p { s.port p with i2c := none }).putRx p 0 rx
  let s := ((s.setFlag st 0 false).setFlag st 1 true).setFld st 11 6 (min xfer 32)
  let s := match bit with
    | some b => s.setFlag st b true
    | none => s
  s.i2cReply p (match bit with | some b => (b : Int) | none => 0) rx

/-- `I2C_GO` (R117). -/
def execI2cGo (ag : Agent) (p : Fin 16) (v : Word) (s : State) : Out :=
  s.guardWrite ag (Adr.portI2cCmd p) v (fun _ s => .next (s.writeI2cCmd p v))

/-- A transaction cut off (R118, R119): XFER holds the bytes of the part that it was cut off in, received or
acknowledged. -/
def State.i2cCut (s : State) (p : Nat) (j : I2cJob) (bit : Nat) (c : I2cCut) : State :=
  match c.rx with
  | none => s.i2cEnd p (some bit) (min c.acked j.wlen) []
  | some rx => s.i2cEnd p (some bit) (min rx.length j.rlen) (rx.take j.rlen)

/-- `I2C_DONE` (R117, R118): the transaction in progress ends. -/
def execI2cDone (p : Fin 16) (r : I2cEnd) (s : State) : Out :=
  match (s.port p).i2c with
  | none => .next s
  | some j =>
    match r with
    | .ok rx => .next (s.i2cEnd p none (if j.rlen = 0 then j.wlen else j.rlen) (rx.take j.rlen))
    | .nack n => .next (s.i2cEnd p (some 2) (min n j.wlen) [])
    | .busErr c => .next (s.i2cCut p j 4 c)

/-- `I2C_STRETCH_TIMEOUT` (R118): both lines are released and TIMEOUT is set. -/
def execI2cStretchTimeout (c : PortCut) (s : State) : Out :=
  match (s.port c.port).i2c with
  | none => .next s
  | some j => .next (s.i2cCut c.port j 3 c.cut)

/-- A write of I2C.OP (R118): RECOVER while no transaction runs sends nine SCL pulses and a STOP. -/
def State.writeI2cOp (s : State) (p : Nat) (w : Word) : State :=
  if w.toNat.testBit 0 && !s.i2cBusy p then s.setPort p { s.port p with recov := (s.port p).recov + 1 } else s

/-- `I2C_RECOVER` (R118). -/
def execI2cRecover (ag : Agent) (p : Fin 16) (s : State) : Out :=
  s.guardWrite ag (Adr.portI2cOp p) 1 (fun _ s => .next (s.writeI2cOp p 1))

end Sys2Proof.Machine
end

