-- ==== Sys2Proof/Machine/Power.lean ====
section
/-!
DEFINITION. Supplies, states, domains, clocks and temperature (R25 to R34, R399 to R418), and the choice of the boot
image (R437).
-/
namespace Sys2Proof.Machine

/-! ### What a register keeps (R56, R395, R411, R432) -/

/-- The value of a register after an entry into Reset or Standby: of UARTu.CTRL only WAKE is kept. -/
def keptWord (a : Nat) (w : Word) : Word :=
  match RegMap.find a with
  | none => 0
  | some h =>
    if !h.desc.kept then h.reset
    else if h.blk = .uart && h.desc.off = 0 then (h.reset &&& 0xFFFFB) ||| (w &&& 0x4)
    else w

/-- Registers after an entry into Reset or Standby. -/
def keptRegs (m : SMap Word) : SMap Word := m.foldl (fun k e => SMap.set RegMap.reset k e.1 (keptWord e.1 e.2)) []

/-- A register's domain. -/
def domainOf (a : Nat) : Option Nat := (RegMap.find a).map Hit.domain

/-- The power part after an entry into Reset or Standby at a TIME of the AON clock: only PD0 is on. -/
def Power.offTo (p : Power) (st : PState) (cause : BitVec 4) (now : BitVec 64) : Power :=
  { p with st := st, offAt := now, cause := cause, on := 1, throttled := false, hot := [], coolSince := none, releaseHeld := false,
           wakeHeld := none, imageB := false, peakSeen := false }

/-- Entry into Reset, or into Standby once the domains are off (R26, R27, R31, R32, R34, R56, R339, R381, R395, R411):
what lies in PD0 and is kept stays, RWS values not yet in effect and the latches of PD0's registers with it (R8, R490); all
else takes its reset value. -/
def State.offTo (s : State) (st : PState) (cause : BitVec 4) : State :=
  let s := s.interrupted
  { State.reset with
    pending := s.pending, free := s.free, rd := s.rd, time := s.time, tofs := s.tofs, pw := s.pw.offTo st cause s.time,
    regs := keptRegs s.regs, act := keptRegs s.act, latch := s.latch.filter (fun e => domainOf (e.1 % 2 ^ 40) == some 0), hostMem := s.hostMem, encs := s.encs,
    gpio := { pins := s.gpio.pins }, flash := s.flash, jtag := s.jtag,
    spoil := { s.spoil with transients := [] }, 
    uarts := upTo 2 (fun u m => SMap.set Uart.init m u { Uart.init u with line := (s.uart u).line, sent := (s.uart u).sent }) [] }

/-- Entry into Reset: every unit is in service again (R427). -/
def State.enterReset (s : State) (cause : BitVec 4) : State :=
  let s := s.offTo .reset cause
  s.setSpoil { s.spoil with out := [] }

/-! ### Domains (R404 to R406) -/

/-- A map of registers without those of a domain. -/
def dropDomain (d : Nat) (m : SMap Word) : SMap Word := m.filter (fun e => domainOf e.1 != some d)

/-- A domain switched off: its registers take their reset values, its memories and queues are lost (R33, R268, R339). -/
def State.domainOff (s : State) (d : Nat) : State :=
  let s := { s with regs := dropDomain d s.regs, act := dropDomain d s.act,
                    latch := s.latch.filter (fun e => domainOf (e.1 % 2 ^ 40) != some d),
                    pw := { s.pw with on := s.pw.on &&& ~~~ (BitVec.ofNat 8 (2 ^ d)) } }
  if d = 2 || d = 3 then
    let o := d - 2
    let s := upTo 8 (fun i s => s.setPort (8 * o + i) {}) s
    let s := upTo 2 (fun i s => (s.setFace (2 * o + i) {}).setSeq (2 * o + i) {}) s
    upTo 8 (fun i s => s.setFctx (8 * o + i) {}) s
  else if d = 4 then
    { s with sctxs := [], seamLast := [], stocks := [], closings := [], riddle := {}, kerfs := [] }
  else if d = 5 || d = 6 then
    let o := 4 * (d - 5)
    let s := upTo 4 (fun i s => s.setBench (o + i) {}) s
    let s := upTo 32 (fun i s => (s.setCore (8 * o + i) {}).setBox (8 * o + i) {}) s
    upTo 4 (fun i s => s.setBox (64 + o + i) {}) s
  else s

/-- A domain switched on: its registers hold their reset values (R406). -/
def State.domainOn (s : State) (d : Nat) : State := s.setPw { s.pw with on := s.pw.on ||| BitVec.ofNat 8 (2 ^ d) }

/-- A write of PWR.REQ (R404, R405, R406, R419): bits 0, 1 and 7 read 1; PD2 to PD6 are switched. -/
def State.writePwrReq (s : State) (w : Word) : State :=
  let v := (w.toNat % 256) ||| 0x83
  let s := s.setReg Adr.pwrReq (BitVec.ofNat 20 v)
  [2, 3, 4, 5, 6].foldl (fun s d =>
    if v.testBit d then (if s.on d then s else s.domainOn d) else if s.on d then s.domainOff d else s) s

/-! ### Boot (R408, R436, R437) -/

/-- A boot image that passes its check and supports CL1. -/
def BootImg.usable (i : BootImg) : Bool := i.ok && i.cl1

/-- Firmware versions in SYS (R487). -/
def State.setFw_ (s : State) (f b : BitVec 24) : State :=
  (((s.setReg Adr.sysFwfL (BitVec.ofNat 20 (f.toNat % 65536))).setReg Adr.sysFwfH (BitVec.ofNat 20 (f.toNat / 65536))).setReg
    Adr.sysFwbL (BitVec.ofNat 20 (b.toNat % 65536))).setReg Adr.sysFwbH (BitVec.ofNat 20 (b.toNat / 65536))

/-- An image that Boot reads and cannot use: its bit of SYS.BOOT, and a BOOT_IMAGE entry (R437). -/
def State.badImage (s : State) (b : Bool) : State :=
  (s.setFlag Adr.sysBoot (b2n b) true).spoilLog .bootImage 0x43 (b2n b)

/-- The choice of the image (R437, R438): the preferred one, else the other, else none. (DEDUCED, log 94) -/
def State.chooseImage (s : State) : State :=
  let img := fun (b : Bool) => if b then s.flash.imgB else s.flash.imgA
  let p := s.flash.preferB
  let run := fun (s : State) (b : Bool) => (s.setPw { s.pw with imageB := b }).setFw_ (img b).fwf (img b).fwb
  if (img p).usable then run s p
  else
    let s := s.badImage p
    if (img (!p)).usable then run (s.setFlag Adr.sysBoot 3 true) (!p)
    else (s.badImage (!p)).setFlag Adr.sysBoot 2 true

/-- Entry into Boot (R27, R408, R436): PD1 and PD7 are powered, the OTP and the boot image are read. -/
def State.enterBoot (s : State) : State :=
  let s := s.setPw { s.pw with st := .boot, on := s.pw.on ||| 0x82, releaseHeld := false, wakeHeld := none }
  let s := if s.flash.otpOk then s else s.spoilLog .otp 0x44 0
  let s := if s.flash.trimOk then s else s.spoilLog .otp 0x44 1
  s.chooseImage

/-! ### Supplies (R399 to R403) -/

/-- `STANDBY_INPUT_VALID` (R26, R399): from unpowered into Reset; counts and TIME start at 0. -/
def execStandbyInputValid (s : State) : Out :=
  if s.powered then .next s
  else .next (s.setPw { s.pw with st := .reset, stbyOk := true, on := 1, cause := 0 })

/-- `STANDBY_INPUT_LOST` (R402): everything in PD0 is lost. -/
def execStandbyInputLost (s : State) : Out :=
  let s := s.interrupted
  .next { State.reset with
    pending := s.pending, free := s.free, rd := s.rd, hostMem := s.hostMem, flash := s.flash, gpio := { pins := s.gpio.pins },
    pw := { st := .unpowered, on := 0, stbyOk := false, mainOk := s.pw.mainOk, ballLow := s.pw.ballLow, vmain := s.pw.vmain,
            imain := s.pw.imain, refOk := s.pw.refOk, pciRef := s.pw.pciRef } }

/-- A sensor's reading in quarters of a degree (R417). -/
def State.temp (s : State) (i : Nat) : Int := (SMap.get (fun _ => (0 : BitVec 12)) s.pw.temps i).toInt

/-- Every sensor reads at most `d` degrees. -/
def State.allBelow (s : State) (d : Nat) : Bool := (List.range 8).all (fun i => decide (s.temp i ≤ 4 * d))

/-- A held wake event starts Boot as soon as Standby is reached, the main input is valid and no sensor reads above 100 °C
(R29, R401, R411). (DEDUCED, log 93) -/
def State.tryWake (s : State) : State :=
  match s.pw.wakeHeld with
  | some _ => if s.pw.st == .standby && s.pw.mainOk && s.allBelow 100 then s.enterBoot else s
  | none => s

/-- `MAIN_INPUT_VALID` (R399, R401): a held reset release or wake event enters Boot. -/
def execMainInputValid (s : State) : Out :=
  let s := s.setPw { s.pw with mainOk := true }
  if s.pw.st == .reset && s.pw.releaseHeld then .next s.enterBoot else .next s.tryWake

/-- `MAIN_INPUT_UNDERVOLTAGE` (R26, R399, R401, R423): `mv` is the lowest main input. In Standby the main input may be
off, and nothing but the input changes. (DEDUCED, log 90) -/
def execMainInputUndervoltage (mv : BitVec 16) (s : State) : Out :=
  let s := s.setPw { s.pw with mainOk := false, vmain := mv }
  match s.pw.st with
  | .unpowered | .reset | .standby => .next s
  | _ => .next ((s.spoilLog .undervolt 0x4E mv.toNat).enterReset 3)

/-- `RESET_BALL_ASSERTED` (R26, R30). -/
def execResetBallAsserted (s : State) : Out :=
  if !s.powered then .next (s.setPw { s.pw with ballLow := true })
  else
    let s := s.enterReset 1
    .next (s.setPw { s.pw with ballLow := true })

/-- `RESET_RELEASE` (R26, R401, R408). -/
def execResetRelease (s : State) : Out :=
  let s := s.setPw { s.pw with ballLow := false }
  if s.pw.st == .reset then
    if s.pw.mainOk then .next s.enterBoot else .next (s.setPw { s.pw with releaseHeld := true })
  else .next s

/-- Commands whose I2C transactions are lost with a domain are answered with `state`. -/
def State.i2cLost (s : State) (d : Nat) : State :=
  upTo 10 (fun ch s =>
    match (s.chan ch).long with
    | some (.i2c p _) => if portPd p = d then (s.setChan ch { s.chan ch with long := none }).respondErr ch .state else s
    | _ => s) s

/-- `CURRENT_LIMIT_TRIP` (R26, R403): PD2 to PD6 are switched off at once; PD1 and PD7 enter Reset in Boot and Run. -/
def execCurrentLimitTrip (pd : Fin 8) (ma : BitVec 16) (s : State) : Out :=
  let n := pd.val
  if !s.on n || n = 0 then .next s
  else
    let s := (s.setFlag Adr.pwrDom (8 + n) true).spoilAdd .pwrOc (0x50 + n) .lasting (n + 256 * ma.toNat)
    if n = 1 || n = 7 then .next (s.enterReset 7) else .next ((s.domainOff n).i2cLost n)

/-! ### Standby and wake (R28, R29, R401, R409 to R411) -/

/-- The WAKESRC code of a wake source (R419). -/
def wakeCode : WakeSrc → BitVec 8
  | .uart u => BitVec.ofNat 8 (1 + u.val)
  | .encoder e => BitVec.ofNat 8 (3 + 16 * e.val)
  | .sync => 4
  | .gpio p => BitVec.ofNat 8 (5 + 16 * p.val)

/-- A wake source is enabled (R411). -/
def State.wakeEnabled (s : State) : WakeSrc → Bool
  | .uart u => s.flag (Adr.uartCtrl u) 2
  | .encoder e => s.flag (Adr.encCtrl e) 8
  | .sync => s.flag Adr.pwrWake 0
  | .gpio p => s.flag Adr.pwrWake (1 + p)

/-- The event of a source has happened (R28): for an encoder channel the first edge accepted since the entry into Standby
(R57). -/
def State.wakeSeen (s : State) : WakeSrc → Bool
  | .encoder e => (s.enc e).lastEdge.any (fun t => decide (0 ≤ (t - s.pw.offAt).toInt))
  | _ => true

/-- A wake event of an enabled source (R28, R29, R411): the first one is held and starts Boot as soon as it may. While
`pwr standby` drains, the engine is in Run still, and no event is held. -/
def State.wake (s : State) (src : WakeSrc) : State :=
  if (s.pw.st == .standby || s.pw.st == .entering) && s.wakeEnabled src && s.pw.wakeHeld.isNone then
    let s := s.setReg Adr.pwrWakesrc ((wakeCode src).setWidth 20)
    (s.setPw { s.pw with wakeHeld := some (wakeCode src) }).tryWake
  else s

/-- `WAKE_EVENT` (R28, R29, R57, R411). (DEDUCED, log 169) -/
def execWakeEvent (src : WakeSrc) (s : State) : Out := .next (if s.wakeSeen src then s.wake src else s)

/-- A slab is open at a port. -/
def State.slabOpen (s : State) : Bool := s.ports.any (fun e => e.2.st.any (fun x => x.2.open_))

/-- `STANDBY_DRAIN_END` (R409): the drain is over and the domains are switched off. -/
def execStandbyDrainEnd (s : State) : Out :=
  if s.pw.st == .drain && !s.slabOpen && s.riddle.table.all (fun e => e.2.isNone) && s.res.staging.isEmpty then
    .next (s.offTo .entering 5)
  else .next s

/-- `STANDBY_DRAIN_TIMEOUT` (R409): after 30 s the staged results are lost. -/
def execStandbyDrainTimeout (s : State) : Out :=
  if s.pw.st == .drain && decide (30000 * msT ≤ s.since s.pw.drainAt) then
    let n := s.res.staging.length
    let s := if n = 0 then s else s.spoilLog .pwrDrain 0x4E n
    .next (s.offTo .entering 5)
  else .next s

/-- `STANDBY_ENTRY_COMPLETE` (R29). -/
def execStandbyEntryComplete (s : State) : Out :=
  if s.pw.st == .entering then .next ((s.setPw { s.pw with st := .standby }).tryWake) else .next s

/-! ### Temperature (R410, R417, R418) -/

/-- THROT in quarters of a degree. -/
def State.throt (s : State) : Int := 4 * ((s.fld Adr.pwrThermCtrl 7 0 : Nat) : Int)

/-- Throttling begins (R418). -/
def State.throttle (s : State) (i : Nat) (v : BitVec 12) : State :=
  if s.pw.throttled then s
  else ((s.setPw { s.pw with throttled := true }).incr Adr.pwrThermThrCnt).spoilLog .thermal (0x58 + i) v.toNat

/-- The time since which every sensor reads at least 5 °C below THROT (R418). -/
def State.coolMark (s : State) : State :=
  let cool := (List.range 8).all (fun i => decide (s.temp i ≤ s.throt - 20))
  s.setPw { s.pw with coolSince := if cool then (match s.pw.coolSince with
    | some t => some t
    | none => some s.time) else none }

/-- `TEMPERATURE_SAMPLE` (R410, R411, R417, R418). -/
def execTemperatureSample (i : Fin 8) (v : BitVec 12) (s : State) : Out :=
  if !s.powered then .next s
  else
    let t := v.toInt
    let n := if 440 < t then SMap.get (fun _ => 0) s.pw.hot i.val + 1 else 0
    let s := s.setPw { s.pw with temps := SMap.set (fun _ => (0 : BitVec 12)) s.pw.temps i.val v,
                                 hot := SMap.set (fun _ => 0) s.pw.hot i.val n }
    let pk := (BitVec.ofNat 12 (s.reg Adr.pwrThermPeak).toNat).toInt
    let s := if !s.pw.peakSeen || pk < t then s.setReg Adr.pwrThermPeak (v.setWidth 20) else s
    let s := s.setPw { s.pw with peakSeen := true }
    let s := if s.throt < t && (s.inRun || s.pw.st == .boot) then s.throttle i v else s
    let s := s.coolMark
    if s.inRun && 2 ≤ n then
      .next ((s.spoilLog .thermalSd (0x58 + i.val) (v.toNat + 4096 * s.res.staging.length)).offTo .entering 4)
    else .next s.tryWake

/-- `THROTTLE_RELEASE` (R418). -/
def execThrottleRelease (s : State) : Out :=
  match s.pw.coolSince with
  | some t =>
    if s.pw.throttled && decide (100 * msT ≤ s.since t) then .next (s.setPw { s.pw with throttled := false }) else .next s
  | none => .next s

/-! ### The reference (R414) -/

/-- `REF_LOSS` (R414). -/
def execRefLoss (s : State) : Out :=
  if s.powered && s.pw.refOk then
    .next (((s.setPw { s.pw with refOk := false, backup := true }).setFlag Adr.clkStatus 2 true).spoilLog .clkRef 0x4D 0)
  else .next s

/-- `REF_RESTORE` (R414): `lost` is the duration of the loss in µs, which completes the entry's DETAIL.
(DESIGN CHOICE, log 91) -/
def execRefRestore (lost : BitVec 20) (s : State) : Out :=
  if s.powered && !s.pw.refOk then
    let s := s.setPw { s.pw with refOk := true, backup := false }
    .next (s.setSpoil { s.spoil with ents := s.spoil.ents.map (fun e =>
      if e.cls == .clkRef && e.detail == 0 then { e with detail := lost.setWidth 80 } else e) })
  else .next s

end Sys2Proof.Machine
end

