-- ==== Sys2Proof/Machine/Recov.lean ====
section
/-!
DEFINITION. Recovery of an engine without a usable boot image (R438).
-/
namespace Sys2Proof.Machine

/-- The record at the start of DRAM, in an area of the given length: its header tells how much of it is read. -/
def State.recovRecord (s : State) (area : Nat) : List Byte :=
  let head := s.dramRun 0 (min 64 area)
  head ++ s.dramRun 64 (min (leNat ((head.drop 8).take 4)) (area - 64))

/-- A write of SYS.RECOV (R438): with GO, and while NOIMG is 1, the record is checked. If it passes, it runs: its versions
are free values, since the payload's layout is not given. If it fails, BADREC is set. (DEDUCED, log 95) -/
def State.writeRecov (s : State) (w : Word) : State :=
  if !w.toNat.testBit 19 || !s.flag Adr.sysBoot 2 || s.pw.st != .boot then s
  else if recValid 6 (s.recovRecord (bits w.toNat 18 0 * 4096)) then
    let f := s.draw
    let b := f.2.draw
    ((b.2.setFlag Adr.sysBoot 2 false).setFlag Adr.sysBoot 4 true).setFw_ (BitVec.ofNat 24 f.1) (BitVec.ofNat 24 b.1)
  else s.setFlag Adr.sysBoot 5 true

/-- `SYS_RECOV_GO` (R438). -/
def execSysRecovGo (ag : Agent) (v : Word) (s : State) : Out :=
  s.guardWrite ag Adr.sysRecov v (fun _ s => .next (s.writeRecov v))

end Sys2Proof.Machine
end

