-- ==== Sys2Proof/Machine/Encoder.lean ====
section
/-!
DEFINITION. Encoder channels (R52 to R65): edges, speed windows, standstill, index checks, presets.
-/
namespace Sys2Proof.Machine

/-- ENC.e.CTRL.EN -/
def State.encEn (s : State) (e : Nat) : Bool := s.flag (Adr.encCtrl e) 0

/-- The least interval between accepted edges in 5 ns units (R54): MIN_EDGE, where 0 to 2 act as 2. -/
def State.minEdge (s : State) (e : Nat) : Nat := max 2 (s.reg (Adr.encMinEdge e)).toNat

/-- An edge of a rising or falling polarity is one that EDGE selects (R52). -/
def edgeSelected (sel : Nat) (rise : Bool) : Bool := sel == 2 || (sel == 0 && rise) || (sel == 1 && !rise)

/-- The interval of R54 has passed since the last accepted edge. -/
def State.edgeOk (s : State) (e : Nat) (last : Option (BitVec 64)) : Bool :=
  match last with
  | some t => decide (s.minEdge e ≤ s.since t)
  | none => true

/-- Edges rejected (R55). (DEDUCED, log 23) -/
def State.rejectEdge (s : State) (e n : Nat) : State :=
  (s.addCnt (Adr.encGlitchCnt e) n).setEnc e { s.enc e with rejected := (s.enc e).rejected + n }

/-- The time for which accepted edges are remembered, in 5 ns units: more than any L_n and the words of a STATE (R76). -/
def histSpan : Nat := 32768

/-- The accepted count edge in one direction: the count moves by one, MOVING and DIR follow, and the schedule and the
GPIO events of the channel see the new count (R52, R59, R69, R81). -/
def State.acceptEdge (s : State) (e : Nat) (fwd : Bool) : State :=
  let en := s.enc e
  let count := if fwd then en.count + 1 else en.count - 1
  let s := s.setEnc e { en with
    count := count, lastEdge := some s.time, accepted := en.accepted + 1, winRev := some !fwd,
    hist := ((s.time, fwd) :: en.hist).filter (fun e => decide (s.since e.1 ≤ histSpan)) }
  let s := s.retireHist
  let s := (s.setFlag (Adr.encStatus e) 1 (!fwd)).setFlag (Adr.encStatus e) 0 true
  let s := s.schedEdge e fwd
  if fwd then s.gpioPass e (fun p => p == count) else s

/-- `ENC_CANDIDATE_EDGE` (R52 to R55, R57, R61): an edge of ENCe_A or ENCe_B (`some true` rising) recognised with the level of
ENCe_B; edges that the mode does not select are no candidates. (DESIGN CHOICE, log 15) -/
def execEncCandidateEdge (e : Fin 4) (a b : Option Bool) (bLevel : Bool) (s : State) : Out :=
  let mode := s.fld (Adr.encCtrl e) 2 1
  let sel := s.fld (Adr.encCtrl e) 4 3
  let inv := s.flag (Adr.encCtrl e) 5
  let ca := a.any (edgeSelected sel)
  let cb := mode == 1 && b.any (edgeSelected sel)
  if !s.powered || !s.encEn e || !(ca || cb) then .next s
  else if ca && cb then .next (s.rejectEdge e 2)
  else if !s.edgeOk e (s.enc e).lastEdge then .next (s.rejectEdge e 1)
  else .next ((s.acceptEdge e ((if mode == 1 then ca else bLevel) != inv)).wake (.encoder e))

/-- The shadows of ENC take effect (R82); a new INDEX_PERIOD clears the reference (R63). -/
def State.encBoundary (s : State) (e : Nat) : State :=
  let s := if s.eff (Adr.encIndexPeriod e) == s.reg (Adr.encIndexPeriod e) then s else s.setFlag (Adr.encStatus e) 2 false
  s.adoptAll [Adr.encWindow e, Adr.encIndexPeriod e, Adr.encIndexTol e]

/-- The speed that a window close reports (R58, R59): sign and magnitude. -/
def State.windowSpeed (s : State) (e : Nat) (bLevel : Bool) : Bool × Nat :=
  let en := s.enc e
  if en.accepted = 0 || !s.flag (Adr.encStatus e) 0 then (false, 0)
  else
    let rev := if s.fld (Adr.encCtrl e) 2 1 = 1 then en.winRev.getD false else !(bLevel != s.flag (Adr.encCtrl e) 5)
    (rev, en.accepted)

/-- The close of a speed window (R55, R58). -/
def State.windowClose (s : State) (e : Nat) (bLevel : Bool) : State :=
  let en := s.enc e
  let (rev, mag) := s.windowSpeed e bLevel
  let lim := (s.reg (Adr.encGlitchLim e)).toNat % 65536
  let w := (s.eff (Adr.encWindow e)).toNat
  let s := (s.setFld (Adr.encSpeed e) 18 0 (min mag 524287)).setFlag (Adr.encSpeed e) 19 rev
  let s := s.setFlag (Adr.encStatus e) 3 (decide (524287 < mag))
  let s := s.setFld (Adr.encStatus e) 15 8 (s.fld (Adr.encStatus e) 15 8 + 1)
  let s := if lim ≠ 0 && decide (lim < en.rejected) then s.spoilLog .encGlitch (0x48 + e) en.rejected else s
  let s := s.encBoundary e
  s.setEnc e { s.enc e with
    winStart := en.winStart + BitVec.ofNat 64 (w * usT), accepted := 0, rejected := 0, winRev := none }

/-- `SPEED_WINDOW_CLOSE` (R58): the window in progress has lasted WINDOW µs; `bLevel` is the level of ENCe_B. -/
def execSpeedWindowClose (e : Fin 4) (bLevel : Bool) (s : State) : Out :=
  if s.powered && decide ((s.eff (Adr.encWindow e)).toNat * usT ≤ s.since (s.enc e).winStart) then
    .next (s.windowClose e bLevel)
  else .next s

/-- `STANDSTILL` (R59): STANDSTILL µs have passed without an accepted edge. -/
def execStandstill (e : Fin 4) (s : State) : Out :=
  let due := (s.enc e).lastEdge.any (fun t => decide ((s.reg (Adr.encStandstill e)).toNat * usT ≤ s.since t))
  if s.powered && s.flag (Adr.encStatus e) 0 && due then
    .next ((s.setFlag (Adr.encStatus e) 0 false).setReg (Adr.encSpeed e) 0)
  else .next s

/-- An index fault (R62): counted, logged with capture and deviation, and raised. -/
def State.indexFault (s : State) (e : Nat) (cap : BitVec 48) (dev : Int) : State :=
  ((s.incr (Adr.encIfaultCnt e)).spoilLog .encIndex (0x48 + e)
    (cap.toNat + 2 ^ 48 * (BitVec.ofInt 32 dev).toNat)).raise (.encindex e dev)

/-- A snap by `dev` (R62, R64, R71, R81): the count moves in one sample, SNAP is set for the next tag of every head on
the channel, and a forward snap passes the points and fires the events it jumps over or lands on. -/
def State.snap (s : State) (e : Nat) (dev : Int) : State :=
  let c0 := (s.enc e).count
  let c1 := c0 - BitVec.ofInt 48 dev
  let s := (s.setEnc e { s.enc e with count := c1 }).retireHist
  let s := upTo 16 (fun h s => if s.headChan h = e then s.setHead h { s.head h with snap := true } else s) s
  if dev < 0 then
    (s.schedSnap e).gpioPass e (fun p => decide (0 < diff48 p c0) && decide (diff48 p c1 ≤ 0))
  else s

/-- The check of an index capture against the reference (R62). -/
def State.indexCheck (s : State) (e : Nat) : State :=
  let en := s.enc e
  let cap := en.count
  let period := (s.eff (Adr.encIndexPeriod e)).setWidth 48
  let s := s.setEnc e { en with idx := cap, lastIdx := some s.time }
  if period = 0 || !s.flag (Adr.encStatus e) 2 then
    (s.setEnc e { s.enc e with ref := cap }).setFlag (Adr.encStatus e) 2 true
  else
    let expect := if s.flag (Adr.encStatus e) 1 then en.ref - period else en.ref + period
    let dev := diff48 cap expect
    let s := s.setReg (Adr.encIdxDev e) (BitVec.ofInt 20 (satInt dev (-524287) 524287))
    if dev = 0 then s.setEnc e { s.enc e with ref := cap }
    else if dev.natAbs ≤ (s.eff (Adr.encIndexTol e)).toNat % 65536 then
      let s := s.incr (Adr.encSlipCnt e)
      if s.flag (Adr.encCtrl e) 7 then
        ((s.incr (Adr.encSnapCnt e)).setEnc e { s.enc e with ref := expect }).snap e dev
      else s.setEnc e { s.enc e with ref := cap }
    else (s.setEnc e { s.enc e with ref := cap }).indexFault e cap dev

/-- `INDEX_EDGE` (R61, R62): an edge of ENCe_Z, of the polarity that IDX_POL selects, filtered against the previous index
edge. -/
def execIndexEdge (e : Fin 4) (rise : Bool) (s : State) : Out :=
  if !s.powered || !s.encEn e || rise == s.flag (Adr.encCtrl e) 6 then .next s
  else if !s.edgeOk e (s.enc e).lastIdx then .next (s.rejectEdge e 1)
  else .next (s.indexCheck e)

/-- The preset of channel e is refused: its schedule runs or a locked engine shares it (R65). -/
def State.presetBarred (s : State) (e : Nat) : Bool := s.schedOn e || (s.syncLocked && s.syncChan == e)

/-- A preset (R65): the count is loaded and the reference cleared, or the write is ignored and CFGERR set. -/
def State.preset (s : State) (e : Nat) : State :=
  if s.presetBarred e then s.setFlag (Adr.encStatus e) 4 true
  else
    (s.setEnc e { s.enc e with count := s.reg48 (Adr.encPresetL e) (Adr.encPresetM e) (Adr.encPresetH e) }).retireHist.setFlag
      (Adr.encStatus e) 2 false

/-- A write of ENC.e.CTRL: EN set clears the reference (R63), PRESET presets (R65). (DESIGN CHOICE, log 164) -/
def State.writeEncCtrl (s : State) (e : Nat) (hit : Hit) (w : Word) : State :=
  let was := s.encEn e
  let s := s.store hit (Adr.encCtrl e) w
  let s := if !was && s.encEn e then s.setFlag (Adr.encStatus e) 2 false else s
  if w.toNat.testBit 9 then s.preset e else s

/-- A write of ENC.e.CTRL by an agent. -/
def encCtrlWrite (ag : Agent) (e : Nat) (w : Word) (s : State) : Out :=
  s.guardWrite ag (Adr.encCtrl e) w (fun hit s => .next (s.writeEncCtrl e hit w))

/-- `ENC_PRESET` (R65): ENC.e.CTRL.PRESET written 1. -/
def execEncPreset (ag : Agent) (e : Fin 4) (s : State) : Out :=
  encCtrlWrite ag e (putBits (s.reg (Adr.encCtrl e)) 9 9 1) s

end Sys2Proof.Machine
end

