-- ==== Sys2Proof/Machine/Sync.lean ====
section
/-!
DEFINITION. The SYNC port (R74 to R79, R96): the master's lock sequence and words, the slave's alignment and lock.
-/
namespace Sys2Proof.Machine

/-- The port runs as master, as slave: only in Run. -/
def State.syncMaster (s : State) : Bool := s.inRun && s.syncRole == 1

/-- The port runs as a slave. -/
def State.syncSlave (s : State) : Bool := s.inRun && s.syncRole == 2

/-- D_REP in 5 ns units (R75). -/
def dRep : Nat := 40

/-! ### The master -/

/-- The ten words of a STATE and its header: count, k, TIME, each most significant word first (R75, R76). Before the schedule
has reached a point, k is the index before the starting one. (DESIGN CHOICE, log 162) -/
def State.stateWords (s : State) : List (BitVec 16) :=
  let c := (s.enc s.syncChan).count
  let k := (s.sched s.syncChan).k
  let w48 : BitVec 48 → List (BitVec 16) := fun v => [(v >>> 32).setWidth 16, (v >>> 16).setWidth 16, v.setWidth 16]
  0x4000 :: w48 c ++ w48 k ++ [(s.tm >>> 48).setWidth 16, (s.tm >>> 32).setWidth 16, (s.tm >>> 16).setWidth 16,
    s.tm.setWidth 16]

/-- A STATE sent. -/
def State.sendState (s : State) : State :=
  let s := s.syncSend s.stateWords
  s.setSync { s.sync with lastState := s.time }

/-- The lock sequence starts with a LOOP word (R76); a LOOP still outstanding is given up. (DESIGN CHOICE, log 163) -/
def State.syncStart (s : State) : State :=
  if s.syncMaster then
    let n := s.sync.seq
    let s := s.syncSend [0x6000 ||| n.setWidth 16]
    s.setSync { s.sync with seq := n + 1, loop := some (n, s.time) }
  else s

/-- The lock sequence ends at its first step (R77): RESTATE sends no STATE until a sequence has completed. -/
def State.syncFail (s : State) : State :=
  let s := s.setSync { s.sync with loop := none, done := false }
  let s := (s.setFlag Adr.syncStatus 1 true).setFld Adr.syncStatus 19 16 6
  (s.spoilLog .syncLock 0x4C 6).raise (.synclost .ring)

/-- hop (R76): (T_ring − N·D_REP) / (N + 1) to the nearest 5 ns. -/
def hopOf (t n : Nat) : Nat := clampN (ridiv ((t : Int) - n * dRep) (n + 1)) 8191

/-- Steps 2 and 4 of the lock sequence: RING, LATENCY and STATE. -/
def State.syncMeasured (s : State) (t : Nat) : State :=
  let hop := hopOf t (s.fld Adr.syncCtrl 5 4)
  let s := (s.setSync { s.sync with loop := none, done := true }).setFld Adr.syncStatus 15 4 t
  (s.syncSend [0x8000 ||| BitVec.ofNat 16 hop]).sendState

/-- A write of SYNC.CTRL: LOCK runs the lock sequence (R76). -/
def State.writeSyncCtrl (s : State) (hit : Hit) (w : Word) : State :=
  let s := s.store hit Adr.syncCtrl w
  if w.toNat.testBit 6 then s.syncStart else s

/-- A write of SYNC.CTRL by an agent. -/
def syncCtrlWrite (ag : Agent) (w : Word) (s : State) : Out :=
  s.guardWrite ag Adr.syncCtrl w (fun hit s => .next (s.writeSyncCtrl hit w))

/-- `SYNC_LOCK` (R76): SYNC.CTRL.LOCK written 1. -/
def execSyncLock (ag : Agent) (s : State) : Out := syncCtrlWrite ag (putBits (s.reg Adr.syncCtrl) 6 6 1) s

/-- `SYNC_LOOP_RETURN` (R76, R77): a word returns while a LOOP is outstanding; `err` is a Manchester or framing error. -/
def execSyncLoopReturn (w : BitVec 16) (err : Bool) (s : State) : Out :=
  match s.sync.loop with
  | some (n, t) =>
    if !s.syncMaster then .next s
    else if err || w != (0x6000 ||| n.setWidth 16) || decide (4000 < s.since t) then .next s.syncFail
    else .next (s.syncMeasured (s.since t))
  | none => .next s

/-- `SYNC_LOOP_TIMEOUT` (R77): 20 µs have passed since the LOOP left. -/
def execSyncLoopTimeout (s : State) : Out :=
  match s.sync.loop with
  | some (_, t) => if s.syncMaster && decide (4000 ≤ s.since t) then .next s.syncFail else .next s
  | none => .next s

/-- `SYNC_IDLE_TIMER` (R75): 100 µs have passed since the master's last word. -/
def execSyncIdleTimer (s : State) : Out :=
  if s.syncMaster && decide (20000 ≤ s.since s.sync.lastSent) then .next (s.syncSend [0]) else .next s

/-- `SYNC_RESTATE_TIMER` (R76, R77): with RESTATE, 100 ms after the last STATE, once a lock sequence has completed. -/
def execSyncRestateTimer (s : State) : Out :=
  if s.syncMaster && s.flag Adr.syncCtrl 10 && s.sync.done && decide (20000000 ≤ s.since s.sync.lastState) then
    .next s.sendState
  else .next s

/-! ### The slave -/

/-- A received word is repeated (R75). -/
def State.syncHeard (s : State) (ws : List (BitVec 16)) : State :=
  s.setSync { s.sync with out := s.sync.out ++ ws, lastRecv := s.time }

/-- L_n (R76 step 3). -/
def State.syncLatency (s : State) : Nat :=
  if s.flag Adr.syncCtrl 7 then s.fld Adr.syncLat 11 0
  else
    let n := s.fld Adr.syncCtrl 3 2
    n * s.sync.hop.toNat + (n - 1) * dRep

/-- The code of a cause (SYNC.STATUS.CAUSE). -/
def SyncCause.code : SyncCause → Nat
  | .word => 1 | .reserved => 2 | .tick => 3 | .silence => 4 | .edges => 5 | .ring => 6

/-- A locked slave loses lock, until a new STATE (R48, R79). -/
def State.loseLock (s : State) (c : SyncCause) : State :=
  let s := s.setSync { s.sync with await := false, fresh := false }
  let s := ((s.setFlag Adr.syncStatus 0 false).setFlag Adr.syncStatus 1 true).setFld Adr.syncStatus 19 16 c.code
  (s.spoilLog .syncLock 0x4C c.code).raise (.synclost c)

/-- Edges of the channel accepted within L before a TIME. -/
def State.edgesBefore (s : State) (c : Nat) (start : BitVec 64) (l : Nat) : List (BitVec 64 × Bool) :=
  (s.enc c).hist.filter (fun e => decide (0 ≤ (start - e.1).toInt) && decide ((start - e.1).toInt < l))

/-- A count with the last reached point k and its position x, after an accepted edge (R68): forward motion that brings the
count to the next point's datum count reaches it. -/
def edgeReach (p : Nat) (a : BitVec 48 × BitVec 48 × BitVec 64) (fwd : Bool) : BitVec 48 × BitVec 48 × BitVec 64 :=
  let c := if fwd then a.1 + 1 else a.1 - 1
  let x := movePitch a.2.2 1 p
  if fwd && ceil48 x == c then (c, a.2.1 + 1, x) else (c, a.2.1, a.2.2)

/-- The origin X₀ of a slave's schedule: its own under ABS, and while it is locked. Under HERE the master's origin is an
integer that no word carries: a free one among those for which k is the last point reached at the master's count.
(DEDUCED, log 20) -/
def State.syncOrigin (s : State) (cnt k : BitVec 48) : BitVec 64 × State :=
  let c := s.syncChan
  if !s.flag (Adr.trgcCtrl c) 2 || s.syncLocked then ((s.sched c).x0, s)
  else
    let d := s.draw
    let kp : BitVec 64 := BitVec.ofNat 64 (k.toNat * s.pitch c)
    let up : Nat := if kp.setWidth 16 = (0 : BitVec 16) then 0 else 1
    let m : BitVec 48 := cnt - BitVec.ofNat 48 (up + d.1 % max 1 (s.reg (Adr.trgcPitchInt c)).toNat)
    (fix48 (m - int48 kp), d.2)

/-- The pointers of the heads on channel c after a STATE: an alignment that changes nothing leaves them; a locked slave's
move forward at most, so that no point is taken twice (R69); else each stands before its first point ahead. -/
def State.syncPlace (s : State) (c : Nat) (same locked : Bool) : State :=
  if same || !s.schedOn c then s
  else if !locked then s.placeHeads c
  else
    upTo 16 (fun h s =>
      if s.headEn h && s.headChan h == c then
        let t := s.placeHead c h
        if 0 < diff48 (t.head h).m (s.head h).m then t else s
      else s) s

/-- The count, k and TIME that a STATE sets (R48, R76 step 5): the master's values when its start bit left, the count moved
by the edges accepted within L_n before the start bit arrived and since, k by the points that these reach.
(DEDUCED, log 19) -/
def State.syncAlign (s : State) (cnt k : BitVec 48) (tm : BitVec 64) (since : Nat) : State :=
  let c := s.syncChan
  let l := s.syncLatency
  let start := s.time - BitVec.ofNat 64 since
  let later := (s.enc c).hist.filter (fun e => decide (0 < (e.1 - start).toInt))
  let edges := (later ++ s.edgesBefore c start l).reverse.map Prod.snd
  let c0 := (s.enc c).count
  let k0 := (s.sched c).k
  let (x0, s) := s.syncOrigin cnt k
  let p := s.pitch c
  let r := edges.foldl (edgeReach p) (cnt, k, x0 + BitVec.ofNat 64 (k.toNat * p))
  let s := (s.setEnc c { s.enc c with count := r.1 }).retireHist
  let s := s.setSched c { s.sched c with x0 := x0, k := r.2.1, x := r.2.2, any := true }
  let s := s.syncPlace c (r.1 == c0 && r.2.1 == k0) s.syncLocked
  (s.setTofs (tm + BitVec.ofNat 64 (l + since) - s.time)).setSync { s.sync with await := true, fresh := true }

/-- `SYNC_LATENCY_RECEIVED` (R76 step 3). -/
def execSyncLatencyReceived (hop : BitVec 13) (s : State) : Out :=
  if s.syncSlave then
    let s := s.syncHeard [0x8000 ||| hop.setWidth 16]
    .next (s.setSync { s.sync with hop := hop })
  else .next s

/-- `SYNC_STATE_RECEIVED` (R76 step 5): the STATE word and its ten words, whose start bit arrived `since` ago; with more
than 63 edges within L_n before it the slave does not lock and records EDGES. -/
def execSyncStateReceived (cnt k : BitVec 48) (tm : BitVec 64) (since : Nat) (s : State) : Out :=
  if s.syncSlave then
    let w48 : BitVec 48 → List (BitVec 16) := fun v => [(v >>> 32).setWidth 16, (v >>> 16).setWidth 16, v.setWidth 16]
    let s := s.syncHeard (0x4000 :: w48 cnt ++ w48 k ++ [(tm >>> 48).setWidth 16, (tm >>> 32).setWidth 16,
      (tm >>> 16).setWidth 16, tm.setWidth 16])
    if 63 < (s.edgesBefore s.syncChan (s.time - BitVec.ofNat 64 since) s.syncLatency).length then
      .next (((s.setSync { s.sync with await := false, fresh := false }).setFld Adr.syncStatus 19 16 5).raise (.synclost .edges))
    else .next (s.syncAlign cnt k tm since)
  else .next s

/-- The full index of a TICK's k mod 128: the one nearest to the slave's own last reached point. -/
def tickIndex (own : BitVec 48) (k7 : BitVec 7) : BitVec 48 :=
  own + BitVec.ofInt 48 (sext 7 (k7.toNat + 128 - own.toNat % 128))

/-- Every enabled sequencer on channel c takes a table record with the k₀ given, keeping its bank (R96). The record it had,
and an older one, are dropped, k_c stands, SWAP clears, and a held write acts then (R93). (DESIGN CHOICE, log 166) -/
def State.seqFollow (s : State) (c : Nat) (k0 : BitVec 48) : State :=
  upTo 4 (fun q s =>
    if s.seqEn q && s.seqChan q == c then
      let bank := (s.eff (Adr.seqCtrl q)).toNat.testBit 3
      (s.setSeq q ({ s.seq q with newer := some (.table k0 bank (s.seqLen q bank)), older := none, swap := false }).untaint).seqSettle q
    else s) s

/-- A TICK agrees with the slave's own k mod 128, and with its STEP, that of its lowest-numbered sequencer (R79, R96). -/
def State.tickAgrees (s : State) (step : Nat) (k7 : BitVec 7) : Bool :=
  let k := (s.sched s.syncChan).k
  (k.toNat % 128 == k7.toNat) && (s.tickStep s.syncChan k == step)

/-- Every enabled sequencer on the channel can agree with a STEP: it is less than its L (R96). -/
def State.seqsFit (s : State) (step : Nat) : Bool :=
  (List.range 4).all (fun q => !(s.seqEn q && s.seqChan q == s.syncChan) ||
    match (s.seq q).newer with
    | some (.table _ _ len) => decide (step < len)
    | _ => true)

/-- `SYNC_TICK_RECEIVED` (R76 step 6, R79, R96). -/
def execSyncTickReceived (step : BitVec 6) (k7 : BitVec 7) (s : State) : Out :=
  if !s.syncSlave then .next s
  else
    let c := s.syncChan
    let s := s.syncHeard [BitVec.ofNat 16 (0x2000 + step.toNat * 128 + k7.toNat)]
    let s := if s.sync.fresh then
        (s.seqFollow c (tickIndex (s.sched c).k k7 - step.setWidth 48)).setSync { s.sync with fresh := false }
      else s
    if s.tickAgrees step.toNat k7 then
      if s.sync.await && s.seqsFit step.toNat then
        .next ((s.setFlag Adr.syncStatus 0 true).setSync { s.sync with await := false })
      else .next s
    else if s.syncLocked then .next (s.loseLock .tick)
    else .next s

/-- `SYNC_IDLE_RECEIVED` (R75). -/
def execSyncIdleReceived (s : State) : Out := if s.syncSlave then .next (s.syncHeard [0]) else .next s

/-- `SYNC_LOOP_RECEIVED` (R75): a slave repeats the LOOP word. -/
def execSyncLoopReceived (seq : BitVec 13) (s : State) : Out :=
  if s.syncSlave then .next (s.syncHeard [0x6000 ||| seq.setWidth 16]) else .next s

/-- `SYNC_WORD_ERROR` (R75, R79): a word with a Manchester or framing error, as it was received, or a word of a reserved type.
The slave repeats it like every word and loses lock. -/
def execSyncWordError (bad : BadWord) (s : State) : Out :=
  if !s.syncSlave || !(bad.err || decide (5 ≤ bad.w.toNat / 2 ^ 13)) then .next s
  else
    let s := s.syncHeard [bad.w]
    .next (if s.syncLocked then s.loseLock (if bad.err then .word else .reserved) else s)

/-- `SYNC_SILENCE` (R79): 200 µs have passed without a word. -/
def execSyncSilence (s : State) : Out :=
  if s.syncSlave && s.syncLocked && decide (40000 ≤ s.since s.sync.lastRecv) then .next (s.loseLock .silence) else .next s

end Sys2Proof.Machine
end

