-- ==== Sys2Proof/Machine/Uart.lean ====
section
/-!
DEFINITION. Serial ports (R383 to R397), their service by the foreman (R350, R367 to R370, R394) and the console channels
(R340, R350, R372, R373).
-/
namespace Sys2Proof.Machine

/-- The command-line channel of a UART (R348): UART1 is channel 0, UART0 channel 1. -/
def uartChan (u : Nat) : Nat := 1 - u

/-! ### Receiving (R386 to R388, R390) -/

/-- Bit k of a frame: the majority of samples 16k + 7, 8 and 9 (R386). The line is high after the last sample given. -/
def majority (l : List Bool) (k : Nat) : Bool :=
  let a := l.getD (16 * k + 7) true
  let b := l.getD (16 * k + 8) true
  let c := l.getD (16 * k + 9) true
  (a && b) || (a && c) || (b && c)

/-- The frame a port is set for (R385): data bits, address bit, parity. -/
structure Frame where
  dbits : Nat
  addr : Bool
  parity : Nat
deriving DecidableEq, Repr

/-- The frame in force. -/
def State.frame (s : State) (u : Nat) : Frame :=
  let f := (s.reg (Adr.uartFmt u)).toNat
  { dbits := if f.testBit 0 then 7 else 8, addr := f.testBit 1, parity := bits f 3 2 }

/-- The number of bits before the first stop bit. -/
def Frame.stopAt (f : Frame) : Nat := 1 + f.dbits + b2n f.addr + b2n (f.parity != 0)

/-- The parity bit of a character: even or odd over the data and address bits (R385). -/
def Frame.parityOf (f : Frame) (ones : Nat) : Bool := if f.parity = 2 then ones % 2 == 0 else ones % 2 == 1

/-- The RX word of a sampled character: data, ABIT, PE, FE, VALID (R385, R386, R397). -/
def Frame.word (f : Frame) (l : List Bool) : BitVec 12 :=
  let ds := (List.range f.dbits).map (fun i => majority l (1 + i))
  let a := f.addr && majority l (1 + f.dbits)
  let ones := (ds.filter id).length + b2n a
  let v := (List.range f.dbits).foldl (fun v i => v + 2 ^ i * b2n (ds.getD i false)) 0
  let pe := f.parity != 0 && majority l (1 + f.dbits + b2n f.addr) != f.parityOf ones
  let fe := !majority l f.stopAt
  BitVec.ofNat 12 (v + 256 * b2n a + 512 * b2n pe + 1024 * b2n fe + 2048)

/-- The receiver hears its line: enabled, outside Reset, Boot and Standby (R31, R395), and DE inactive (R391). -/
def State.uartHears (s : State) (u : Nat) : Bool :=
  s.inRun && s.flag (Adr.uartCtrl u) 1 && ((s.uart u).de == .idle)

/-- An address character decides whether the receiver is muted (R390, R392). -/
def State.addressMatch (s : State) (u : Nat) (w : BitVec 12) : Bool :=
  let v := w.toNat % 256
  let err := w.toNat.testBit 9 || w.toNat.testBit 10
  !s.flag (Adr.uartCtrl u) 3 || (!err && (v == (s.reg (Adr.uartNode u)).toNat % 256 || v == 0xFF))

/-- The receiver discards data characters (R390). A change of MUTE acts from the next address character; in a format
without an address bit it acts at once. (DEDUCED, log 74) -/
def State.uartMuted (s : State) (u : Nat) : Bool :=
  (s.uart u).muted && (s.flag (Adr.uartFmt u) 1 || s.flag (Adr.uartCtrl u) 3)

/-- A complete character: errors counted, an address character decides muting, a data character of a muted receiver is
discarded, a character that meets a full FIFO is dropped (R386, R388, R390). -/
def State.uartStore (s : State) (u : Nat) (w : BitVec 12) : State :=
  let s := if w.toNat.testBit 10 then s.incr (Adr.uartFeCnt u) else s
  let s := if w.toNat.testBit 9 then s.incr (Adr.uartPeCnt u) else s
  let abit := w.toNat.testBit 8
  let keep := abit || !s.uartMuted u
  let s := if abit then s.setUart u { s.uart u with muted := !s.addressMatch u w } else s
  if !keep then s
  else if 32 ≤ (s.uart u).rx.length then (s.setFlag (Adr.uartStatus u) 14 true).incr (Adr.uartOeCnt u)
  else s.setUart u { s.uart u with rx := (s.uart u).rx ++ [w] }

/-- `UART_CHAR_RECEIVED` (R386): samples from the falling edge on, 16 a bit, framed by the rate and format in force at that edge
(R392). -/
def execUartCharReceived (u : Fin 2) (samples : List Bool) (s : State) : Out :=
  let s := s.setUart u { s.uart u with line := samples.getLastD true }
  if !s.uartHears u || (s.uart u).waitHigh then .next s
  else if majority samples 0 then .next (s.incr (Adr.uartGlitchCnt u))
  else
    let w := (s.frame u).word samples
    let s := s.uartStore u w
    .next (if w.toNat.testBit 10 then s.setUart u { s.uart u with waitHigh := true } else s)

/-- `UART_RECEIVER_REARM` (R386): a sample that reads high. -/
def execUartReceiverRearm (u : Fin 2) (s : State) : Out :=
  .next (s.setUart u { s.uart u with waitHigh := false, line := true })

/-- A read of UARTu.RX (R387). -/
def State.uartPop (s : State) (u : Nat) : Word × State :=
  match (s.uart u).rx with
  | [] => (0, s)
  | w :: q => (w.setWidth 20, s.setUart u { s.uart u with rx := q })

/-- `UART_RX_READ` (R387, R397). -/
def execUartRxRead (ag : Agent) (u : Fin 2) (s : State) : Out :=
  if s.on 0 then
    let r := s.uartPop u
    .next (r.2.retW ag r.1)
  else .next (s.retW ag 0)

/-! ### Sending (R389, R391 to R393) -/

/-- A character as it is sent in a format: the address bit only where the format has one, bit 7 not with 7 data bits (R385,
R392, R397). -/
def Frame.cut (f : Frame) (c : BitVec 9) : BitVec 9 :=
  BitVec.ofNat 9 ((if f.dbits = 7 then c.toNat % 128 else c.toNat % 256) + (if f.addr then c.toNat / 256 * 256 else 0))

/-- The transmitter takes the oldest character from an idle line, in the format then in force (R392); UART0 drives DE (R389,
R391). -/
def State.uartKick (s : State) (u : Nat) : State :=
  let x := s.uart u
  match x.shift, x.tx with
  | none, c :: q =>
    if s.flag (Adr.uartCtrl u) 0 && s.inRun then
      s.setUart u { x with shift := some ((s.frame u).cut c), tx := q, de := if u = 0 then .active else .idle }
    else s
  | _, _ => s

/-- A write of UARTu.TX (R389, R397). -/
def State.uartPush (s : State) (u : Nat) (v : Nat) : State :=
  let x := s.uart u
  if 32 ≤ x.tx.length then s.setFlag (Adr.uartStatus u) 15 true
  else (s.setUart u { x with tx := x.tx ++ [BitVec.ofNat 9 v] }).uartKick u

/-- `UART_TX_WRITE` (R389). -/
def execUartTxWrite (ag : Agent) (u : Fin 2) (v : Word) (s : State) : Out :=
  s.guardWrite ag (Adr.uartTx u) v (fun _ s => .next (s.uartPush u (v.toNat % 512)))

/-- The registers that a `uart` command changes on the port it came in on, after the last stop bit of its `ok` (R393). -/
def State.uartAfter (s : State) (u : Nat) : State :=
  let x := s.uart u
  if x.shift.isNone && x.tx.isEmpty && (s.chan (uartChan u)).out.isEmpty && !x.after.isEmpty then
    (x.after.foldl (fun s p => s.setReg p.1 p.2) s).setUart u { x with after := [] }
  else s

/-- `UART_CHAR_SENT` (R389, R391): the next character follows, or the line is idle and the tail of UART0 begins. -/
def execUartCharSent (u : Fin 2) (s : State) : Out :=
  let x := s.uart u
  match x.shift with
  | none => .next s
  | some c =>
    let de : DePhase := if u = 0 && s.fld (Adr.uartDe u) 15 8 != 0 then .tail else .idle
    let s := s.setUart u { x with shift := none, sent := x.sent ++ [c], de := de }
    .next ((s.uartKick u).uartAfter u)

/-- `UART_DE_TAIL_END` (R391). -/
def execUartDeTailEnd (s : State) : Out :=
  let x := s.uart 0
  if x.de == .tail then .next (s.setUart 0 { x with de := .idle }) else .next s

/-- The level of UART0_DE (R391). -/
def State.deLevel (s : State) : Bool := ((s.uart 0).de != .idle) != s.flag (Adr.uartCtrl 0) 4

/-! ### Service by the foreman (R349, R350, R367, R370, R394) -/

/-- The characters of the line in progress that a buffer holds. -/
def CmdChan.part (c : CmdChan) : Nat := (c.inp.reverse.takeWhile (fun i => i.ch != 0x0A)).length

/-- A character into a channel's buffer of 4,096 (R349, R350): CR is ignored, what follows the 512th character of a line is
discarded, and a character that finds no room is lost. (DESIGN CHOICE, log 73) -/
def CmdChan.take (c : CmdChan) (b : Byte) : CmdChan :=
  if b = 0x0D then c
  else if b != 0x0A && decide (512 ≤ c.part) then { c with tooLong := true }
  else if 4096 ≤ c.inp.length then { c with lost := true }
  else if b = 0x0A then
    { c with inp := c.inp ++ [{ ch := b, bcast := c.bcast, bad := c.lost, tooLong := c.tooLong }], lost := false, tooLong := false }
  else { c with inp := c.inp ++ [{ ch := b, bcast := c.bcast }] }

/-- The complete lines of a buffer: what lies up to its last terminator. -/
def wholeLines : List InChar → List InChar
  | [] => []
  | c :: l => let w := wholeLines l; if c.ch = 0x0A || !w.isEmpty then c :: w else []

/-- An address character on UART0 (R367, R370): the partial line goes, and what is left of a response. -/
def State.addressChar (s : State) (w : BitVec 12) : State :=
  let v := w.toNat % 256
  let err := w.toNat.testBit 9 || w.toNat.testBit 10
  let c := s.chan 1
  let own := !err && v == (s.reg (Adr.uartNode 0)).toNat % 256
  let all := !err && v == 0xFF
  let s := s.setChan 1 { c with inp := wholeLines c.inp, lost := false, tooLong := false, addressed := own || all, bcast := all, out := [],
                                cur := { c.cur with dropped := c.long.isSome } }
  s.setUart 0 { s.uart 0 with tx := [] }

/-- A character read from the receive FIFO of port u. (DEDUCED, log 75) -/
def State.serveChar (s : State) (u : Nat) (w : BitVec 12) : State :=
  let k := uartChan u
  let v := w.toNat
  if u = 0 && v.testBit 8 then s.addressChar w
  else
    let c := s.chan k
    if u = 0 && s.flag (Adr.uartFmt 0) 1 && !c.addressed then s
    else if v.testBit 9 || v.testBit 10 then s.setChan k { c with lost := true }
    else
      let c := c.take (BitVec.ofNat 8 v)
      s.setChan k (if u = 1 && c.echo then { c with out := c.out ++ [BitVec.ofNat 9 (v % 256)] } else c)

/-- Text results of UART1 go out between responses (R260, R362). -/
def CmdChan.flushText (c : CmdChan) : Nat → CmdChan
  | 0 => c
  | n + 1 =>
    match c.textq with
    | [] => c
    | l :: q =>
      let r := c.offer 0 l
      if r.2 then CmdChan.flushText { r.1 with textq := q } n else c

/-- Output characters into the transmit FIFO, as far as it has room. -/
def State.uartFeed (s : State) (u : Nat) : Nat → State
  | 0 => s
  | n + 1 =>
    let c := s.chan (uartChan u)
    match c.out with
    | [] => s
    | b :: q =>
      if 32 ≤ (s.uart u).tx.length then s
      else ((s.setChan (uartChan u) { c with out := q }).uartPush u b.toNat).uartFeed u n

/-- The receive FIFO is read into the command line, and output goes into the transmit FIFO. -/
def State.serve (s : State) (u : Nat) : State :=
  let k := uartChan u
  let q := (s.uart u).rx
  let s := s.setUart u { s.uart u with rx := [] }
  let s := q.foldl (fun s w => s.serveChar u w) s
  let s := if s.flag (Adr.uartStatus u) 14 then
      (s.setFlag (Adr.uartStatus u) 14 false).setChan k { s.chan k with lost := true }
    else s
  let s := if u = 1 then s.setChan k ((s.chan k).flushText 256) else s
  (s.uartFeed u 32).uartAfter u

/-- `UART_SERVICE_POLL` (R394). -/
def execUartServicePoll (u : Fin 2) (s : State) : Out := if s.inRun then .next (s.serve u) else .next s

/-! ### Console channels (R340, R372, R373) -/

/-- The characters that a word of a host box carries (R372). -/
def consoleChars (w : Word) : List Byte :=
  let v := w.toNat
  let n := bits v 17 16
  if n = 1 then [BitVec.ofNat 8 v] else if n = 2 then [BitVec.ofNat 8 v, BitVec.ofNat 8 (v / 256)] else []

/-- The foreman reads a host box while the channel has room for 16 characters (R350). -/
def State.consoleIn (s : State) (k : Nat) : Nat → State
  | 0 => s
  | n + 1 =>
    let c := s.chan (2 + k)
    if 4096 < c.inp.length + 16 || ((s.box (72 + k)).incoming true).isEmpty then s
    else
      let r := s.boxAccess .foreman (72 + k) true 2 none
      (r.2.setChan (2 + k) ((consoleChars r.1).foldl CmdChan.take c)).consoleIn k n

/-- The next word of a console's output (R372, R373): one or two characters of one line, with LAST on the one that carries
LF. -/
def consoleWord : List (BitVec 9) → Option (Word × Bool × List (BitVec 9))
  | [] => none
  | a :: l =>
    if a = 0x0A then some (BitVec.ofNat 20 (0x10000 + a.toNat), true, l)
    else match l with
      | [] => some (BitVec.ofNat 20 (0x10000 + a.toNat), false, [])
      | b :: l => some (BitVec.ofNat 20 (0x20000 + 256 * b.toNat + a.toNat), b == 0x0A, l)

/-- The foreman pushes words while TXFREE is not 0 (R373). -/
def State.consoleOut (s : State) (k : Nat) : Nat → State
  | 0 => s
  | n + 1 =>
    match consoleWord (s.chan (2 + k)).out with
    | none => s
    | some (w, last, q) =>
      if 8 ≤ ((s.box (72 + k)).side true).out.length then s
      else (((s.setChan (2 + k) { s.chan (2 + k) with out := q }).boxAccess .foreman (72 + k) true (b2n last) (some w)).2).consoleOut k n

/-- The foreman reads a box of a bench that is not leased; what it says is between bench and foreman firmware.
(DEDUCED, log 76) -/
def State.drainBox (s : State) (n : Nat) : State :=
  if (s.bench (boxBench n)).leased || !s.on (boxPd n) then s
  else s.setBox n ((s.box n).put false { (s.box n).side false with out := [] })

/-- `CONSOLE_POLL` (R340). -/
def execConsolePoll (s : State) : Out :=
  if s.inRun then
    let s := upTo 8 (fun k s => (s.consoleIn k 8).consoleOut k 8) s
    .next (upTo 72 (fun n s => s.drainBox n) s)
  else .next s

end Sys2Proof.Machine
end

