-- ==== Sys2Proof/Machine/Bus.lean ====
section
/-!
DEFINITION. Accesses through the fabric (R7 to R10, R286, R472, R485 to R490): a write dispatched to what the register's
block does with it, a read with the values that are computed, the RC fields it clears and the latches it takes.
-/
namespace Sys2Proof.Machine

/-! ### Addresses without modelled registers (R485, R486) -/

/-- The registers that only the foreman firmware uses: MEMC, NVM and OTP (R486). -/
def isPrivate (a : Nat) : Bool :=
  (decide (0x70000 ≤ a) && decide (a < 0x80000)) || (decide (0x2000000 ≤ a) && decide (a < 0x2100000))

/-- The domain of such a register. -/
def privatePd (a : Nat) : Nat := if a < 0x80000 then 0 else 7

/-- An aligned doubleword of usable DRAM at a fabric address (R485). -/
def isDram (a : Nat) : Bool := decide (dramBase ≤ a) && decide (a + 4 ≤ dramBase + dramSize)

/-! ### Values that a read computes -/

/-- Bits of a number as a register value. -/
def wordOf (v hi lo : Nat) : Word := BitVec.ofNat 20 (bits v hi lo)

/-- A flag at a bit position of a register value. -/
def flagAt (b : Bool) (i : Nat) : Nat := b2n b * 2 ^ i

/-- A PLL is locked while its domain is on (R412, R419). (DEDUCED, log 89) -/
def State.lockBits (s : State) : Nat :=
  flagAt (s.on 1) 4 + flagAt (s.on 2 || s.on 3 || s.on 4) 5 + flagAt (s.on 5) 6 + flagAt (s.on 6) 7 + flagAt (s.on 7) 8
    + flagAt (s.on 1 && s.pw.pciRef) 9

/-- Registers of SYS, PWR, THERM and CLK (R34, R402, R417, R419, R487). (DEDUCED, log 88) -/
def State.aonValue (s : State) (a : Nat) (old : Word) : Word :=
  let p := s.pw
  let ser := if s.flash.otpOk then s.flash.serial.toNat else 0
  if a = Adr.sysSerialL then wordOf ser 15 0
  else if a = Adr.sysState then BitVec.ofNat 20 (p.cause.toNat * 16 + flagAt p.imageB 3 + (if s.inRun then 2 else 1))
  else if a = Adr.pwrDom then putBits old 7 0 p.on.toNat
  else if a = Adr.pwrVmain then p.vmain.setWidth 20
  else if a = Adr.pwrVstby then p.vstby.setWidth 20
  else if a = Adr.pwrImain then p.imain.setWidth 20
  else if a = Adr.pwrStatus then
    BitVec.ofNat 20 (flagAt p.mainOk 0 + flagAt p.stbyOk 1 + flagAt p.mainOk 2 + flagAt (p.st == .drain) 3)
  else if Adr.pwrPdp 0 ≤ a ∧ a < Adr.pwrPdp 8 then
    (SMap.get (fun _ => (0 : BitVec 16)) p.pdp ((a - Adr.pwrPdp 0) / 4)).setWidth 20
  else if Adr.pwrThermT 0 ≤ a ∧ a < Adr.pwrThermT 8 then
    (SMap.get (fun _ => (0 : BitVec 12)) p.temps ((a - Adr.pwrThermT 0) / 4)).setWidth 20
  else if a = Adr.pwrThermStatus then
    BitVec.ofNat 20 (((List.range 8).map (fun i => flagAt (decide (s.throt < s.temp i)) i)).foldl (· + ·) (flagAt p.throttled 8))
  else if a = Adr.clkStatus then
    BitVec.ofNat 20 (flagAt (old.toNat.testBit 2) 2 + flagAt p.throttled 10 + s.lockBits + flagAt p.pciRef 3
      + flagAt p.backup 1 + flagAt p.refOk 0)
  else old

/-- GPIO.IN and GPIO.EV_PEND (R80, R82): an output pin reads its latch. -/
def State.gpioValue (s : State) (a : Nat) (old : Word) : Word :=
  if a = Adr.gpioIn then
    let oe := (s.reg Adr.gpioOe).toNat
    BitVec.ofNat 20 (((s.reg Adr.gpioOut).toNat &&& oe) ||| (s.gpio.pins.toNat &&& (oe ^^^ 0xFF)))
  else if a = Adr.gpioEvPend then BitVec.ofNat 20 s.gpio.pend.length
  else old

/-- UARTu.STATUS (R397). -/
def State.uartValue (s : State) (u a : Nat) (old : Word) : Word :=
  let x := s.uart u
  if a = Adr.uartStatus u then
    BitVec.ofNat 20 (x.rx.length + 64 * x.tx.length + flagAt (x.shift.isNone && x.tx.isEmpty) 12 + flagAt (s.uartMuted u) 13
      + flagAt (old.toNat.testBit 14) 14 + flagAt (old.toNat.testBit 15) 15 + flagAt (old.toNat.testBit 16) 16
      + flagAt (u == 0 && x.de != .idle) 17 + flagAt x.line 18)
  else if u = 0 then old
  else if a = Adr.uartNode u || a = Adr.uartDe u then 0
  else old

/-- The STATE code of a Spoil entry (R432). -/
def spoilStCode : SpoilSt → Nat
  | .new => 1 | .inhand => 2 | .handled => 3

/-- A word of a Spoil entry (R432). -/
def SpoilEnt.word (e : SpoilEnt) (off : Nat) : Word :=
  if off = 0 then
    BitVec.ofNat 20 (classCode e.cls + flagAt e.fw 7 + e.unit_.toNat * 256 + spoilStCode e.st * 2 ^ 16 + flagAt e.prior 18)
  else if off = 1 then BitVec.ofNat 20 (min e.rep 0x3FFFF + outCode e.out * 2 ^ 18)
  else if off < 6 then word16 e.time.toNat (off - 2)
  else if off < 10 then word20 e.detail.toNat (off - 6)
  else 0

/-- A word of the SPOIL block from its offset (R432). -/
def State.spoilWord (s : State) (o : Nat) : Word :=
  let es := s.spoil.ents
  if o = 0 then
    BitVec.ofNat 20 (es.length + flagAt (es.length == 64) 7
      + 256 * ((es.zipIdx.find? (fun e => e.1.st != .handled)).map (·.2)).getD 64)
  else if o = 4 then s.spoil.lost
  else if 0x100 ≤ o ∧ o < 0x1100 then
    match es[(o - 0x100) / 64]? with
    | some e => e.word ((o - 0x100) % 64 / 4)
    | none => 0
  else 0

/-- PORT.p.STATUS (R119). -/
def State.portValue (s : State) (p a : Nat) (old : Word) : Word :=
  if a = Adr.portStatus p then
    let v := putBits old 5 3 (b2n (s.pst p 0).open_ + 2 * b2n (s.pst p 1).open_ + 4 * b2n (s.port p).learn)
    putBits v 1 1 (b2n (s.ulpsOn p))
  else old

/-- FACE.f.ALN_USED and DLY_USED (R134, R163). -/
def State.faceValue (s : State) (f a : Nat) (old : Word) : Word :=
  let total (g : Nat → Nat) : Nat := ((List.range 4).map g).foldl (· + ·) 0
  if a = Adr.faceAlnUsed f then BitVec.ofNat 20 (min 0xFFFFF (total (s.alnUsed f)))
  else if a = Adr.faceDlyUsed f then BitVec.ofNat 20 (min 0xFFFFF (total (s.dlyUsed f)))
  else old

/-- A served, enabled head is on another channel (R85). -/
def State.headMis (s : State) (q : Nat) : Bool := (seqHeads q).any (fun h => s.headEn h && s.headChan h != s.seqChan q)

/-- The bank of the newer table record (R98). -/
def Seq.aBank (x : Seq) : Bool :=
  match x.newer, x.older with
  | some (.table _ b _), _ => b
  | _, some (.table _ b _) => b
  | _, _ => false

/-- The registers of a sequencer's state (R98). -/
def State.seqValue (s : State) (q a : Nat) (old : Word) : Word :=
  let x := s.seq q
  let k0 := match x.newer with | some (.table k _ _) => k.toNat | _ => 0
  if a = Adr.seqStatus q then
    BitVec.ofNat 20 (flagAt x.run 0 + flagAt x.aBank 1 + flagAt x.swap 2 + flagAt (old.toNat.testBit 3) 3
      + flagAt (s.headMis q) 4 + x.lastStep.toNat * 256)
  else if a = Adr.seqK0L q then word16 k0 0
  else if a = Adr.seqK0H q then word16 k0 1
  else if a = Adr.seqSwkL q then word16 x.kc.toNat 0
  else if a = Adr.seqSwkH q then word16 x.kc.toNat 1
  else old

/-- The registers of the Riddle's state (R221). -/
def State.riddleValue (s : State) (a : Nat) (old : Word) : Word :=
  if a = Adr.riddleStatus then
    BitVec.ofNat 20 (flagAt (old.toNat.testBit 0) 0 + flagAt s.riddle.gpend 1 + flagAt s.riddle.gset 2)
  else if a = Adr.riddleUsed then BitVec.ofNat 20 s.entries.length
  else if Adr.riddleOut 0 ≤ a ∧ a < Adr.riddleOut 8 ∧ (a - Adr.riddleOut 0) % 16 = 0 then
    BitVec.ofNat 20 (s.tqOccupied ((a - Adr.riddleOut 0) / 16))
  else old

/-- The registers of a stockpile's state (R193, R194). -/
def State.stockValue (s : State) (h p a : Nat) (old : Word) : Word :=
  let x := s.stock (4 * h + p)
  if a = Adr.stockNewestL h p then word16 x.newest.toNat 0
  else if a = Adr.stockNewestH h p then word16 x.newest.toNat 1
  else if a = Adr.stockClosedL h p then word16 x.closed.toNat 0
  else if a = Adr.stockClosedH h p then word16 x.closed.toNat 1
  else if a = Adr.stockEpoch h p then x.epoch.setWidth 20
  else old

/-- A hewer's status, PC and ILLADR, and the bench's status (R284). -/
def State.benchValue (s : State) (b a : Nat) (old : Word) : Word :=
  let x := s.bench b
  if a = Adr.benchStatus b then
    BitVec.ofNat 20 (flagAt (old.toNat.testBit 0) 0 + flagAt x.leased 1 + flagAt (s.retired b) 2)
  else if (List.range 8).any (fun i => a == Adr.benchHctrl b i) then
    BitVec.ofNat 20 (b2n (s.runBit (8 * b + (a - Adr.benchHctrl b 0) / 32)))
  else
    let o := a - Adr.benchHstat b 0
    let i := o / 32
    if a < Adr.benchHstat b 0 || 8 ≤ i then old
    else
      let h := s.core (8 * b + i)
      if o % 32 = 0 then
        BitVec.ofNat 20 (flagAt (s.hewerRuns (8 * b + i)) 0 + flagAt h.illop 1 + flagAt h.sat 2 + flagAt h.dz 3 + flagAt h.halting 4)
      else if o % 32 = 4 then h.pc.setWidth 20
      else if o % 32 = 8 then h.illadr.setWidth 20
      else old

/-- PCIE.STATUS (R483). -/
def State.pcieValue (s : State) (a : Nat) (old : Word) : Word :=
  if a = Adr.pcieStatus then
    BitVec.ofNat 20 (s.pcie.speed % 16 + s.pcie.width % 16 * 16 + flagAt s.pcie.up 8 + flagAt s.pcie.bme 9
      + flagAt s.pcie.d3 10 + flagAt (old.toNat.testBit 11) 11)
  else old

/-- The value that a register shows, before what a read does to it. -/
def State.shown (s : State) (h : Hit) (a : Nat) : Word :=
  let old := s.reg a
  match h.blk with
  | .sys | .pwr | .clk => s.aonValue a old
  | .trgh => if a = Adr.trghTagLevel h.i then BitVec.ofNat 20 (s.head h.i).tags.length else old
  | .gpio => s.gpioValue a old
  | .uart => s.uartValue h.i a old
  | .spoil => s.spoilWord (a - Adr.spoilStatus)
  | .port => s.portValue h.i a old
  | .face => s.faceValue h.i a old
  | .fsrc => if a = Adr.fsrcUsed h.i h.j then BitVec.ofNat 20 (s.fctx (4 * h.i + h.j)).used else old
  | .seq => s.seqValue h.i a old
  | .seam => if a = Adr.seamStatus h.i then putBits old 1 1 (b2n (s.flag (Adr.seamCtrl h.i) 0 && !s.outOfService (0x18 + h.i))) else old
  | .sctx => if a = Adr.sctxSlabcnt h.i h.j then BitVec.ofNat 20 (s.sctx (4 * h.i + h.j)).slabCnt else old
  | .riddle => s.riddleValue a old
  | .kerf => if a = Adr.kerfStatus h.i then putBits old 0 0 (b2n (s.kerf h.i).job.isSome) else old
  | .stock => s.stockValue h.i h.j a old
  | .bench => s.benchValue h.i a old
  | .pcie => s.pcieValue a old
  | .foreman => if a = Adr.foremanSwPend then BitVec.ofNat 20 s.swq.length else old
  | _ => old

/-! ### Latches (R490) -/

/-- The registers that a read of the register at this address latches: their number, and the value of which they are
16-bit parts from the second on. (DESIGN CHOICE, log 14) -/
def State.latches (s : State) (h : Hit) (a : Nat) : Option (Nat × Nat) :=
  match h.blk with
  | .enc =>
    if a = Adr.encPosL h.i then some (2, (s.enc h.i).count.toNat)
    else if a = Adr.encIdxL h.i then some (2, (s.enc h.i).idx.toNat) else none
  | .trgc => if a = Adr.trgcKL h.i then some (2, (s.sched h.i).k.toNat) else none
  | .seq =>
    if a = Adr.seqK0L h.i then some (1, (match (s.seq h.i).newer with | some (.table k _ _) => k.toNat | _ => 0) % 2 ^ 32)
    else if a = Adr.seqSwkL h.i then some (1, (s.seq h.i).kc.toNat % 2 ^ 32) else none
  | .seam =>
    if a = Adr.seamLast h.i 0 then
      some (15, match SMap.get (fun _ => (none : Option Cand)) s.seamLast h.i with | some c => c.record | none => 0)
    else none
  | .stock =>
    if a = Adr.stockNewestL h.i h.j then some (1, (s.stock (4 * h.i + h.j)).newest.toNat)
    else if a = Adr.stockClosedL h.i h.j then some (1, (s.stock (4 * h.i + h.j)).closed.toNat) else none
  | .spoil =>
    let o := a - Adr.spoilStatus
    if 0x100 ≤ o ∧ (o - 0x100) % 64 = 8 then
      some (3, (s.spoil.ents[(o - 0x100) / 64]?.map (fun e => e.time.toNat)).getD 0)
    else none
  | .sys => if a = Adr.sysSerialL then some (1, if s.flash.otpOk then s.flash.serial.toNat else 0) else none
  | _ => none

/-- The offset in its array of a register that another register's read latches: a read returns its reader's latch. -/
def Hit.latched (h : Hit) (a : Nat) : Bool :=
  match h.blk with
  | .enc => a = Adr.encPosM h.i || a = Adr.encPosH h.i || a = Adr.encIdxM h.i || a = Adr.encIdxH h.i
  | .trgc => a = Adr.trgcKM h.i || a = Adr.trgcKH h.i
  | .seq => a = Adr.seqK0H h.i || a = Adr.seqSwkH h.i
  | .seam => Adr.seamLast h.i 1 ≤ a && a < Adr.seamLast h.i 16
  | .stock => a = Adr.stockNewestH h.i h.j || a = Adr.stockClosedH h.i h.j
  | .spoil => 0x100 ≤ a - Adr.spoilStatus && 12 ≤ (a - Adr.spoilStatus - 0x100) % 64 && (a - Adr.spoilStatus - 0x100) % 64 < 24
  | .sys => a = Adr.sysSerialH
  | .bench => a = Adr.benchMaDatah h.i
  | _ => false

/-- The latching read of part 0 of a value: the other `n` parts go to the reader's latches. -/
def State.latchParts (s : State) (r a v : Nat) (n : Nat) : State :=
  upTo n (fun i s => s.setLatch (latchKey r (a + 4 * (i + 1))) (word16 v (i + 1))) s

/-! ### Reads -/

/-- The RC fields of a register cleared to their reset values (R8, R10). -/
def RegDesc.clearRc (d : RegDesc) (w : Word) : Word :=
  d.flds.foldl (fun w f => if f.acc == .rc then f.put w f.reset else w) w

/-- A read of a register that no other rule covers: the value it shows, its RC fields then cleared. -/
def State.plainRead (s : State) (h : Hit) (a : Nat) : Word × State :=
  let v := s.shown h a
  (v, if h.desc.flds.any (fun f => f.acc == .rc) then s.setReg a (h.desc.clearRc (s.reg a)) else s)

/-- The K registers have no value before the schedule's first point (R67); K0 has none under a fixed record; PC is valid
while the hewer is halted (R284). (DESIGN CHOICE, log 21) (DESIGN CHOICE, log 83) (DEDUCED, log 84) -/
def State.openRead (s : State) (h : Hit) (a : Nat) : Bool :=
  match h.blk with
  | .trgc => (a == Adr.trgcKL h.i) && s.schedOn h.i && !(s.sched h.i).any
  | .seq => (a == Adr.seqK0L h.i) && (s.seq h.i).newer == some .fixed
  | .bench => h.desc.off == 0x10C && s.hewerRuns (8 * h.i + h.k)
  | _ => false

/-- A read of a register by an agent: what it returns, and what it does to the engine. -/
def State.regRead (s : State) (ag : Agent) (h : Hit) (a : Nat) : Word × State :=
  let r := readerOf ag
  match h.blk with
  | .uart => if a = Adr.uartRx h.i then s.uartPop h.i else s.plainRead h a
  | .mbxFar => s.boxAccess ag h.i true (a % 0x100 / 4) none
  | .mbxNear => s.boxAccess ag (72 + h.i) false (a % 0x100 / 4) none
  | .face => if a = Adr.faceTblData h.i then s.readTbl h.i else s.plainRead h a
  | .bench =>
    if 0x80000 ≤ h.desc.off then s.benchRead ag h.i a
    else if a = Adr.benchMaData h.i then s.maAccess r h.i none
    else if h.latched a then (s.latched (latchKey r a), s)
    else if s.openRead h a then (BitVec.ofNat 20 (s.draw.1 % 32768), s.draw.2)
    else s.plainRead h a
  | .foreman => if ag == .foreman then s.plainRead h a else s.freeRead
  | .pwr =>
    let x := s.plainRead h a
    (x.1, if a = Adr.pwrThermPeak then x.2.setPw { x.2.pw with peakSeen := false } else x.2)
  | _ =>
    if h.latched a then (s.latched (latchKey r a), s)
    else
      match s.latches h a with
      | some (n, v) =>
        if s.openRead h a then
          let d := s.draw
          (BitVec.ofNat 20 (d.1 % 65536), d.2.latchParts r a d.1 n)
        else (word16 v 0, s.latchParts r a v n)
      | none => s.plainRead h a

/-- Hewers reach only the registers of their own bench from offset 0x8_0000 on (R266, R284); what a hewer's write to a block
that the foreman owns does, UART, PWR and CLK among them, is undefined all the same (R433). -/
def hewerReaches (ag : Agent) (h : Hit) : Bool :=
  match ag with
  | .hewer b i =>
    h.blk == .bench && h.i == b.val && decide (0x80000 ≤ h.desc.off)
      && (decide (h.desc.off < 0xB0000) || decide (0xC0000 ≤ h.desc.off) || h.k == i.val)
  | _ => true

/-- The doubleword of DRAM at an offset, as the foreman's window returns it. (DEDUCED, log 87) -/
def State.dramWord (s : State) (o : Nat) : Word := BitVec.ofNat 20 (leNat (s.dramRun o 4))

/-- A fabric read (R33, R485, R486): a domain that is off and an unassigned address read 0. -/
def State.busRead (s : State) (ag : Agent) (a : Nat) : Word × State :=
  if isPrivate a then (if s.on (privatePd a) then s.freeRead else (0, s))
  else if isDram a then (if s.on 7 then (s.dramWord (a - dramBase), s) else (0, s))
  else
    match RegMap.find a with
    | none => (0, s)
    | some h =>
      if !s.on h.domain || !hewerReaches ag h then (0, s)
      else if s.isUndef h then s.undefRead h
      else s.regRead ag h a

/-! ### Writes -/

/-- An address bit with 7 data bits, or on UART1, is a reserved encoding (R385). -/
def fmtBad (u : Nat) (w : Word) : Bool := w.toNat.testBit 1 && (u != 0 || w.toNat.testBit 0)

/-- Fields of UARTs that UART1 has not (R397). -/
def uartMask (u a : Nat) (w : Word) : Word :=
  if u = 0 then (if a = Adr.uartFmt 0 && fmtBad 0 w then putBits w 1 0 2 else w)
  else if a = Adr.uartCtrl u then w &&& 0x7
  else if a = Adr.uartFmt u then putBits w 1 1 0
  else w

/-- A write of a sequencer's length or step (R94): a change of a bank in use while EN is 1 is the undefined case. -/
def State.writeSeqTable (s : State) (q : Nat) (h : Hit) (a : Nat) (w : Word) : State :=
  let old := s.reg a
  let x := s.seq q
  let s := s.store h a w
  let new := s.reg a
  let len := a = Adr.seqLen q
  let hit (bank : Bool) : Bool :=
    let mine := if len then (if bank then bits old.toNat 13 8 != bits new.toNat 13 8 else bits old.toNat 5 0 != bits new.toNat 5 0)
      else (decide (Adr.seqStep1Light q 0 ≤ a) == bank) && old != new
    mine && s.seqEn q && x.inUse bank
  s.setSeq q { x with taint0 := x.taint0 || hit false, taint1 := x.taint1 || hit true }

/-- A write of RIDDLE.PSLOT (R221): an area past 0xF_FFFF is a reserved encoding. (DEDUCED, log 86) -/
def State.writePslot (s : State) (b : Nat) (h : Hit) (w : Word) : State :=
  let a := Adr.riddlePslot b
  let s := s.store h a w
  if 0x100000 < (s.reg (Adr.riddleParea b)).toNat + s.pslotCount b * s.pslotWords b then
    (s.setReg a h.desc.reset).setFlag Adr.riddleStatus 0 true
  else s

/-- A write of a Seam context's SRC (R169): MAX and MIN with PLANE_B equal to PLANE_A are reserved. -/
def State.writeSctxSrc (s : State) (f c : Nat) (h : Hit) (w : Word) : State :=
  let a := Adr.sctxSrc f c
  let s := s.store h a w
  if s.fld a 2 1 != 0 && s.fld a 4 3 == s.fld a 6 5 then
    (s.setFld a 6 1 0).setFlag (Adr.seamStatus f) 0 true
  else s

/-- What a write does to a register of the always-on island and of PD1. -/
def aonWrite (ag : Agent) (h : Hit) (a : Nat) (w : Word) (s : State) : Out :=
  match h.blk with
  | .pwr => .next (if a = Adr.pwrReq then s.writePwrReq w else s.store h a w)
  | .enc => .next (if a = Adr.encCtrl h.i then s.writeEncCtrl h.i h w else s.store h a w)
  | .trgc => .next (if a = Adr.trgcCtrl h.i then s.writeTrgcCtrl h.i h w else s.store h a w)
  | .trgh => .next (if a = Adr.trghCtrl h.i then s.writeTrghCtrl h.i h w else s.store h a w)
  | .gpio => .next (if a = Adr.gpioEvPush then s.writeEvPush w else s.store h a w)
  | .sync => .next (if a = Adr.syncCtrl then s.writeSyncCtrl h w else s.store h a w)
  | .uart =>
    if a = Adr.uartTx h.i then .next (s.uartPush h.i (w.toNat % 512))
    else if h.i = 1 && (a = Adr.uartNode 1 || a = Adr.uartDe 1) then .next s
    else
      let s := if a = Adr.uartFmt h.i && fmtBad h.i w then s.setFlag (Adr.uartStatus h.i) 16 true else s
      .next ((s.store h a (uartMask h.i a w)).uartKick h.i)
  | .mbxFar => .next (s.boxAccess ag h.i true (a % 0x100 / 4) (some w)).2
  | .mbxNear => .next (s.boxAccess ag (72 + h.i) false (a % 0x100 / 4) (some w)).2
  | .pcie =>
    if a = Adr.pcieCtrl then .next (s.writePcieCtrl h w)
    else if h.desc.off = 0x100 then .next (s.writeStreamCtrl h.k h w)
    else .next (s.store h a w)
  | .foreman => .next (if a = Adr.foremanSwCmd then s.swCmd w else s.store h a w)
  | _ => .next (s.store h a w)

/-- What a write does to a register of a port, a Face or a sequencer. -/
def imageWrite (h : Hit) (a : Nat) (w : Word) (s : State) : State :=
  match h.blk with
  | .port =>
    if a = Adr.portCtrl h.i then s.writePortCtrl h.i h w
    else if a = Adr.portImg0Filt h.i || a = Adr.portImg0Width h.i then s.writePortStr h.i 0 h a w
    else if a = Adr.portImg1Filt h.i || a = Adr.portImg1Width h.i then s.writePortStr h.i 1 h a w
    else if a = Adr.portI2cCmd h.i then s.writeI2cCmd h.i w
    else if a = Adr.portI2cOp h.i then s.writeI2cOp h.i w
    else s.store h a w
  | .face =>
    if a = Adr.faceTblSel h.i then s.writeTblSel h.i h w
    else if a = Adr.faceTblAddr h.i then s.writeTblAddr h.i h w
    else if a = Adr.faceTblData h.i then s.writeTbl h.i w
    else s.writeFaceRws h.i h a w
  | .fctx => s.writeFaceRws h.i h a w
  | .fsrc =>
    if a = Adr.fsrcSrc h.i h.j then s.writeSrc h.i h.j h w
    else if a = Adr.fsrcSpool h.i h.j || a = Adr.fsrcSpoolBaseL h.i h.j || a = Adr.fsrcSpoolBaseH h.i h.j then
      s.writeSpool h.i h.j h a w
    else s.writeFaceRws h.i h a w
  | .seq =>
    if a = Adr.seqCtrl h.i then s.writeSeqCtrl h.i h w
    else if a = Adr.seqLen h.i || Adr.seqStep0Light h.i 0 ≤ a then s.writeSeqTable h.i h a w
    else s.store h a w
  | _ => s.store h a w

/-- What a write does to a register of a Seam, the Riddle, a Kerf or a stockpile. -/
def searchWrite (h : Hit) (a : Nat) (w : Word) (s : State) : State :=
  match h.blk with
  | .seam => if a = Adr.seamCtrl h.i then s.writeSeamCtrl h.i h w else s.store h a w
  | .sctx => if a = Adr.sctxSrc h.i h.j then s.writeSctxSrc h.i h.j h w else s.store h a w
  | .riddle =>
    if a = Adr.riddleDone then s.writeDone w
    else if a = Adr.riddleGcommitCommit then s.writeGcommit w
    else if a = Adr.riddleBenches then s.writeBenches h w
    else if a = Adr.riddleDupWin then (s.store h a w).retireHist
    else if h.desc.off = 0x604 then s.writePslot h.k h w
    else s.store h a w
  | .stock => if a = Adr.stockCtrl h.i h.j then (s.writeStockCtrl h.i h.j h w).riddlePoll else s.store h a w
  | _ => s.store h a w

/-- What a write does to a register of a bench (R274 to R284). -/
def benchRegWrite (ag : Agent) (h : Hit) (a : Nat) (w : Word) (s : State) : Out :=
  if 0x80000 ≤ h.desc.off then benchPoke ag h.i a w s
  else if h.desc.off = 0x100 then .next (s.writeHctrl h.i h.k w)
  else if a = Adr.benchMaData h.i then .next (s.maAccess (readerOf ag) h.i (some w)).2
  else .next (s.store h a w)

/-- A fabric write by an agent (R8, R9, R33, R433, R486, R489). -/
def busWrite (ag : Agent) (a : Nat) (w : Word) (s : State) : Out :=
  if isPrivate a then
    .next (if !s.on (privatePd a) || ag == .foreman then s else s.undefineAll)
  else if isDram a then .next (if s.on 7 then s.putDram (a - dramBase) (leBytes w.toNat 4) else s)
  else
    match RegMap.find a with
    | none => .next s
    | some h =>
      if !hewerReaches ag h then .next (if s.on h.domain && !s.mayWrite ag h && h.blk != .bench then s.undefineAll else s)
      else if h.blk = .bench ∧ 0x80000 ≤ h.desc.off then benchPoke ag h.i a w s
      else if h.blk = .pcie ∧ (a = Adr.pcieResCons ∨ a = Adr.pciePayCons ∨ h.desc.off = 0x114) then consWrite ag a w s
      else if h.blk = .foreman ∧ ag ≠ .foreman then .next s
      else
        s.guardWrite ag a w (fun h s =>
          match h.blk with
          | .sys => .next (if a = Adr.sysRecov then s.writeRecov w else s)
          | .port | .face | .fctx | .fsrc | .seq => .next (imageWrite h a w s)
          | .seam | .sctx | .riddle | .kerf | .stock => .next (searchWrite h a w s)
          | .bench => benchRegWrite ag h a w s
          | _ => aonWrite ag h a w s)

/-! ### Commands -/

/-- `REGISTER_WRITE` (R7, R8, R9, R489): bits [31:20] are ignored. (DESIGN CHOICE, log 13) -/
def execRegisterWrite (ag : Agent) (addr : Nat) (v : BitVec 32) (s : State) : Out := busWrite ag addr (v.setWidth 20) s

/-- A read by an agent, with what it returns. -/
def State.readTo (s : State) (ag : Agent) (addr : Nat) : State :=
  let r := s.busRead ag addr
  r.2.retW ag r.1

/-- `RC_FIELD_READ` (R10). -/
def execRcFieldRead (ag : Agent) (addr : Nat) (s : State) : Out := .next (s.readTo ag addr)

/-- `LATCHING_READ` (R490). -/
def execLatchingRead (ag : Agent) (addr : Nat) (s : State) : Out := .next (s.readTo ag addr)

/-- `BAR0_REQUEST` (R471, R472): one aligned doubleword with all byte enables reaches a register. -/
def execBar0Request (wr : Bool) (off : Nat) (len : Nat) (be : BitVec 4) (v : BitVec 32) (s : State) : Out :=
  if !s.endpoint || !s.pcie.up then .next s
  else if !s.memSpace || !(off % 4 == 0 && len == 4 && be == 0xF && decide (off < 0x10000000)) then
    .next (if wr then s else s.completeUr)
  else if wr then busWrite .host off (v.setWidth 20) s
  else
    let r := s.busRead .host off
    .next ((r.2.retW .host r.1).setPcie { r.2.pcie with ur := false, ep := false, data := leBytes r.1.toNat 4 })

/-- `SW_REQUEST_DONE` (R286): the oldest request of the system window is performed. -/
def execSwRequestDone (s : State) : Out :=
  match s.swq with
  | [] => .next s
  | q :: rest =>
    let s := (s.setSwq rest).setReg Adr.foremanSwDone (s.reg Adr.foremanSwDone + 1)
    match q.wr with
    | some w => busWrite .foreman q.addr.toNat w s
    | none =>
      let r := s.busRead .foreman q.addr.toNat
      .next (r.2.setReg (Adr.foremanSwRdata q.pos) r.1)

end Sys2Proof.Machine
end

