-- ==== Sys2Proof/Machine/CmdLib.lean ====
section
/-!
DEFINITION. What the commands of the command line share: register writes with the codes of R359, reads for reports,
availability of units.
-/
namespace Sys2Proof.Machine

/-- A register written by a command: a live-unsafe change of an enabled block is `busy` (R359, R489).
(DEDUCED, log 12) -/
def State.wr (s : State) (a : Nat) (w : Word) : CmdM State :=
  if (RegMap.find a).any (fun h => s.liveUnsafe h a w) then .error .busy else .ok ((busWrite .foreman a w s).stateOr s)

/-- A register value with the fields given replaced: bits `hi` to `lo`, and the value where one is given. -/
def fields (w : Word) : List (Nat × Nat × Option Nat) → Word
  | [] => w
  | (hi, lo, some v) :: l => fields (putBits w hi lo v) l
  | (_, _, none) :: l => fields w l

/-- Fields of one register written together; nothing is written where none is given. -/
def State.wrF (s : State) (a : Nat) (l : List (Nat × Nat × Option Nat)) : CmdM State :=
  if l.all (fun f => f.2.2.isNone) then .ok s else s.wr a (fields (s.reg a) l)

/-- One bit of a register written. -/
def State.wrB (s : State) (a i : Nat) (b : Bool) : CmdM State := s.wrF a [(i, i, some (b2n b))]

/-- A whole register written where a value is given. -/
def State.wrO (s : State) (a : Nat) (v : Option Nat) : CmdM State :=
  match v with
  | some n => s.wr a (BitVec.ofNat 20 n)
  | none => .ok s

/-- A Boolean setting as a field value. -/
def onOff (b : Option Bool) : Option Nat := b.map b2n

/-- Registers read by the foreman for a report; RC counters clear (R10). -/
def State.readAll (s : State) : List Nat → List Int × State
  | [] => ([], s)
  | a :: l =>
    let r := s.busRead .foreman a
    let q := r.2.readAll l
    ((r.1.toNat : Int) :: q.1, q.2)

/-- A report of registers and further values. -/
def State.reportOf (s : State) (name : String) (as : List Nat) (vals : List Int) : CmdM CmdOk :=
  let r := s.readAll as
  .ok { st := r.2, report := reportLines name (r.1 ++ vals) }

/-- A command that waits for nothing ends with `ok`. -/
def finish (m : CmdM State) : CmdM CmdOk := do
  let s ← m
  done s

/-- A calibration in progress reads and writes Face f (R364). -/
def State.calHolds (s : State) (f : Nat) : Bool := s.cal.any (fun j => j.f == f)

/-- The AON unit can be written by a command. -/
def State.aonFree (s : State) : CmdM Unit := s.avail .aon 0

/-- A port can be written by a command: on, owned, and in service where the command enables it. -/
def State.portFree (s : State) (p : Fin 16) : CmdM Unit := do
  s.avail (.port p) (portPd p)
  check (!s.calHolds (p / 4)) .busy

/-- A sequencer can be written by a command. -/
def State.seqFree (s : State) (q : Fin 4) : CmdM Unit := s.avail (.seq q) (facePd q)

/-- A Face can be written by a command. -/
def State.faceFree (s : State) (f : Fin 4) : CmdM Unit := do
  s.avail (.face f) (facePd f)
  check (!s.calHolds f) .busy

/-- A Seam can be written by a command. -/
def State.seamFree (s : State) (f : Fin 4) : CmdM Unit := s.avail (.seam f) 4

/-- The Riddle, the Kerfs and the stockpiles can be written by a command. -/
def State.rkFree (s : State) : CmdM Unit := s.avail .rk 4

/-- A unit that a command would enable is in service (R427). -/
def State.inService (s : State) (u : Nat) (on : Bool) : CmdM Unit := check (!(on && s.outOfService u)) .state

end Sys2Proof.Machine
end

