-- ==== Sys2Proof/Machine/CmdAon.lean ====
section
/-!
DEFINITION. The commands `enc` and `trg` (R83).
-/
namespace Sys2Proof.Machine

/-! ### `enc` -/

/-- `enc e<n> mode`. -/
def doEncMode (e : Fin 4) (updown : Option Bool) (edge : Option (Fin 3)) (invert : Option Bool) (s : State) : CmdM CmdOk := do
  s.aonFree
  finish (s.wrF (Adr.encCtrl e) [(2, 1, onOff updown), (4, 3, edge.map Fin.val), (5, 5, onOff invert)])

/-- `CMD_ENC_MODE`. -/
def execCmdEncMode (ch : Chan) (e : Fin 4) (updown : Option Bool) (edge : Option (Fin 3)) (invert : Option Bool) (s : State) : Out :=
  .next (runCmd ch s (doEncMode e updown edge invert))

/-- `enc e<n> minedge glitchlim`. -/
def doEncFilter (e : Fin 4) (minedge glitchlim : Option Qty) (s : State) : CmdM CmdOk := do
  s.aonFree
  let m ← conv minedge (fun q => do within 0 0xFFFFF (← q.time 5))
  let g ← conv glitchlim (fun q => q.count 0 0xFFFF)
  finish (do (← s.wrO (Adr.encMinEdge e) m).wrO (Adr.encGlitchLim e) g)

/-- `CMD_ENC_FILTER`. -/
def execCmdEncFilter (ch : Chan) (e : Fin 4) (minedge glitchlim : Option Qty) (s : State) : Out :=
  .next (runCmd ch s (doEncFilter e minedge glitchlim))

/-- `enc e<n> window standstill`. -/
def doEncSpeed (e : Fin 4) (window standstill : Option Qty) (s : State) : CmdM CmdOk := do
  s.aonFree
  let w ← conv window (fun q => do within 1 0xFFFFF (← q.time 1000))
  let t ← conv standstill (fun q => do within 1 0xFFFFF (← q.time 1000))
  finish (do (← s.wrO (Adr.encWindow e) w).wrO (Adr.encStandstill e) t)

/-- `CMD_ENC_SPEED`. -/
def execCmdEncSpeed (ch : Chan) (e : Fin 4) (window standstill : Option Qty) (s : State) : Out :=
  .next (runCmd ch s (doEncSpeed e window standstill))

/-- `enc e<n> index`. -/
def doEncIndex (e : Fin 4) (period tol : Option Qty) (snap fall : Option Bool) (s : State) : CmdM CmdOk := do
  s.aonFree
  let p ← conv period (fun q => q.count 0 0xFFFFF)
  let t ← conv tol (fun q => q.count 0 0xFFFF)
  finish (do
    let s ← s.wrO (Adr.encIndexPeriod e) p
    let s ← s.wrO (Adr.encIndexTol e) t
    s.wrF (Adr.encCtrl e) [(7, 7, onOff snap), (6, 6, onOff fall)])

/-- `CMD_ENC_INDEX`. -/
def execCmdEncIndex (ch : Chan) (e : Fin 4) (period tol : Option Qty) (snap fall : Option Bool) (s : State) : Out :=
  .next (runCmd ch s (doEncIndex e period tol snap fall))

/-- `enc e<n> preset` (R65): a preset that would be ignored is `busy`. -/
def doEncPreset (e : Fin 4) (counts : Qty) (s : State) : CmdM CmdOk := do
  s.aonFree
  let v ← counts.count 0 (2 ^ 48 - 1)
  check (!s.presetBarred e) .busy
  finish (do
    let s ← s.wr (Adr.encPresetL e) (word16 v 0)
    let s ← s.wr (Adr.encPresetM e) (word16 v 1)
    let s ← s.wr (Adr.encPresetH e) (word16 v 2)
    s.wrB (Adr.encCtrl e) 9 true)

/-- `CMD_ENC_PRESET`. -/
def execCmdEncPreset (ch : Chan) (e : Fin 4) (counts : Qty) (s : State) : Out :=
  .next (runCmd ch s (doEncPreset e counts))

/-- `enc e<n> wake`. -/
def doEncWake (e : Fin 4) (on : Bool) (s : State) : CmdM CmdOk := do
  s.aonFree
  finish (s.wrB (Adr.encCtrl e) 8 on)

/-- `CMD_ENC_WAKE`. -/
def execCmdEncWake (ch : Chan) (e : Fin 4) (on : Bool) (s : State) : Out := .next (runCmd ch s (doEncWake e on))

/-- `enc e<n>`: the report clears the counters. -/
def doEncReport (e : Fin 4) (s : State) : CmdM CmdOk :=
  s.reportOf "enc" [Adr.encPosL e, Adr.encPosM e, Adr.encPosH e, Adr.encSpeed e, Adr.encStatus e, Adr.encGlitchCnt e,
    Adr.encSlipCnt e, Adr.encIfaultCnt e, Adr.encSnapCnt e] []

/-- `CMD_ENC_REPORT`. -/
def execCmdEncReport (ch : Chan) (e : Fin 4) (s : State) : Out := .next (runCmd ch s (doEncReport e))

/-! ### `trg` -/

/-- The origin of a schedule written (R68). -/
def State.setOrigin (s : State) (c : Nat) (o : Option Origin) : CmdM State :=
  match o with
  | none => .ok s
  | some .here => s.wrB (Adr.trgcCtrl c) 2 true
  | some (.at p) => do
    let v ← p.plain 65536 1
    let n ← within 0 (2 ^ 64 - 1) v
    let s ← s.wr (Adr.trgcOrgF c) (word16 n 0)
    let s ← s.wr (Adr.trgcOrgL c) (word16 n 1)
    let s ← s.wr (Adr.trgcOrgM c) (word16 n 2)
    let s ← s.wr (Adr.trgcOrgH c) (word16 n 3)
    s.wrB (Adr.trgcCtrl c) 2 false

/-- `trg e<n> pitch origin reverse`. -/
def doTrgSchedule (c : Fin 4) (pitch : Option Qty) (origin : Option Origin) (rev : Option Bool) (s : State) : CmdM CmdOk := do
  s.aonFree
  let p ← conv pitch (fun q => do within 0x10000 (2 ^ 36 - 1) (← q.plain 65536 1))
  finish (do
    let s ← s.wrO (Adr.trgcPitchInt c) (p.map (· / 65536))
    let s ← s.wrO (Adr.trgcPitchFrac c) (p.map (· % 65536))
    let s ← s.setOrigin c origin
    s.wrF (Adr.trgcCtrl c) [(1, 1, onOff rev)])

/-- `CMD_TRG_SCHEDULE`. -/
def execCmdTrgSchedule (ch : Chan) (c : Fin 4) (pitch : Option Qty) (origin : Option Origin) (rev : Option Bool) (s : State) : Out :=
  .next (runCmd ch s (doTrgSchedule c pitch origin rev))

/-- `trg e<n> on|off`. -/
def doTrgScheduleOnOff (c : Fin 4) (on : Bool) (s : State) : CmdM CmdOk := do
  s.aonFree
  finish (s.wrB (Adr.trgcCtrl c) 0 on)

/-- `CMD_TRG_SCHEDULE_ON_OFF`. -/
def execCmdTrgScheduleOnOff (ch : Chan) (c : Fin 4) (on : Bool) (s : State) : Out :=
  .next (runCmd ch s (doTrgScheduleOnOff c on))

/-- `trg h<n> chan delay minint slab`. -/
def doTrgHead (h : Fin 16) (chan : Option (Fin 4)) (delay minint slab : Option Qty) (s : State) : CmdM CmdOk := do
  s.aonFree
  let d ← conv delay (fun q => do withinI (-8388608) 8388607 (← q.plain 1 1))
  let d := d.map (fun v => (v % 2 ^ 24).toNat)
  let m ← conv minint (fun q => do within 0 0xFFFFF (← q.time 5))
  let n ← conv slab (fun q => q.count 1 8192)
  finish (do
    let s ← s.wrF (Adr.trghCtrl h) [(2, 1, chan.map Fin.val)]
    let s ← s.wrO (Adr.trghDelayL h) (d.map (· % 65536))
    let s ← s.wrO (Adr.trghDelayH h) (d.map (· / 65536))
    let s ← s.wrO (Adr.trghMinInt h) m
    s.wrO (Adr.trghSlab h) (n.map (· - 1)))

/-- `CMD_TRG_HEAD`. -/
def execCmdTrgHead (ch : Chan) (h : Fin 16) (chan : Option (Fin 4)) (delay minint slab : Option Qty) (s : State) : Out :=
  .next (runCmd ch s (doTrgHead h chan delay minint slab))

/-- `trg h<n> on|off`: EN written, SLABSTOP cleared. -/
def doTrgHeadOnOff (h : Fin 16) (on : Bool) (s : State) : CmdM CmdOk := do
  s.aonFree
  finish (s.wrF (Adr.trghCtrl h) [(0, 0, some (b2n on)), (3, 3, some 0)])

/-- `CMD_TRG_HEAD_ON_OFF`. -/
def execCmdTrgHeadOnOff (ch : Chan) (h : Fin 16) (on : Bool) (s : State) : Out :=
  .next (runCmd ch s (doTrgHeadOnOff h on))

/-- `trg h<n> stopatslab`. -/
def doTrgStopatslab (h : Fin 16) (s : State) : CmdM CmdOk := do
  s.aonFree
  finish (s.wrB (Adr.trghCtrl h) 3 true)

/-- `CMD_TRG_STOPATSLAB`. -/
def execCmdTrgStopatslab (ch : Chan) (h : Fin 16) (s : State) : Out := .next (runCmd ch s (doTrgStopatslab h))

/-- The ACTION code and WIDTH of a GPIO event (R80, R82). -/
def gpioAction : GpioAct → CmdM (Nat × Nat)
  | .set => .ok (0, 0)
  | .clear => .ok (1, 0)
  | .pulse w => do return (2, ← within 1 4095 (← w.time 1000))

/-- `trg event gpio<n>` (R80): the event is staged and pushed. -/
def doTrgEvent (pin : Fin 8) (c : Fin 4) (pos : Qty) (act : GpioAct) (lateFire : Bool) (s : State) : CmdM CmdOk := do
  s.aonFree
  let v ← pos.count 0 (2 ^ 48 - 1)
  let a ← gpioAction act
  finish (do
    let s ← s.wr Adr.gpioEvL (word16 v 0)
    let s ← s.wr Adr.gpioEvM (word16 v 1)
    let s ← s.wr Adr.gpioEvH (word16 v 2)
    let s ← s.wr Adr.gpioEvCtrl (BitVec.ofNat 20 (pin.val + 8 * a.1 + 32 * c.val + flagAt lateFire 7 + 256 * a.2))
    s.wr Adr.gpioEvPush 1)

/-- `CMD_TRG_EVENT`. -/
def execCmdTrgEvent (ch : Chan) (pin : Fin 8) (c : Fin 4) (pos : Qty) (act : GpioAct) (lateFire : Bool) (s : State) : Out :=
  .next (runCmd ch s (doTrgEvent pin c pos act lateFire))

/-- `trg event flush`. -/
def doTrgEventFlush (s : State) : CmdM CmdOk := do
  s.aonFree
  finish (s.wr Adr.gpioEvPush 2)

/-- `CMD_TRG_EVENT_FLUSH`. -/
def execCmdTrgEventFlush (ch : Chan) (s : State) : Out := .next (runCmd ch s doTrgEventFlush)

/-- The role fields of SYNC.CTRL: ROLE, NODE, NSLAVE. -/
def syncRoleFields : Option SyncRoleCmd → CmdM (List (Nat × Nat × Option Nat))
  | none => .ok []
  | some .off => .ok [(1, 0, some 0)]
  | some (.master n) => do return [(1, 0, some 1), (3, 2, some 0), (5, 4, some (← n.count 1 3))]
  | some (.slave n) => do return [(1, 0, some 2), (3, 2, some (← n.count 1 3))]

/-- `trg sync` with settings: `off` acts first (R352), LAT is written before the role is taken up. -/
def doTrgSync (role : Option SyncRoleCmd) (chan : Option (Fin 4)) (lat : Option (Option Qty)) (restate : Option Bool) (s : State) : CmdM CmdOk := do
  s.aonFree
  let r ← syncRoleFields role
  let l ← conv (lat.getD none) (fun q => do within 0 4095 (← q.time 5))
  finish (do
    let s ← if role == some .off then s.wrF Adr.syncCtrl r else .ok s
    let s ← s.wrO Adr.syncLat l
    s.wrF Adr.syncCtrl (r ++ [(9, 8, chan.map Fin.val), (7, 7, lat.map (fun x => b2n x.isSome)), (10, 10, onOff restate)]))

/-- `CMD_TRG_SYNC`. -/
def execCmdTrgSync (ch : Chan) (role : Option SyncRoleCmd) (chan : Option (Fin 4)) (lat : Option (Option Qty)) (restate : Option Bool) (s : State) : Out :=
  .next (runCmd ch s (doTrgSync role chan lat restate))

/-- `trg sync lock` (R76): only a master runs the lock sequence. -/
def doTrgSyncLock (s : State) : CmdM CmdOk := do
  s.aonFree
  check (s.syncRole == 1) .state
  finish (s.wrB Adr.syncCtrl 6 true)

/-- `CMD_TRG_SYNC_LOCK`. -/
def execCmdTrgSyncLock (ch : Chan) (s : State) : Out := .next (runCmd ch s doTrgSyncLock)

/-- `trg sync`. -/
def doTrgSyncReport (s : State) : CmdM CmdOk := s.reportOf "trg sync" [Adr.syncCtrl, Adr.syncLat, Adr.syncStatus] []

/-- `CMD_TRG_SYNC_REPORT`. -/
def execCmdTrgSyncReport (ch : Chan) (s : State) : Out := .next (runCmd ch s doTrgSyncReport)

end Sys2Proof.Machine
end

