-- ==== Sys2Proof/Machine/CmdFace.lean ====
section
/-!
DEFINITION. The command `face`: corrections (R147), sources and outputs (R168), and the foreman's DRAM pool (R160).
-/
namespace Sys2Proof.Machine

/-! ### The DRAM pool (R160, R195, R287) -/

/-- Room for a region: inside usable DRAM, over no other allocation. -/
def poolFits (pool : List (Nat × Nat)) (r : Nat × Nat) : Bool :=
  decide (r.1 + r.2 ≤ dramSize) && (bootRegions ++ pool).all (fun p => !clash p r)

/-- A region taken from the pool, as its offset in usable DRAM. Where it lies is a free value; it overlaps no other
allocation. (DESIGN CHOICE, log 110) -/
def State.alloc (s : State) (n : Nat) : CmdM (Nat × State) :=
  let n := poolSize n
  let d := s.draw
  let c := 4096 * (d.1 % (dramSize / 4096))
  match (c :: 0 :: (bootRegions ++ s.pool).map (fun p => poolSize (p.1 + p.2))).find? (fun o => poolFits s.pool (o, n)) with
  | some o => .ok (o, d.2.setPool (d.2.pool ++ [(o, n)]))
  | none => .error .nospace

/-- The allocation that begins at a DRAM address given back. -/
def State.unalloc (s : State) (a : Nat) : State := s.setPool (s.pool.filter (fun p => dramBase + p.1 ≠ a))

/-! ### Tables (R142, R147) -/

/-- The number of a table's bank in its Face. -/
def bankNo (kind ctx idx : Nat) (bank : Bool) : Nat := tblKey kind ctx idx bank 0 / 16384

/-- The contexts that a table of a kind affects. -/
def tblCtxs (kind ctx : Nat) : List Nat := if kind = 2 then [0, 1, 2, 3] else [ctx]

/-- No swap is pending for a table (R147): the selected bank is in effect in every affected context. -/
def State.tblSettled (s : State) (f kind ctx : Nat) : Bool := (tblCtxs kind ctx).all (fun c => s.bankAct f kind c == s.bankSet f kind c)

/-- The greatest value v below 65,536 whose lower bound v − 1/2 a test accepts, by bits from 15 down. -/
def greatest (ok : Nat → Bool) : Nat → Nat → Nat
  | 0, v => v
  | n + 1, v => greatest ok n (if ok (v + 2 ^ n) then v + 2 ^ n else v)

/-- round(65,535 × (i / 1,024)^(1/γ)) for γ = m / q, exactly: the greatest v with
((2v − 1) / 131,070)^m ≤ (i / 1,024)^q. -/
def gammaEntry (m q i : Nat) : Nat :=
  greatest (fun v => decide ((2 * v - 1) ^ m * 1024 ^ q ≤ i ^ q * 131070 ^ m)) 16 0

/-- The kind code of R435 as a table kind of R142. -/
def kindOf : Nat → TblKind
  | 0 => .black | 1 => .flat | 2 => .defect | _ => .tone

/-- The contents that a load or a fill gives a table of a kind (R147); none where the kind does not know the fill. -/
def State.fillEntries (s : State) (kind : Nat) (fl : TblFill) : CmdM (List Word) :=
  match fl with
  | .record n => do
    let r ← s.tblRec (kindOf kind) n
    check (r.payload.length == tblPayload (kindOf kind)) .record
    return recEntries (kindOf kind) r.payload
  | .zero => if kind = 0 || kind = 2 then .ok (List.replicate (tblLen kind) 0) else .error .syntax_
  | .gain g => do
    check (kind == 1) .syntax_
    let v ← within 0 0xFFFFF (← g.plain 65536 1)
    return List.replicate (tblLen kind) (BitVec.ofNat 20 v)
  | .linear =>
    if kind = 3 then .ok ((List.range 1025).map (fun e => BitVec.ofNat 20 (if e = 1024 then 0xFFFF else 64 * e))) else .error .syntax_
  | .gamma g => do
    check (kind == 3) .syntax_
    check (g.u == .none) .unit
    check g.short .syntax_
    check (decide (0 < g.m)) .range
    let d := Nat.gcd g.m.toNat (10 ^ g.e)
    return (List.range 1025).map (fun e =>
      BitVec.ofNat 20 (if e = 1024 then 65535 else gammaEntry (g.m.toNat / d) (10 ^ g.e / d) e))

/-- A bank filled by the foreman. -/
def State.fillBank (s : State) (f no kind : Nat) (fl : TblFill) : CmdM State := do
  let es ← s.fillEntries kind fl
  let s := s.putTblRun f (no * 16384) es
  return s.setFace f { s.face f with src := SMap.set (fun _ => []) (s.face f).src no [.fill fl] }

/-- A load or fill of the bank of a table that is not in use (R147). (DEDUCED, log 111) -/
def State.loadTable (s : State) (f kind ctx idx : Nat) (fl : TblFill) : CmdM State := do
  check (s.tblSettled f kind ctx) .busy
  s.fillBank f (bankNo kind ctx idx (!s.bankSet f kind ctx)) kind fl

/-- A load or fill as a command of its own: a load from a record is long (R364, R382). -/
def State.loadCmd (s : State) (f kind ctx idx : Nat) (fl : TblFill) : CmdM CmdOk := do
  let t ← s.loadTable f kind ctx idx fl
  match fl with
  | .record n => return { st := t, long := some (.table f [nameKey n], .nothing) }
  | _ => done t

/-- A table's other bank selected (R147). -/
def State.swapBank (s : State) (f kind ctx : Nat) : CmdM State := do
  check (s.tblSettled f kind ctx) .busy
  s.wrB (Adr.bankSel f kind) (bankBit kind ctx) (!s.bankSet f kind ctx)

/-- A method code of R127. -/
def methodCode : DefMethod → Nat
  | .mean => 1 | .left => 2 | .right => 3

/-- A defect entry (R127). -/
def defectEntry (c col : Nat) (m : DefMethod) : Nat := c * 2 ^ 18 + col * 16 + 4 * methodCode m

/-- An entry inserted before the first of its context with a higher column; it replaces one of its own column. -/
def insertDefect (c col : Nat) (e : Nat) : List Nat → List Nat
  | [] => [e]
  | x :: l =>
    if bits x 19 18 = c && bits x 17 4 = col then e :: l
    else if bits x 19 18 = c && col < bits x 17 4 then e :: x :: l
    else x :: insertDefect c col e l

/-- A defect entry added to a bank in column order, its entries moved together (R147). (DEDUCED, log 112) -/
def State.addDefect (s : State) (f no c col : Nat) (m : DefMethod) : CmdM State := do
  let es := (List.range 8192).map (fun e => (SMap.get tblBoot (s.face f).tbl (no * 16384 + e)).toNat)
  let l := insertDefect c col (defectEntry c col m) (es.filter (fun e => bits e 3 2 != 0))
  check (decide (l.length ≤ 8192)) .refused
  let s := s.putTblRun f (no * 16384) ((l ++ List.replicate (8192 - l.length) 0).map (BitVec.ofNat 20 ·))
  let ops := SMap.get (fun _ => ([] : List TblOp)) (s.face f).src no
  return s.setFace f { s.face f with src := SMap.set (fun _ => []) (s.face f).src no (ops ++ [.add (Fin.ofNat 4 c) col m]) }

/-! ### Corrections (R147) -/

/-- A list of planes as a mask. -/
def planeMask (l : List Qty) : CmdM Nat := do
  let ps ← convAll (fun q => q.count 0 3) l
  return ps.foldl (fun n p => n ||| 2 ^ p) 0

/-- The mode, planes and delays that a context holds as written are ones that R124 or R134 would refuse.
(DEDUCED, log 113) -/
def State.modeRefused (s : State) (f c : Nat) : Bool :=
  let m := (s.reg (Adr.fctxCmode f c)).toNat
  let p := s.ctxPort f c
  let st := s.ctxStream f c
  let total := others c (fun d => s.alnUsed f d) + s.alnCommit f c (bits m 1 0) (bits m 5 2) (s.reg (Adr.fctxAlign f c)).toNat
  (s.ctxEn f c && !modeFits (bits m 1 0) (s.strDt p st) (s.strWidth p st)) || decide (2097152 < total)

/-- `face f<n> c<n> mode planes align`. -/
def doFaceMode (f c : Fin 4) (mode : Option (Fin 3)) (planes : Option (List Qty)) (align : Option (Qty × Qty × Qty)) (s : State) : CmdM CmdOk := do
  s.faceFree f
  let p ← conv planes planeMask
  let a ← conv align (fun (r, g, b) => do
    return (← r.count 0 63) + 64 * (← g.count 0 63) + 4096 * (← b.count 0 63))
  let cm := Adr.fctxCmode f c
  let w := fields (s.reg cm) [(1, 0, mode.map Fin.val), (5, 2, p)]
  let probe := (s.setReg cm w).setReg (Adr.fctxAlign f c) (fields (s.reg (Adr.fctxAlign f c)) [(17, 0, a)])
  check (!probe.modeRefused f c) .refused
  finish (do
    let s ← s.wrO (Adr.fctxAlign f c) a
    s.wrF cm [(1, 0, mode.map Fin.val), (5, 2, p)])

/-- `CMD_FACE_MODE`. -/
def execCmdFaceMode (ch : Chan) (f c : Fin 4) (mode : Option (Fin 3)) (planes : Option (List Qty)) (align : Option (Qty × Qty × Qty)) (s : State) : Out :=
  .next (runCmd ch s (doFaceMode f c mode planes align))

/-- `face f<n> c<n> black p<p>`. -/
def doFaceBlackOffset (f c p : Fin 4) (ofs : Qty) (s : State) : CmdM CmdOk := do
  s.faceFree f
  let v ← withinI (-524288) 524287 (← ofs.plain 1 1)
  finish (s.wrO (Adr.fctxGlob f c p) (some (v % 2 ^ 20).toNat))

/-- `CMD_FACE_BLACK_OFFSET`. -/
def execCmdFaceBlackOffset (ch : Chan) (f c p : Fin 4) (ofs : Qty) (s : State) : Out :=
  .next (runCmd ch s (doFaceBlackOffset f c p ofs))

/-- `face f<n> c<n> black load|zero`. -/
def doFaceBlackLoad (f c : Fin 4) (src : TblFill) (s : State) : CmdM CmdOk := do
  s.faceFree f
  s.loadCmd f 0 c 0 src

/-- `CMD_FACE_BLACK_LOAD`. -/
def execCmdFaceBlackLoad (ch : Chan) (f c : Fin 4) (src : TblFill) (s : State) : Out :=
  .next (runCmd ch s (doFaceBlackLoad f c src))

/-- `face f<n> c<n> black swap`. -/
def doFaceBlackSwap (f c : Fin 4) (s : State) : CmdM CmdOk := do
  s.faceFree f
  finish (s.swapBank f 0 c)

/-- `CMD_FACE_BLACK_SWAP`. -/
def execCmdFaceBlackSwap (ch : Chan) (f c : Fin 4) (s : State) : Out := .next (runCmd ch s (doFaceBlackSwap f c))

/-- `face f<n> defect load|clear`. -/
def doFaceDefectLoad (f : Fin 4) (src : TblFill) (s : State) : CmdM CmdOk := do
  s.faceFree f
  s.loadCmd f 2 0 0 src

/-- `CMD_FACE_DEFECT_LOAD`. -/
def execCmdFaceDefectLoad (ch : Chan) (f : Fin 4) (src : TblFill) (s : State) : Out :=
  .next (runCmd ch s (doFaceDefectLoad f src))

/-- `face f<n> defect add`. -/
def doFaceDefectAdd (f c : Fin 4) (col : Qty) (m : DefMethod) (s : State) : CmdM CmdOk := do
  s.faceFree f
  let n ← col.count 0 16383
  check (s.tblSettled f 2 0) .busy
  finish (s.addDefect f (bankNo 2 0 0 (!s.bankSet f 2 0)) c n m)

/-- `CMD_FACE_DEFECT_ADD`. -/
def execCmdFaceDefectAdd (ch : Chan) (f c : Fin 4) (col : Qty) (m : DefMethod) (s : State) : Out :=
  .next (runCmd ch s (doFaceDefectAdd f c col m))

/-- `face f<n> defect swap`. -/
def doFaceDefectSwap (f : Fin 4) (s : State) : CmdM CmdOk := do
  s.faceFree f
  finish (s.swapBank f 2 0)

/-- `CMD_FACE_DEFECT_SWAP`. -/
def execCmdFaceDefectSwap (ch : Chan) (f : Fin 4) (s : State) : Out := .next (runCmd ch s (doFaceDefectSwap f))

/-- `face f<n> c<n> dynamic`: on clears BYPASS.DYNAMIC. -/
def doFaceDynamic (f c : Fin 4) (on : Option Bool) (hi lo : Option Qty) (s : State) : CmdM CmdOk := do
  s.faceFree f
  let h ← conv hi (fun q => q.count 0 0xFFFFF)
  let l ← conv lo (fun q => q.count 0 0xFFFFF)
  finish (do
    let s ← s.wrO (Adr.fctxDynHi f c) h
    let s ← s.wrO (Adr.fctxDynLo f c) l
    s.wrF (Adr.fctxCmode f c) [(8, 8, on.map (fun b => b2n (!b)))])

/-- `CMD_FACE_DYNAMIC`. -/
def execCmdFaceDynamic (ch : Chan) (f c : Fin 4) (on : Option Bool) (hi lo : Option Qty) (s : State) : Out :=
  .next (runCmd ch s (doFaceDynamic f c on hi lo))

/-- `face f<n> c<n> flat p<p> load|fill`. -/
def doFaceFlatLoad (f c p : Fin 4) (src : TblFill) (s : State) : CmdM CmdOk := do
  s.faceFree f
  s.loadCmd f 1 c p src

/-- `CMD_FACE_FLAT_LOAD`. -/
def execCmdFaceFlatLoad (ch : Chan) (f c p : Fin 4) (src : TblFill) (s : State) : Out :=
  .next (runCmd ch s (doFaceFlatLoad f c p src))

/-- `face f<n> c<n> flat swap`. -/
def doFaceFlatSwap (f c : Fin 4) (s : State) : CmdM CmdOk := do
  s.faceFree f
  finish (s.swapBank f 1 c)

/-- `CMD_FACE_FLAT_SWAP`. -/
def execCmdFaceFlatSwap (ch : Chan) (f c : Fin 4) (s : State) : Out := .next (runCmd ch s (doFaceFlatSwap f c))

/-- A gain in units of 2⁻¹⁶. -/
def gainVal (g : Qty) : CmdM Nat := do within 0 0xFFFFF (← g.plain 65536 1)

/-- `face f<n> c<n> wb p<p>`. -/
def doFaceWb (f c p : Fin 4) (r g b : Qty) (s : State) : CmdM CmdOk := do
  s.faceFree f
  let x ← gainVal r
  let y ← gainVal g
  let z ← gainVal b
  finish (do
    let s ← s.wrO (Adr.fctxWb f c (3 * p.val)) (some x)
    let s ← s.wrO (Adr.fctxWb f c (3 * p.val + 1)) (some y)
    s.wrO (Adr.fctxWb f c (3 * p.val + 2)) (some z))

/-- `CMD_FACE_WB`. -/
def execCmdFaceWb (ch : Chan) (f c p : Fin 4) (r g b : Qty) (s : State) : Out :=
  .next (runCmd ch s (doFaceWb f c p r g b))

/-- The matrix registers of a context in row order. -/
def matRegs (f c : Nat) : List Nat :=
  [Adr.fctxMat00 f c, Adr.fctxMat01 f c, Adr.fctxMat02 f c, Adr.fctxMat10 f c, Adr.fctxMat11 f c, Adr.fctxMat12 f c,
   Adr.fctxMat20 f c, Adr.fctxMat21 f c, Adr.fctxMat22 f c]

/-- `face f<n> c<n> matrix`: nine coefficients in row order, in units of 2⁻¹⁵. -/
def doFaceMatrix (f c : Fin 4) (m : List Qty) (s : State) : CmdM CmdOk := do
  s.faceFree f
  check (m.length == 9) .syntax_
  let v ← convAll (fun q => do withinI (-524288) 524287 (← q.plain 32768 1)) m
  finish (((matRegs f c).zip v).foldlM (fun s p => s.wr p.1 (BitVec.ofInt 20 p.2)) s)

/-- `CMD_FACE_MATRIX`. -/
def execCmdFaceMatrix (ch : Chan) (f c : Fin 4) (m : List Qty) (s : State) : Out :=
  .next (runCmd ch s (doFaceMatrix f c m))

/-- `face f<n> c<n> tone ch<n> load|linear|gamma`. -/
def doFaceToneLoad (f c : Fin 4) (chn : Fin 3) (src : TblFill) (s : State) : CmdM CmdOk := do
  s.faceFree f
  s.loadCmd f 3 c chn src

/-- `CMD_FACE_TONE_LOAD`. -/
def execCmdFaceToneLoad (ch : Chan) (f c : Fin 4) (chn : Fin 3) (src : TblFill) (s : State) : Out :=
  .next (runCmd ch s (doFaceToneLoad f c chn src))

/-- `face f<n> c<n> tone swap`. -/
def doFaceToneSwap (f c : Fin 4) (s : State) : CmdM CmdOk := do
  s.faceFree f
  finish (s.swapBank f 3 c)

/-- `CMD_FACE_TONE_SWAP`. -/
def execCmdFaceToneSwap (ch : Chan) (f c : Fin 4) (s : State) : Out := .next (runCmd ch s (doFaceToneSwap f c))

/-- The bit of a stage in BYPASS (R140). -/
def stageBit : Stage → Nat
  | .black => 0 | .static => 1 | .dynamic => 2 | .flat => 3 | .wb => 4 | .matrix => 5 | .tone => 6

/-- `face f<n> c<n> bypass`: the stages named are bypassed, the others are not. -/
def doFaceBypass (f c : Fin 4) (st : List Stage) (s : State) : CmdM CmdOk := do
  s.faceFree f
  finish (s.wrF (Adr.fctxCmode f c) [(12, 6, some (st.foldl (fun n x => n ||| 2 ^ stageBit x) 0))])

/-- `CMD_FACE_BYPASS`. -/
def execCmdFaceBypass (ch : Chan) (f c : Fin 4) (st : List Stage) (s : State) : Out :=
  .next (runCmd ch s (doFaceBypass f c st))

/-- `face f<n>`: the report clears the RC counters of the corrections. -/
def doFaceReport (f : Fin 4) (s : State) : CmdM CmdOk := do
  check (s.on (facePd f)) .state
  s.reportOf "face" ([Adr.faceStatusCfgerr f, Adr.faceBlkSel f, Adr.faceFlatSel f, Adr.faceDefSel f, Adr.faceToneSel f,
    Adr.faceDefOrder f, Adr.faceAlnUsed f] ++ (List.range 4).flatMap (fun c => [Adr.fctxCmode f c, Adr.fctxAlign f c,
    Adr.fctxDynCnt f c, Adr.fctxPlaneDrop f c, Adr.fctxWarm f c, Adr.fctxModeErr f c])) []

/-- `CMD_FACE_REPORT`. -/
def execCmdFaceReport (ch : Chan) (f : Fin 4) (s : State) : Out := .next (runCmd ch s (doFaceReport f))

/-! ### Sources and outputs (R168) -/

/-- The slab length of a head as written (R41). -/
def State.slabSet (s : State) (h : Nat) : Nat := s.fld (Adr.trghSlab h) 12 0 + 1

/-- A DRAM address written to its two base registers. -/
def State.setBase (s : State) (l h a : Nat) : CmdM State := do
  let s ← s.wr l (BitVec.ofNat 20 (a / 4096))
  s.wr h (BitVec.ofNat 20 (a / 2 ^ 32 % 256))

/-- `face f<n> c<n> source`: SRC and the spool, which `spool` places in the pool. -/
def doFaceSource (f c : Fin 4) (p : Fin 16) (img1 inline : Bool) (slabs lines : Option Qty) (stock : Option Bool) (s : State) : CmdM CmdOk := do
  s.faceFree f
  check (p.val / 4 == f.val) .range
  check (!inline || (slabs.isNone && lines.isNone)) .syntax_
  let n ← conv slabs (fun q => q.count 1 64)
  let l ← conv lines (fun q => q.count 1 8192)
  check (!s.ctxEn f c) .busy
  finish (do
    let old := s.dramAddr (Adr.fsrcSpoolBaseL f c) (Adr.fsrcSpoolBaseH f c)
    let s ← s.wrF (Adr.fsrcSrc f c) [(1, 1, some (b2n inline)), (3, 2, some (p.val % 4)), (4, 4, some (b2n img1)), (5, 5, onOff stock)]
    let s ← s.wrF (Adr.fsrcSpool f c) [(6, 0, n), (19, 7, l.map (· - 1))]
    check (inline || decide (s.slabSet p ≤ s.spoolLines f c)) .refused
    let s := s.unalloc old
    let s ← if inline then .ok s else do
      let r ← s.alloc (s.spoolRegion f c).2
      r.2.setBase (Adr.fsrcSpoolBaseL f c) (Adr.fsrcSpoolBaseH f c) (dramBase + r.1)
    check (!s.enableRefused f c) .refused
    return s)

/-- `CMD_FACE_SOURCE`. -/
def execCmdFaceSource (ch : Chan) (f c : Fin 4) (p : Fin 16) (img1 inline : Bool) (slabs lines : Option Qty) (stock : Option Bool) (s : State) : Out :=
  .next (runCmd ch s (doFaceSource f c p img1 inline slabs lines stock))

/-- `face f<n> c<n> on|off`: EN; an enable that R148 refuses, or one with a spool shorter than the slab, is refused. -/
def doFaceCtxOnOff (f c : Fin 4) (on : Bool) (s : State) : CmdM CmdOk := do
  s.faceFree f
  s.inService (0x10 + f.val) on
  check (!(on && !s.ctxEn f c && s.enableRefused f c)) .refused
  finish (s.wrB (Adr.fsrcSrc f c) 0 on)

/-- `CMD_FACE_CTX_ON_OFF`. -/
def execCmdFaceCtxOnOff (ch : Chan) (f c : Fin 4) (on : Bool) (s : State) : Out :=
  .next (runCmd ch s (doFaceCtxOnOff f c on))

/-- `face f<n> c<n> mv`. -/
def doFaceMv (f c : Fin 4) (planes : Option (List Qty)) (bits16 : Option Bool) (s : State) : CmdM CmdOk := do
  s.faceFree f
  let p ← conv planes planeMask
  finish (s.wrF (Adr.fsrcMv f c) [(3, 0, p), (4, 4, onOff bits16)])

/-- `CMD_FACE_MV`. -/
def execCmdFaceMv (ch : Chan) (f c : Fin 4) (planes : Option (List Qty)) (bits16 : Option Bool) (s : State) : Out :=
  .next (runCmd ch s (doFaceMv f c planes bits16))

/-- The code of a scale factor (R167). -/
def scaleCode (q : Qty) : CmdM Nat := do
  let v ← q.count 1 16
  match [1, 2, 4, 8, 16].idxOf? v with
  | some i => .ok i
  | none => .error .range

/-- The code of both scale factors, SX in the low bits. -/
def scaleCodes (p : Qty × Qty) : CmdM Nat := do return (← scaleCode p.1) + 8 * (← scaleCode p.2)

/-- `face f<n> c<n> disp`: EN is set unless `off` is given; a setting that R163 would refuse is refused. -/
def doFaceDisp (f c : Fin 4) (plane : Option Qty) (scale : Option (Qty × Qty)) (overlay : Option Bool)
    (delay : Option Qty) (off : Bool) (s : State) : CmdM CmdOk := do
  s.faceFree f
  let p ← conv plane (fun q => q.count 0 3)
  let x ← conv scale scaleCodes
  let n ← conv delay (fun q => q.count 0 255)
  let l := [(0, 0, some (b2n (!off))), (2, 1, p), (8, 3, x), (9, 9, onOff overlay)]
  let d := fields (s.reg (Adr.fsrcDisp f c)) l
  let total := others c (fun e => s.dlyUsed f e)
    + s.dlyCommit f c (s.fld (Adr.fctxCmode f c) 1 0) d.toNat (n.getD (s.fld (Adr.fsrcDispDly f c) 7 0))
  check (decide (total ≤ 524288)) .refused
  finish (do
    let s ← s.wrO (Adr.fsrcDispDly f c) n
    s.wrF (Adr.fsrcDisp f c) l)

/-- `CMD_FACE_DISP`. (DEDUCED, log 114) -/
def execCmdFaceDisp (ch : Chan) (f c : Fin 4) (plane : Option Qty) (scale : Option (Qty × Qty)) (overlay : Option Bool)
    (delay : Option Qty) (off : Bool) (s : State) : Out :=
  .next (runCmd ch s (doFaceDisp f c plane scale overlay delay off))

/-- `face f<n> c<n> code`: EN is set unless `off` is given. -/
def doFaceCode (f c : Fin 4) (plane : Option Qty) (scale : Option (Qty × Qty)) (off : Bool) (s : State) : CmdM CmdOk := do
  s.faceFree f
  let p ← conv plane (fun q => q.count 0 3)
  let x ← conv scale scaleCodes
  finish (s.wrF (Adr.fsrcCode f c) [(0, 0, some (b2n (!off))), (2, 1, p), (8, 3, x)])

/-- `CMD_FACE_CODE`. -/
def execCmdFaceCode (ch : Chan) (f c : Fin 4) (plane : Option Qty) (scale : Option (Qty × Qty)) (off : Bool) (s : State) : Out :=
  .next (runCmd ch s (doFaceCode f c plane scale off))

/-- The overlay colour register of a class. -/
def ovlReg (f : Nat) : CandClass → Nat
  | .linear => Adr.faceOvlCol0 f | .grid => Adr.faceOvlCol1 f | .dot => Adr.faceOvlCol2 f

/-- `face f<n> overlay`. -/
def doFaceOverlay (f : Fin 4) (cls : CandClass) (r g b : Qty) (s : State) : CmdM CmdOk := do
  s.faceFree f
  let x ← r.count 0 63
  let y ← g.count 0 63
  let z ← b.count 0 63
  finish (s.wrO (ovlReg f cls) (some (4096 * x + 64 * y + z)))

/-- `CMD_FACE_OVERLAY`. -/
def execCmdFaceOverlay (ch : Chan) (f : Fin 4) (cls : CandClass) (r g b : Qty) (s : State) : Out :=
  .next (runCmd ch s (doFaceOverlay f cls r g b))

/-- `face f<n> c<n>`: the report clears the RC counters of the source. -/
def doFaceCtxReport (f c : Fin 4) (s : State) : CmdM CmdOk := do
  check (s.on (facePd f)) .state
  s.reportOf "face c" [Adr.fsrcSrc f c, Adr.fsrcSpool f c, Adr.fsrcSpoolBaseL f c, Adr.fsrcSpoolBaseH f c, Adr.fsrcMv f c,
    Adr.fsrcDisp f c, Adr.fsrcCode f c, Adr.fsrcDispDly f c, Adr.fsrcUsed f c, Adr.fsrcDrop f c, Adr.fsrcInlOvf f c,
    Adr.fsrcTrunc f c, Adr.fsrcStall f c] []

/-- `CMD_FACE_CTX_REPORT`. -/
def execCmdFaceCtxReport (ch : Chan) (f c : Fin 4) (s : State) : Out := .next (runCmd ch s (doFaceCtxReport f c))

end Sys2Proof.Machine
end

