-- ==== Sys2Proof/Machine/Owned.lean ====
section
/-!
DEFINITION. The blocks that the foreman owns (R376): the foreman's own writes, the enables that a load clears, and the return
to reset values (R379).
-/
namespace Sys2Proof.Machine

/-- A register written by the foreman. -/
def State.poke (s : State) (a : Nat) (w : Word) : State := (busWrite .foreman a w s).stateOr s

/-- One bit of a register written by the foreman, the others as they stand. -/
def State.pokeBit (s : State) (a i : Nat) (b : Bool) : State := s.poke a (putBits (s.reg a) i i (b2n b))

/-- Every register of a block, with its address. -/
def BlockDesc.all (b : BlockDesc) : List (Nat × Hit) :=
  (List.range b.i1.1).flatMap (fun i => (List.range b.i2.1).flatMap (fun j => b.regs.flatMap (fun d =>
    (List.range d.arr.1).map (fun k => (b.base + i * b.i1.2 + j * b.i2.2 + d.off + k * d.arr.2, (⟨b.id, i, j, k, d⟩ : Hit))))))

/-- The enable that a register holds (R379), as a bit range; for SYNC the role, for PCIE both enables. -/
def Hit.enable (h : Hit) : Option (Nat × Nat) :=
  match h.blk with
  | .trgc | .trgh | .seq | .stock => if h.desc.name = "CTRL" then some (0, 0) else none
  | .port | .fsrc | .seam | .kerf | .riddle => if h.desc.off = 0 then some (0, 0) else none
  | .sync => if h.desc.off = 0 then some (1, 0) else none
  | .pcie => if h.desc.off = 0 then some (1, 0) else if h.desc.off = 0x100 then some (0, 0) else none
  | _ => none

/-- The registers that hold an enable, with their bit ranges. -/
def enableRegs : List (Nat × Nat × Nat) :=
  RegMap.blocks.flatMap (fun b => b.all.filterMap (fun p => p.2.enable.map (fun r => (p.1, r))))

/-- Every enable cleared (R379, step 1). -/
def State.clearEnables (s : State) : State :=
  enableRegs.foldl (fun s p => if bits (s.reg p.1).toNat p.2.1 p.2.2 = 0 then s else s.poke p.1 (putBits (s.reg p.1) p.2.1 p.2.2 0)) s

/-- Blocks that take their reset values whole: those that `own` can release (R376). -/
def ownBlock : BlockId → Bool
  | .enc | .trgc | .trgh | .gpio | .sync | .port | .face | .fctx | .fsrc | .seq | .seam | .sctx | .riddle | .kerf | .stock => true
  | _ => false

/-- An address lies in a block that takes its reset values whole; the patch area and the place in BENCHES of a leased bench
stay as they are. -/
def State.returns (s : State) (a : Nat) : Bool :=
  match RegMap.find a with
  | some h => ownBlock h.blk && !(h.blk == .riddle && decide (0x600 ≤ h.desc.off) && (s.bench h.k).leased)
  | none => false

/-- Benches that a load leaves out of RIDDLE.BENCHES: leased ones and retired ones (R379, R427). -/
def State.benchesAway (s : State) : Nat :=
  (List.range 8).foldl (fun n b => if (s.bench b).leased || s.retired b then n + 2 ^ b else n) 0

/-- The settings of the host link and of power as reset leaves them: ring bases, sizes and enables, wake sources, THROT. -/
def hostPowerRegs : List Nat :=
  [Adr.pcieCtrl, Adr.pcieMirBaseL, Adr.pcieMirBaseH, Adr.pcieResBaseL, Adr.pcieResBaseH, Adr.pcieResSize, Adr.pciePayBaseL,
   Adr.pciePayBaseH, Adr.pciePaySize, Adr.pwrWake, Adr.pwrThermCtrl]
  ++ (List.range 48).flatMap (fun r => [Adr.pcieStreamCtrlEn r, Adr.pcieStreamBaseL r, Adr.pcieStreamBaseH r, Adr.pcieStreamSize r])

/-- Every owned block at its reset value, every table at its Boot contents, every firmware setting at its reset value with its
counts kept, every switchable domain on, and the pool given back but for the buffers of leased benches (R379, step 2).
(DEDUCED, log 130) -/
def State.resetOwned (s : State) : State :=
  let s := s.writePwrReq 0xFF
  let s := { s with
    regs := s.regs.filter (fun e => !s.returns e.1), act := s.act.filter (fun e => !s.returns e.1),
    latch := s.latch.filter (fun e => !s.returns (e.1 % 2 ^ 40)),
    encs := [], scheds := [], heads := [], seqs := [], sync := {}, gpio := { pins := s.gpio.pins }, ports := [], faces := [], fctxs := [],
    sctxs := [], seamLast := [], stocks := [], closings := [], riddle := {}, kerfs := [], cal := [],
    pool := s.pool.filter (fun p => (List.range 8).any (fun b => (s.bench b).leased && (s.bench b).buf == some (dramBase + p.1))) }
  let s := s.setReg Adr.riddleBenches (BitVec.ofNat 20 (255 ^^^ s.benchesAway))
  let s := upTo 8 (fun k s => if s.outOfService (0x20 + k) then s.setReg (Adr.kerfCtrlEn k) 0 else s) s
  let s := hostPowerRegs.foldl (fun s a => s.setReg a (RegMap.reset a)) s
  let s := upTo 8 (fun b s =>
    if (s.bench b).leased then s
    else s.setBench b { s.bench b with
      order := [], tq := (s.bench b).tq.map (fun e => (e.1, if e.2.st == .free then e.2 else { stale := true })) }) s
  let fw0 : FwSet := {}
  s.setFw ((List.range 12).foldl (fun (f : FwSet) i =>
    f.setSym i { f.sym i with reads := (s.fw.sym i).reads, noreads := (s.fw.sym i).noreads }) fw0)

end Sys2Proof.Machine
end

