-- ==== Sys2Proof/Machine/Spoil.lean ====
section
/-!
DEFINITION. The handling of Spoil entries (R421 to R431): reports, repetitions, units taken out of service, bench restarts.
-/
namespace Sys2Proof.Machine

/-! ### Benches (R287, R289, R426) -/

/-- `n` cycles of the hewers of a bench. -/
def State.cyclesOf (s : State) (b : Nat) : Nat → State
  | 0 => s
  | n + 1 => State.cyclesOf (upTo 8 (fun h s => (hewerCycle (8 * b + h) s).stateOr s) s) b n

/-- The hewers of a bench halted and reset (R282): pending branch delay bundles issue, accesses already issued are performed,
results are dropped. Twelve cycles pass in which all of that happens; a hewer whose delay bundles go on branching stops
then. (DEDUCED, log 158) -/
def State.haltReset (s : State) (b : Nat) : State :=
  let s := upTo 8 (fun h s => (s.clearRun (8 * b + h)).setCore (8 * b + h) ((s.core (8 * b + h)).setRun false false)) s
  let s := s.cyclesOf b 12
  upTo 8 (fun h s => s.setCore (8 * b + h)
    { (s.core (8 * b + h)).reset (s.fld (Adr.benchStart b h) 14 0) with fwOff := false }) s

/-- A bench taken from the Riddle, its hewers halted and reset, its ECC unit released, its DMA channels stopped, its
ticket-queue entries freed (R287, R426). -/
def State.clearBench (s : State) (b : Nat) : State :=
  let s := s.pokeBit Adr.riddleBenches b false
  let s := s.haltReset b
  let s := upTo 9 (fun c s => s.setFlag (Adr.benchDmaStat b c) 0 false) s
  let k := s.bench b
  s.setBench b { k with
    eccOwner := 0, order := [],
    tq := k.tq.map (fun e => (e.1, if e.2.st == .free then e.2 else { stale := true })) }

/-! ### Units out of service (R427) -/

/-- The units of a domain whose regulator tripped (R403). -/
def domainUnits (d : Nat) : List Nat :=
  if d = 2 then [0, 1, 2, 3, 4, 5, 6, 7, 0x10, 0x11]
  else if d = 3 then [8, 9, 10, 11, 12, 13, 14, 15, 0x12, 0x13]
  else if d = 4 then [0x18, 0x19, 0x1A, 0x1B, 0x1C, 0x20, 0x21, 0x22, 0x23, 0x24, 0x25, 0x26, 0x27, 0x28]
  else if d = 5 then [0x30, 0x31, 0x32, 0x33]
  else if d = 6 then [0x34, 0x35, 0x36, 0x37]
  else []

/-- A flash area that cannot be read (R427, R434): the image or set is absent; of the calibration records, whose places
the manual does not fix, the copy of some record. (DESIGN CHOICE, log 98) -/
def State.flashLost (s : State) (off : Nat) : State :=
  let f := s.flash
  if 0x10000 ≤ off && off < 0x410000 then s.setFlash { f with imgA := { f.imgA with ok := false } }
  else if 0x410000 ≤ off && off < 0x810000 then s.setFlash { f with imgB := { f.imgB with ok := false } }
  else if 0x810000 ≤ off && off < 0x1410000 then
    let d := s.draw
    let i := d.1 % max 1 f.recs.length
    let first := decide (off < 0xE10000)
    d.2.setFlash { f with
      recs := f.recs.zipIdx.map (fun r =>
        if r.2 = i then (if first then { r.1 with ok1 := false } else { r.1 with ok2 := false }) else r.1) }
  else if 0x1410000 ≤ off && off < 0x1C10000 then
    let n := (off - 0x1410000) / 0x80000
    match SMap.get (fun _ => (none : Option CfgSet)) f.sets n with
    | some c => s.setFlash { f with sets := SMap.set (fun _ => none) f.sets n (some { c with readable := false }) }
    | none => s
  else s

/-- Flash at an offset failed twice (R359, R424): a long command that writes there, or loads the set there, is answered with
`flash`, and what it changed stands again as before; a load leaves every enable clear (R379). -/
def State.flashFailed (s : State) (read : Bool) (off : Nat) : State :=
  upTo 10 (fun ch s =>
    match (s.chan ch).long with
    | some (.work w _ _ u) =>
      if u.reads != read || !u.covers off then s
      else
        let s := if u.reads then s.clearEnables else s.undo u
        s.setChan ch { s.chan ch with long := some (.work w [s.errLine .flash] true .nothing) }
    | _ => s) s

/-- One unit taken out of service (R427): its enables are cleared and it is listed. -/
def State.takeOut (s : State) (u : Nat) : State :=
  let s :=
    if u < 0x10 then s.pokeBit (Adr.portCtrl u) 0 false
    else if u < 0x14 then upTo 4 (fun c s => s.pokeBit (Adr.fsrcSrc (u - 0x10) c) 0 false) s
    else if 0x18 ≤ u && u < 0x1C then s.pokeBit (Adr.seamCtrl (u - 0x18)) 0 false
    else if u = 0x1C || u = 0x28 then s.poke Adr.riddleCtrlEn 0
    else if 0x20 ≤ u && u < 0x28 then s.poke (Adr.kerfCtrlEn (u - 0x20)) 0
    else if 0x30 ≤ u && u < 0x38 then s.pokeBit Adr.riddleBenches (u - 0x30) false
    else s
  let listed := u < 0x14 || (0x18 ≤ u && u < 0x1D) || (0x20 ≤ u && u < 0x29) || (0x30 ≤ u && u < 0x38)
  if listed && !s.outOfService u then s.setSpoil { s.spoil with out := s.spoil.out ++ [BitVec.ofNat 8 u] } else s

/-- What a lasting outcome of a class does (R403, R427, R428); a DRAM_UE takes nothing out of service.
(DEDUCED, log 96) (DEDUCED, log 97) -/
def State.lasting (s : State) (e : SpoilEnt) : State :=
  let u := e.unit_.toNat
  match e.cls with
  | .dramUe => s
  | .pwrOc => (domainUnits (u - 0x50)).foldl State.takeOut s
  | .flashRead => (s.flashLost (e.detail.toNat % 2 ^ 28)).flashFailed true (e.detail.toNat % 2 ^ 28)
  | .flashWrite => s.flashFailed false (e.detail.toNat % 2 ^ 28)
  | .fabric | .parity => if 0x40 ≤ u && u ≤ 0x42 then s.enterReset 6 else s.takeOut u
  | _ => s.takeOut u

/-! ### Handling (R424, R425, R429) -/

/-- The unit of R376 that a UNIT code belongs to. -/
def ownUnitOf (u : Nat) : Option OwnUnit :=
  if u < 0x10 then some (.port (Fin.ofNat 16 u))
  else if u < 0x14 then some (.face (Fin.ofNat 4 (u - 0x10)))
  else if 0x18 ≤ u && u < 0x1C then some (.seam (Fin.ofNat 4 (u - 0x18)))
  else if u = 0x1C || (0x20 ≤ u && u ≤ 0x28) then some .rk
  else if 0x48 ≤ u && u ≤ 0x4C then some .aon
  else none

/-- The domain that a UNIT code lies in. -/
def unitPd (u : Nat) : Nat :=
  if u < 0x10 then portPd u
  else if u < 0x14 then facePd (u - 0x10)
  else if 0x18 ≤ u && u < 0x29 then 4
  else if 0x30 ≤ u && u < 0x38 then benchPd (u - 0x30)
  else 0

/-- The fourth transient outcome of a class and unit within 10 s counts as lasting (R425). -/
def State.fourth (s : State) (e : SpoilEnt) (o : SpoilOutcome) : SpoilOutcome :=
  let recent := s.spoil.transients.filter (fun t => t.1 == e.cls && t.2.1 == e.unit_ && decide (s.since t.2.2 ≤ 10000 * msT))
  if o == .transient && decide (3 ≤ recent.length) then .lasting else o

/-- The entry at an index replaced. -/
def State.setSpoilEnt (s : State) (i : Nat) (e : SpoilEnt) : State :=
  s.setSpoil { s.spoil with ents := s.spoil.ents.set i e }

/-- An entry comes to its end with an outcome (R429): the event, STATE handled, and what a lasting outcome does where
`act` allows it. -/
def State.finishEnt (s : State) (i : Nat) (e : SpoilEnt) (o : SpoilOutcome) (act : Bool) : State :=
  let e := { e with out := o, st := .handled }
  let s := s.setSpoilEnt i e
  let s := if o == .transient then s.setSpoil { s.spoil with transients := s.spoil.transients ++ [(e.cls, e.unit_, s.time)] } else s
  let s := s.raise (.fault e.cls e.unit_ o e.rep)
  if o == .lasting && act then s.lasting e else s

/-- The hardware's outcome, or logged where the entry has none (R429). -/
def SpoilEnt.hardware (e : SpoilEnt) : SpoilOutcome :=
  if e.out == .transient || e.out == .lasting then e.out else .logged

/-- The enables of a unit, as its registers and bits (R424). -/
def unitEnables (u : Nat) : List Nat :=
  if u < 0x10 then [Adr.portCtrl u]
  else if u < 0x14 then (List.range 4).map (Adr.fsrcSrc (u - 0x10))
  else if 0x18 ≤ u && u < 0x1C then [Adr.seamCtrl (u - 0x18)]
  else if u = 0x1C then [Adr.riddleCtrlEn]
  else if 0x20 ≤ u && u < 0x28 then [Adr.kerfCtrlEn (u - 0x20)]
  else if u = 0x28 then (List.range 64).map (fun i => Adr.stockCtrl (i / 4) (i % 4))
  else []

/-- A unit restart (R424): the enables are cleared and, where the read-back matches, restored. -/
def State.restartUnit (s : State) (u : Nat) (ok : Bool) : State :=
  let on := (unitEnables u).filter (fun a => s.flag a 0)
  let s := on.foldl (fun s a => s.pokeBit a 0 false) s
  if ok then on.foldl (fun s a => s.pokeBit a 0 true) s else s

/-- A bench restart begins (R426): the entry stays in hand. -/
def State.restartBench (s : State) (i : Nat) (e : SpoilEnt) (b : Nat) : State :=
  let was := (s.reg Adr.riddleBenches).toNat.testBit b
  let s := (s.setSpoilEnt i { e with st := .inhand }).clearBench b
  s.setBench b { s.bench b with restart := some was }

/-- A firmware repetition with its result (R424, R425). -/
def State.repeated (s : State) (i : Nat) (e : SpoilEnt) (ok : Bool) : State :=
  s.finishEnt i e (s.fourth e (if ok then .transient else .lasting)) true

/-- A unit that a firmware repetition can restart (R424). -/
def restartable (u : Nat) : Bool := u < 0x14 || (0x18 ≤ u && u < 0x1D) || (0x20 ≤ u && u < 0x29)

/-- An entry taken in hand (R429): a released unit is neither repeated nor taken out of service, a leased bench only
retired by FABRIC, a lasting DRAM_UE and PWR_OC, a unit of a domain that is off not repeated (R407). -/
def State.handleEnt (s : State) (i : Nat) (e : SpoilEnt) (retryOk : Bool) : State :=
  let u := e.unit_.toNat
  let bench := 0x30 ≤ u && u < 0x38
  let leased := bench && (s.bench (u - 0x30)).leased
  let released := match ownUnitOf u with
    | some x => s.isReleased x
    | none => false
  if released then s.finishEnt i e e.hardware false
  else
    match retryOf e.cls with
    | .none_ => if e.cls == .pwrOc then s.finishEnt i e .lasting true else s.finishEnt i e .logged false
    | .hardware =>
      let o := s.fourth e e.hardware
      let s := s.finishEnt i e o true
      if leased && e.cls == .dramUe && o == .lasting then s.takeOut u else s
    | .firmware =>
      if leased && (e.cls == .parity || e.cls == .hang) then s.finishEnt i e .logged false
      else if !s.on (unitPd u) then s.finishEnt i e .logged false
      else if bench then s.restartBench i e (u - 0x30)
      else if e.cls == .parity then
        if restartable u then (s.restartUnit u retryOk).repeated i e retryOk
        else if 0x40 ≤ u && u ≤ 0x42 then s.finishEnt i e .lasting true
        else s.finishEnt i e .logged false
      else if e.cls == .otp then s.finishEnt i e .logged false
      else s.repeated i e retryOk

/-- `SPOIL_HANDLE` (R429): the oldest entry not handled is taken in hand, one recovery at a time. -/
def execSpoilHandle (retryOk : Bool) (s : State) : Out :=
  if !s.inRun then .next s
  else
    match s.spoil.ents.zipIdx.find? (fun e => e.1.st != .handled) with
    | some (e, i) => .next (if e.st == .new then s.handleEnt i e retryOk else s)
    | none => .next s

/-! ### Bench restarts (R426) -/

/-- The end of a bench restart: passed, the bench's bit is set again; else the bench is retired. -/
def State.endRestart (s : State) (b : Nat) (pass : Bool) : State :=
  match (s.bench b).restart, s.spoil.ents.zipIdx.find? (fun e => e.1.st == .inhand && e.1.unit_.toNat == 0x30 + b) with
  | some was, some (e, i) =>
    let s := s.setBench b { s.bench b with restart := none }
    let o := if e.out == .lasting then .lasting else s.fourth e (if pass then .transient else .lasting)
    let s := s.finishEnt i e o true
    if o == .lasting then s else if was then s.pokeBit Adr.riddleBenches b true else s
  | _, _ => s

/-- `BENCH_RESTART_DONE` (R426). -/
def execBenchRestartDone (b : Fin 8) (pass : Bool) (s : State) : Out := .next (s.endRestart b pass)

/-- A restart that a further report of its class and unit abandoned (R425). -/
def State.abandon (s : State) : State :=
  upTo 8 (fun b s =>
    if (s.bench b).restart.isSome && s.spoil.ents.any (fun e => e.st == .inhand && e.unit_.toNat == 0x30 + b && e.out == .lasting) then
      s.endRestart b false
    else s) s

/-! ### Reports (R421 to R423) -/

/-- The outcome a report carries (R423): hardware classes say how their own repetition went, PWR_OC is lasting. -/
def reportOutcome (cls : SpoilClass) (out : SpoilOutcome) : SpoilOutcome :=
  match cls with
  | .dramUe | .fabric => if out == .transient then .transient else .lasting
  | .pwrOc => .lasting
  | _ => .pending

/-- A lasting fault in FAB, PCI or MEMC (R26, R427): FABRIC that the hardware's repetition did not mend, or PARITY, for which
no restart of these units exists (R424). -/
def lastingIsland (cls : SpoilClass) (u : Nat) (out : SpoilOutcome) : Bool :=
  decide (0x40 ≤ u) && decide (u ≤ 0x42) && ((cls == .fabric && out == .lasting) || cls == .parity)

/-- `SPOIL_REPORT` (R422). In Boot, where the foreman handles no entry yet, a lasting fault in FAB, PCI or MEMC enters Reset
at once (R26). -/
def execSpoilReport (cls : SpoilClass) (unit : BitVec 8) (out : SpoilOutcome) (detail : BitVec 80) (s : State) : Out :=
  if !s.powered then .next s
  else
    let o := reportOutcome cls out
    let t := (s.spoilAdd cls unit.toNat o detail.toNat).abandon
    .next (if s.pw.st == .boot && lastingIsland cls unit.toNat o then t.enterReset 6 else t)

/-- The ticket that a hewer of a bench holds in DECODE 1 ms after its deadline (R426). -/
def State.hung (s : State) (k : Nat) : Option (Nat × Entry) :=
  s.entries.find? (fun p => p.2.st == .decode && p.2.hewer == k && decide (p.2.deadline.toNat + msT ≤ s.tm.toNat))

/-- `HANG_DETECT` (R426): DETAIL holds the hewer, its PC, which the firmware determines, and the ticket's entry.
(DESIGN CHOICE, log 99) -/
def execHangDetect (b h : Fin 8) (s : State) : Out :=
  if !s.inRun || (s.bench b).leased then .next s
  else
    match s.hung (8 * b.val + h.val) with
    | none => .next s
    | some (i, _) =>
      let d := s.draw
      .next (d.2.spoilAdd .hang (0x30 + b.val) .pending (h.val + 8 * (d.1 % 32768) + 2 ^ 18 * i)).abandon

end Sys2Proof.Machine
end

