-- ==== Sys2Proof/Machine/CmdBench.lean ====
section
/-!
DEFINITION. The commands `bench` and `hewer` (R287 to R290) and `mbx` (R347).
-/
namespace Sys2Proof.Machine

/-! ### `bench` -/

/-- The boxes of a bench: its eight hewer boxes and its bench box (R333). -/
def benchBoxes (b : Nat) : List Nat := (List.range 8).map (8 * b + ·) ++ [64 + b]

/-- Both queues of the bench's boxes emptied and their wedges freed (R339). -/
def State.clearBoxes (s : State) (b : Nat) : State := (benchBoxes b).foldl State.clearBox s

/-- The registers that a return restores: patch area and ECC settings (R289). -/
def leaseRegs (b : Nat) : List Nat :=
  [Adr.riddleParea b, Adr.riddlePslot b, Adr.benchEccCfg b, Adr.benchEccPoly b, Adr.benchEccAlpha b, Adr.benchEccLen b,
   Adr.benchEccCw b, Adr.benchEccEra b, Adr.benchEccNera b]

/-- `lease` and `return` write the bench and RIDDLE.BENCHES (R287, R289): its domain is on, the Riddle is not released (R377), no
long command works on either (R364). -/
def State.leaseFree (s : State) (b : Fin 8) : CmdM Unit := do
  check (s.on (benchPd b)) .state
  check (!s.isReleased .rk) .owned
  s.clear (.unit .rk)
  s.clear (.bench b)

/-- `bench b<n> lease` (R287): refused for a bench that is retired or leased, or the last one in RIDDLE.BENCHES. -/
def doBenchLease (b : Fin 8) (s : State) : CmdM CmdOk := do
  s.leaseFree b
  check (!s.retired b && !(s.bench b).leased && (s.bench b).restart.isNone) .state
  check (putBits (s.reg Adr.riddleBenches) b b 0 != 0) .state
  let saved := (leaseRegs b).map s.reg
  let s := (s.clearBench b).clearBoxes b
  let r ← s.alloc leaseSize
  let s := r.2.setBench b { r.2.bench b with leased := true, buf := some (dramBase + r.1), saved := saved }
  return { st := s, report := reportLines "bench lease" [((dramBase + r.1 : Nat) : Int), (leaseSize : Int)], long := some (.lease b, .nothing) }

/-- `CMD_BENCH_LEASE`. -/
def execCmdBenchLease (ch : Chan) (b : Fin 8) (s : State) : Out := .next (runCmd ch s (doBenchLease b))

/-- The memories of a bench as the foreman leaves them when it has reloaded its firmware (R289). -/
def State.wipeBench (s : State) (b : Nat) : State :=
  let s := s.setBench b { s.bench b with shared := [] }
  upTo 8 (fun h s => s.setCore (8 * b + h) { s.core (8 * b + h) with dmem := [], imem := [] }) s

/-- A register put back as it stood; a register of a domain that is off keeps its reset value (R33). -/
def State.restoreReg (s : State) (a : Nat) (w : Word) : State :=
  match RegMap.find a with
  | some h => if s.on h.domain then s.setReg a w else s
  | none => s

/-- `bench b<n> return` (R289): a bench that is not leased, or leased and retired, is not returned. -/
def doBenchReturn (b : Fin 8) (s : State) : CmdM CmdOk := do
  s.leaseFree b
  check ((s.bench b).leased && !s.retired b) .state
  let k := s.bench b
  let s := (((s.clearBench b).wipeBench b).clearBoxes b)
  let s := match k.buf with
    | some a => s.unalloc a
    | none => s
  let s := s.setBench b { s.bench b with leased := false, buf := none, saved := [] }
  let s := ((leaseRegs b).zip k.saved).foldl (fun s p => s.restoreReg p.1 p.2) s
  return { st := s.pokeBit Adr.riddleBenches b true, long := some (.lease b, .nothing) }

/-- `CMD_BENCH_RETURN`. (DEDUCED, log 120) -/
def execCmdBenchReturn (ch : Chan) (b : Fin 8) (s : State) : Out := .next (runCmd ch s (doBenchReturn b))

/-- `bench b<n>`. -/
def doBenchReport (b : Fin 8) (s : State) : CmdM CmdOk := do
  check (s.on (benchPd b)) .state
  s.reportOf "bench" ([Adr.benchStatus b, Adr.benchTqLevel b] ++ (List.range 9).map (Adr.benchDmaStat b)
    ++ (List.range 8).flatMap (fun h => [Adr.benchHstat b h, Adr.benchPc b h])) []

/-- `CMD_BENCH_REPORT`. -/
def execCmdBenchReport (ch : Chan) (b : Fin 8) (s : State) : Out := .next (runCmd ch s (doBenchReport b))

/-! ### `hewer` -/

/-- A bench whose hewers take commands (R290): leased, its domain on, no long command at work on it. -/
def State.leasedOn (s : State) (b : Fin 8) : CmdM Unit := do
  check (s.on (benchPd b) && (s.bench b).leased) .state
  s.clear (.bench b)

/-- The hewer is not running. -/
def State.hewerIdle (s : State) (b h : Fin 8) : CmdM Unit := check (!(s.core (8 * b.val + h.val)).running) .state

/-- `hewer <b>.<h> start`: START, then RESET, then RUN (R282). -/
def doHewerStart (b h : Fin 8) (addr : Qty) (s : State) : CmdM CmdOk := do
  s.leasedOn b
  let a ← addr.count 0 0x7FFF
  s.hewerIdle b h
  finish (do
    let s ← s.wr (Adr.benchStart b h) (BitVec.ofNat 20 a)
    let s ← s.wr (Adr.benchHctrl b h) 2
    s.wr (Adr.benchHctrl b h) 1)

/-- `CMD_HEWER_START`. -/
def execCmdHewerStart (ch : Chan) (b h : Fin 8) (addr : Qty) (s : State) : Out :=
  .next (runCmd ch s (doHewerStart b h addr))

/-- `hewer <b>.<h> halt`. -/
def doHewerHalt (b h : Fin 8) (s : State) : CmdM CmdOk := do
  s.leasedOn b
  finish (s.wr (Adr.benchHctrl b h) 0)

/-- `CMD_HEWER_HALT`. -/
def execCmdHewerHalt (ch : Chan) (b h : Fin 8) (s : State) : Out := .next (runCmd ch s (doHewerHalt b h))

/-- `hewer <b>.<h> run`. -/
def doHewerRun (b h : Fin 8) (s : State) : CmdM CmdOk := do
  s.leasedOn b
  finish (s.wr (Adr.benchHctrl b h) 1)

/-- `CMD_HEWER_RUN`. -/
def execCmdHewerRun (ch : Chan) (b h : Fin 8) (s : State) : Out := .next (runCmd ch s (doHewerRun b h))

/-- `hewer <b>.<h> reset`. -/
def doHewerReset (b h : Fin 8) (s : State) : CmdM CmdOk := do
  s.leasedOn b
  s.hewerIdle b h
  finish (s.wr (Adr.benchHctrl b h) (s.hctrlWord b h 2))

/-- `CMD_HEWER_RESET`. -/
def execCmdHewerReset (ch : Chan) (b h : Fin 8) (s : State) : Out := .next (runCmd ch s (doHewerReset b h))

/-- `hewer <b>.<h> clear`. -/
def doHewerClear (b h : Fin 8) (s : State) : CmdM CmdOk := do
  s.leasedOn b
  finish (s.wr (Adr.benchHctrl b h) (s.hctrlWord b h 4))

/-- `CMD_HEWER_CLEAR`. -/
def execCmdHewerClear (ch : Chan) (b h : Fin 8) (s : State) : Out := .next (runCmd ch s (doHewerClear b h))

/-! ### `mbx` -/

/-- The boxes that `mbx` reports: the host boxes and the boxes of leased benches. -/
def State.mbxBoxes (s : State) : List Nat :=
  ((List.range 8).filter (fun b => (s.bench b).leased)).flatMap benchBoxes ++ (List.range 8).map (72 + ·)

/-- What `mbx` reports of a box. -/
def Mbx.values (x : Mbx) : List Int :=
  ([x.near.out.length, x.far.out.length, x.wedge, b2n x.near.txovf, b2n x.near.rxund, b2n x.far.txovf, b2n x.far.rxund]).map Int.ofNat

/-- The flags of both ends cleared. -/
def Mbx.clearFlags (x : Mbx) : Mbx :=
  { x with near := { x.near with txovf := false, rxund := false }, far := { x.far with txovf := false, rxund := false } }

/-- `mbx`: the report clears the flags. -/
def doMbxReport (s : State) : CmdM CmdOk :=
  reports (s.mbxBoxes.foldl (fun s n => s.setBox n (s.box n).clearFlags) s) "mbx" (s.mbxBoxes.flatMap (fun n => (s.box n).values))

/-- `CMD_MBX_REPORT`. -/
def execCmdMbxReport (ch : Chan) (s : State) : Out := .next (runCmd ch s doMbxReport)

/-- A box that `mbx box` may repair: a host box, or one of a leased bench. -/
def State.boxRepair (s : State) (n : Fin 80) : CmdM Unit := do
  check (decide (72 ≤ n.val) || (s.bench (boxBench n)).leased) .state
  s.clear (.bench (if n.val < 72 then boxBench n else 8))

/-- `mbx box <n> release`: FORCE. -/
def doMbxRelease (box : Fin 80) (s : State) : CmdM CmdOk := do
  s.boxRepair box
  done (s.setBox box ((s.box box).control 2))

/-- `CMD_MBX_RELEASE`. -/
def execCmdMbxRelease (ch : Chan) (box : Fin 80) (s : State) : Out := .next (runCmd ch s (doMbxRelease box))

/-- `mbx box <n> flush`: FLUSH, but not of the host box that carries the command. -/
def doMbxFlush (ch : Chan) (box : Fin 80) (s : State) : CmdM CmdOk := do
  s.boxRepair box
  check (!(decide (2 ≤ ch.val) && box.val == 70 + ch.val)) .state
  done (s.setBox box ((s.box box).control 1))

/-- `CMD_MBX_FLUSH`. -/
def execCmdMbxFlush (ch : Chan) (box : Fin 80) (s : State) : Out := .next (runCmd ch s (doMbxFlush ch box))

end Sys2Proof.Machine
end

