-- ==== Sys2Proof/Machine/CmdBoot.lean ====
section
/-!
DEFINITION. The commands `boot image` (R439).
-/
namespace Sys2Proof.Machine

/-- A region of usable DRAM given by its fabric address and length, as an offset. -/
def dramRegion (addr : Qty) (n : Nat) : CmdM Nat := do
  let a ← addr.count dramBase (dramBase + dramSize - 1)
  check (decide (a + n ≤ dramBase + dramSize)) .range
  return a - dramBase

/-- The bytes of an image's place in flash (R434). -/
def imageArea : Nat := 0x400000

/-- The engine runs from a boot image, and not from a recovery record. -/
def State.runsImage (s : State) (b : Bool) : Bool := s.pw.imageB == b && !s.flag Adr.sysBoot 4

/-- A boot image as it stands after bytes were copied into it: its check is that of R435; the layout of its payload is not
given, so its versions and level range are free values. -/
def bootImgOf (bs : List Byte) (s : State) : BootImg × State :=
  let c := s.draw
  let f := c.2.draw
  let b := f.2.draw
  ({ ok := recValid 6 bs, cl1 := c.1 % 2 == 1, fwf := BitVec.ofNat 24 f.1, fwb := BitVec.ofNat 24 b.1, payload := recPayload bs }, b.2)

/-- `boot image a|b write from length`. -/
def doBootImageWrite (imgB : Bool) (addr len : Qty) (s : State) : CmdM CmdOk := do
  let n ← len.count 64 dramSize
  let o ← dramRegion addr n
  check (!s.runsImage imgB) .busy
  s.clear (.image imgB)
  check (decide (n ≤ imageArea)) .nospace
  let r := bootImgOf (s.dramRun o n) s
  let f := r.2.flash
  return { st := r.2.setFlash (if imgB then { f with imgB := r.1 } else { f with imgA := r.1 }),
           long := some (.image (some imgB), .image imgB (if imgB then f.imgB else f.imgA)) }

/-- `CMD_BOOT_IMAGE_WRITE`. (DESIGN CHOICE, log 124) -/
def execCmdBootImageWrite (ch : Chan) (imgB : Bool) (addr len : Qty) (s : State) : Out :=
  .next (runCmd ch s (doBootImageWrite imgB addr len))

/-- The values of an image in a report: its check, its level range, its versions. -/
def BootImg.values (i : BootImg) : List Int := [b2n i.ok, b2n i.cl1, i.fwf.toNat, i.fwb.toNat].map Int.ofNat

/-- `boot image a|b check`. -/
def doBootImageCheck (imgB : Bool) (s : State) : CmdM CmdOk :=
  .ok { st := s, report := reportLines "boot image check" (if imgB then s.flash.imgB else s.flash.imgA).values,
        long := some (.image (some imgB), .nothing) }

/-- `CMD_BOOT_IMAGE_CHECK`. -/
def execCmdBootImageCheck (ch : Chan) (imgB : Bool) (s : State) : Out := .next (runCmd ch s (doBootImageCheck imgB))

/-- `boot image prefer a|b`. -/
def doBootImagePrefer (imgB : Bool) (s : State) : CmdM CmdOk := do
  s.clear .prefer
  return { st := s.setFlash { s.flash with preferB := imgB }, long := some (.image none, .nothing) }

/-- `CMD_BOOT_IMAGE_PREFER`. -/
def execCmdBootImagePrefer (ch : Chan) (imgB : Bool) (s : State) : Out := .next (runCmd ch s (doBootImagePrefer imgB))

/-- `boot image`: both images, the preferred one, SYS.BOOT. -/
def doBootImageReport (s : State) : CmdM CmdOk := do
  let r ← s.reportOf "boot image" [Adr.sysBoot] (s.flash.imgA.values ++ s.flash.imgB.values ++ [(b2n s.flash.preferB : Int)])
  return { r with long := some (.image none, .nothing) }

/-- `CMD_BOOT_IMAGE_REPORT`. -/
def execCmdBootImageReport (ch : Chan) (s : State) : Out := .next (runCmd ch s doBootImageReport)

end Sys2Proof.Machine
end

