-- ==== Sys2Proof/Machine/CmdCal.lean ====
section
/-!
DEFINITION. The command `cal` (R440 to R444).
-/
namespace Sys2Proof.Machine

/-- The records that a command works on are held until it is answered (R364); flash that fails puts the record of the name
back. -/
def State.recordLong (s t : State) (n : String) (names : List String) (rep : List (List Byte)) : CmdOk :=
  { st := t, report := rep, long := some (.record ((n :: names).map nameKey), .record (nameKey n) (s.recOf n)) }

/-! ### Measurements -/

/-- A record name that a command saves under: of the form of R351, and not one that a measurement in progress will save or another
long command works on (R364). -/
def State.saveName (s : State) (n : String) : CmdM Unit := do
  check (nameOk n) .syntax_
  check (!s.cal.any (fun j => nameKey j.name == nameKey n)) .busy
  s.clear (.record (nameKey n))

/-- A measurement begins: it holds its channel until its pair of runs is judged. (DEDUCED, log 126) -/
def State.calStart (s : State) (ch : Chan) (f c : Fin 4) (j : CalJob) : CmdM CmdOk := do
  check (s.on (facePd f)) .state
  check (!s.isReleased (.face f)) .owned
  s.saveName j.name
  check (s.ctxEn f c) .state
  return { st := (s.setCal (s.cal ++ [j])).setChan ch { s.chan ch with long := some (.cal f c) }, hold := true }

/-- Lines of a run: 64 to 65,536, 1,024 by default. -/
def calLines (q : Option Qty) : CmdM Nat := do return (← conv q (fun q => q.count 64 65536)).getD 1024

/-- `cal dark`: `tol` is a level, 512 by default. -/
def doCalDark (ch : Chan) (f c : Fin 4) (lines tol : Option Qty) (save : String) (s : State) : CmdM CmdOk := do
  let n ← calLines lines
  let t ← conv tol (fun q => q.count 0 0xFFFFF)
  s.calStart ch f c { chNo := ch.val, flat := false, f := f, c := c, plane := 0, target := 0, lines := n, tol := t.getD 512,
                      name := save, started := s.time }

/-- `CMD_CAL_DARK`. -/
def execCmdCalDark (ch : Chan) (f c : Fin 4) (lines tol : Option Qty) (save : String) (s : State) : Out :=
  .next (runCmd ch s (doCalDark ch f c lines tol save))

/-- `cal flat`: `tol` is a percentage, 1 % by default, kept in hundredths. -/
def doCalFlat (ch : Chan) (f c p : Fin 4) (target : Qty) (lines tol : Option Qty) (save : String) (s : State) : CmdM CmdOk := do
  let g ← target.count 0 0xFFFFF
  let n ← calLines lines
  let t ← conv tol (fun q => do within 0 10000 (← q.pct 100 1))
  s.calStart ch f c { chNo := ch.val, flat := true, f := f, c := c, plane := p, target := g, lines := n, tol := t.getD 100,
                      name := save, started := s.time }

/-- `CMD_CAL_FLAT`. -/
def execCmdCalFlat (ch : Chan) (f c p : Fin 4) (target : Qty) (lines tol : Option Qty) (save : String) (s : State) : Out :=
  .next (runCmd ch s (doCalFlat ch f c p target lines tol save))

/-- `CAL_NO_LINE_TIMEOUT` (R444): a measurement that receives no line of its plane within 1 s is rejected. -/
def execCalNoLineTimeout (f c : Fin 4) (s : State) : Out :=
  .next (s.cal.foldl (fun s j =>
    if j.f = f.val && j.c = c.val && decide (1000 * msT ≤ s.since j.started) then s.calEnd j (.error .state) else s) s)

/-! ### Defect records (R443) -/

/-- How many numbers of a list lie below v. -/
def countBelow (l : List Nat) (v : Nat) : Nat := (l.filter (· < v)).length

/-- Twice the median of a list of numbers below 2^20: the k-th smallest is the greatest v with at most k numbers below it.
(PRESUMED, log 127) -/
def median2 (l : List Nat) : Nat :=
  let kth (k : Nat) : Nat := greatest (fun v => decide (countBelow l v ≤ k)) 20 0
  kth ((l.length - 1) / 2) + kth (l.length / 2)

/-- Column c of a dark record K of w columns and a flat record g is flagged. `devC` is a percentage in hundredths. -/
def calFlag (w medK darkmax devC : Nat) (ks gs : List Nat) (c : Nat) : Bool :=
  let lo := c - 32
  let m := median2 ((gs.drop lo).take (min (c + 32) (w - 1) + 1 - lo))
  let g2 := 2 * at0 gs c
  decide (medK + 2 * darkmax < 2 * at0 ks c) || decide (devC * m < 10000 * (max g2 m - min g2 m))

/-- The method of a flagged column: alone mean, first of a run c − s, last of a run c + s, between them mean. -/
def runMethod (flagged : Nat → Bool) (c : Nat) : DefMethod :=
  let before := c != 0 && flagged (c - 1)
  let after := flagged (c + 1)
  if before == after then .mean else if after then .left else .right

/-- The first columns of the clusters: runs of three or more flagged columns. -/
def clusters (flagged : Nat → Bool) (w : Nat) : List Nat :=
  (List.range w).filter (fun c => !(c != 0 && flagged (c - 1)) && flagged c && flagged (c + 1) && flagged (c + 2))

/-- `cal defect`. -/
def doCalDefect (f c : Fin 4) (dark flat : String) (darkmax flatdev : Qty) (save : String) (s : State) : CmdM CmdOk := do
  let dm ← darkmax.count 0 0xFFFFF
  let fd ← within 0 1000000 (← flatdev.pct 100 1)
  s.saveName save
  check (s.on (facePd f)) .state
  let kr ← s.tblRec .black dark
  let gr ← s.tblRec .flat flat
  check (kr.payload.length == tblPayload .black && gr.payload.length == tblPayload .flat) .record
  let w := s.strWidth (s.ctxPort f c) (s.ctxStream f c)
  let ks := (entriesOf 2 kr.payload).take w
  let gs := (entriesOf 4 gr.payload).take w
  let mk := median2 ks
  let fl := (List.range w).map (calFlag w mk dm fd ks gs)
  let flagged (i : Nat) : Bool := fl.getD i false
  let cols := (List.range w).filter flagged
  check (decide (cols.length ≤ 8192)) .refused
  let t ← s.saveRec (.table .defect) save (entriesPayload .defect (cols.map (fun i => defectEntry c i (runMethod flagged i))))
  return s.recordLong t save [dark, flat] (reportLines "cal defect" ((clusters flagged w).map Int.ofNat))

/-- `CMD_CAL_DEFECT`. -/
def execCmdCalDefect (ch : Chan) (f c : Fin 4) (dark flat : String) (darkmax flatdev : Qty) (save : String) (s : State) : Out :=
  .next (runCmd ch s (doCalDefect f c dark flat darkmax flatdev save))

/-! ### Records (R444) -/

/-- `cal import`: the payload from DRAM, the header formed. -/
def doCalImport (name : String) (kind : TblKind) (src : Qty) (s : State) : CmdM CmdOk := do
  s.saveName name
  let o ← dramRegion src (tblPayload kind)
  let t ← s.saveRec (.table kind) name (s.dramRun o (tblPayload kind))
  return s.recordLong t name [] []

/-- `CMD_CAL_IMPORT`. -/
def execCmdCalImport (ch : Chan) (name : String) (kind : TblKind) (src : Qty) (s : State) : Out :=
  .next (runCmd ch s (doCalImport name kind src))

/-- `cal export`: the payload to DRAM, the header removed. -/
def doCalExport (name : String) (dst : Qty) (s : State) : CmdM CmdOk := do
  match s.recNamed name with
  | none => .error .record
  | some r => do
    let o ← dramRegion dst r.payload.length
    return { st := s.putDram o r.payload, long := some (.record [nameKey name], .nothing) }

/-- `CMD_CAL_EXPORT`. -/
def execCmdCalExport (ch : Chan) (name : String) (dst : Qty) (s : State) : Out :=
  .next (runCmd ch s (doCalExport name dst))

/-- The values of a record in a report: kind, size, WSEQ, the copies, and the characters of its name. -/
def FlashRec.values (r : FlashRec) : List Int :=
  ([kindCode r.kind, r.payload.length, r.wseq, b2n r.ok1, b2n r.ok2] ++ r.name.toList.map Char.toNat).map Int.ofNat

/-- `cal records`. -/
def doCalRecords (s : State) : CmdM CmdOk :=
  .ok { st := s, report := reportLines "cal records" (s.flash.recs.flatMap FlashRec.values),
        long := some (.record (s.flash.recs.map FlashRec.name), .nothing) }

/-- `CMD_CAL_RECORDS`. -/
def execCmdCalRecords (ch : Chan) (s : State) : Out := .next (runCmd ch s doCalRecords)

/-- `cal delete`: both copies. -/
def doCalDelete (name : String) (s : State) : CmdM CmdOk := do
  check (s.recNamed name).isSome .record
  s.saveName name
  return s.recordLong (s.dropRec name) name [] []

/-- `CMD_CAL_DELETE`. -/
def execCmdCalDelete (ch : Chan) (name : String) (s : State) : Out := .next (runCmd ch s (doCalDelete name))

end Sys2Proof.Machine
end

