-- ==== Sys2Proof/Machine/CmdHost.lean ====
section
/-!
DEFINITION. The command `host` (R484).
-/
namespace Sys2Proof.Machine

/-- A host base: 4 KiB aligned and below 2⁵². -/
def hostAddr (q : Qty) : CmdM Nat := do
  let a ← q.count 0 (2 ^ 52 - 1)
  check (a % 4096 == 0) .range
  return a

/-- A host base written to its two registers, where one is given. -/
def State.setHostBase (s : State) (l h : Nat) (a : Option Nat) : CmdM State :=
  given a s (fun s a => do
    let s ← s.wr l (BitVec.ofNat 20 (a / 4096))
    s.wr h (BitVec.ofNat 20 (a / 2 ^ 32)))

/-- The exponent of a size that is a power of two from 2^lo to 2^(lo + n). (DEDUCED, log 123) -/
def sizeExp (lo n : Nat) (q : Qty) : CmdM Nat := do
  let v ← q.count 0 (2 ^ 60)
  match (List.range (n + 1)).find? (fun e => 2 ^ (lo + e) == v) with
  | some e => .ok e
  | none => .error .range

/-- The host ranges of the enabled rings and the enabled mirror, as base and length. -/
def State.hostRanges (s : State) : List (Nat × Nat) :=
  (if s.flag Adr.pcieCtrl 1 then [(s.hostBase Adr.pcieMirBaseL Adr.pcieMirBaseH, 256)] else [])
    ++ (if s.flag Adr.pcieCtrl 0 then [(s.hostBase Adr.pcieResBaseL Adr.pcieResBaseH, 64 * s.resN),
        (s.hostBase Adr.pciePayBaseL Adr.pciePayBaseH, 64 * s.payUnits)] else [])
    ++ ((List.range 48).filter s.ringEn).map (fun r =>
        (s.hostBase (Adr.pcieStreamBaseL r) (Adr.pcieStreamBaseH r), 64 * s.ringUnits r))

/-- No range of a list overlaps a later one. -/
def apart : List (Nat × Nat) → Bool
  | [] => true
  | r :: l => !l.any (clash r) && apart l

/-- `off` before the settings, `on` after them, then the check of the ranges (R352, R484). -/
def State.hostSet (s : State) (a i : Nat) (on : Option Bool) (f : State → CmdM State) : CmdM State := do
  let s ← if on == some false then s.wrB a i false else .ok s
  let s ← f s
  let s ← if on == some true then s.wrB a i true else .ok s
  check (apart s.hostRanges) .refused
  return s

/-- `host mirror`. -/
def doHostMirror (base : Option Qty) (on : Option Bool) (s : State) : CmdM CmdOk := do
  s.clear .host
  let b ← conv base hostAddr
  finish (s.hostSet Adr.pcieCtrl 1 on (fun s => s.setHostBase Adr.pcieMirBaseL Adr.pcieMirBaseH b))

/-- `CMD_HOST_MIRROR`. -/
def execCmdHostMirror (ch : Chan) (base : Option Qty) (on : Option Bool) (s : State) : Out :=
  .next (runCmd ch s (doHostMirror base on))

/-- `host result`: the payload size is a whole number of 4 KiB units from 32 to 16,383. -/
def doHostResult (base entries pbase psize : Option Qty) (on : Option Bool) (s : State) : CmdM CmdOk := do
  s.clear .host
  let b ← conv base hostAddr
  let n ← conv entries (sizeExp 10 6)
  let pb ← conv pbase hostAddr
  let ps ← conv psize (fun q => do
    let v ← q.count (32 * 4096) (16383 * 4096)
    check (v % 4096 == 0) .range
    return v / 4096)
  finish (s.hostSet Adr.pcieCtrl 0 on (fun s => do
    let s ← s.setHostBase Adr.pcieResBaseL Adr.pcieResBaseH b
    let s ← s.wrO Adr.pcieResSize n
    let s ← s.setHostBase Adr.pciePayBaseL Adr.pciePayBaseH pb
    s.wrO Adr.pciePaySize ps))

/-- `CMD_HOST_RESULT`. -/
def execCmdHostResult (ch : Chan) (base entries pbase psize : Option Qty) (on : Option Bool) (s : State) : Out :=
  .next (runCmd ch s (doHostResult base entries pbase psize on))

/-- The number of a kind within a context's rings (R479). -/
def streamNo : StreamKind → Nat
  | .mv => 0 | .disp => 1 | .code => 2

/-- `host stream f<n> c<n> mv|disp|code`. -/
def doHostStream (f c : Fin 4) (k : StreamKind) (base size : Option Qty) (on : Option Bool) (s : State) : CmdM CmdOk := do
  s.clear .host
  let r := 12 * f.val + 3 * c.val + streamNo k
  let b ← conv base hostAddr
  let n ← conv size (sizeExp 16 9)
  finish (s.hostSet (Adr.pcieStreamCtrlEn r) 0 on (fun s => do
    let s ← s.setHostBase (Adr.pcieStreamBaseL r) (Adr.pcieStreamBaseH r) b
    s.wrO (Adr.pcieStreamSize r) n))

/-- `CMD_HOST_STREAM`. -/
def execCmdHostStream (ch : Chan) (f c : Fin 4) (k : StreamKind) (base size : Option Qty) (on : Option Bool) (s : State) : Out :=
  .next (runCmd ch s (doHostStream f c k base size on))

/-- `host`: the report clears the RC counters. -/
def doHostReport (s : State) : CmdM CmdOk :=
  s.reportOf "host" ([Adr.pcieStatus, Adr.pcieCtrl, Adr.pcieResProd, Adr.pcieResCons, Adr.pciePayProd, Adr.pciePayCons, Adr.pciePoison,
    Adr.pcieLinkdn] ++ (List.range 48).flatMap (fun r => [Adr.pcieStreamProd r, Adr.pcieStreamCons r, Adr.pcieStreamLost r])) []

/-- `CMD_HOST_REPORT`. -/
def execCmdHostReport (ch : Chan) (s : State) : Out := .next (runCmd ch s doHostReport)

end Sys2Proof.Machine
end

