-- ==== Sys2Proof/Machine/CmdPort.lean ====
section
/-!
DEFINITION. The command `port` (R121).
-/
namespace Sys2Proof.Machine

/-- A data type of `port img` (R100). -/
def imgDtCode : ImgDt → Nat
  | .raw8 => 0x2A | .raw10 => 0x2B | .raw12 => 0x2C | .raw14 => 0x2D | .raw16 => 0x2E | .rgb888 => 0x24
  | .user n => 0x30 + n.val

/-- A data type of `port emb` (R100). -/
def embDtCode : EmbDt → Nat
  | .emb8 => 0x12
  | .user n => 0x30 + n.val

/-- IMG0_EN or IMG1_EN as written. (DEDUCED, log 109) -/
def State.imgEn (s : State) (p st : Nat) : Bool := s.flag (Adr.portCtrl p) (4 + st)

/-- The image streams of a port as written are a configuration that R106 refuses: both have the same VC and data type,
or more than four streams would be active on the Face. -/
def State.portRefused (s : State) (p : Nat) : Bool :=
  let two := s.imgEn p 0 && s.imgEn p 1 && s.filtVc p 0 == s.filtVc p 1 && s.strDt p 0 == s.strDt p 1
  let n := ((List.range 8).filter (fun i => s.flag (Adr.portCtrl (p / 4 * 4 + i / 2)) 0 && s.imgEn (p / 4 * 4 + i / 2) (i % 2))).length
  two || decide (4 < n)

/-- A state whose image streams on port p R106 does not refuse. -/
def State.portChecked (s : State) (p : Nat) : CmdM State := do
  check (!s.portRefused p) .refused
  return s

/-- `port p<n> lanes rate`: LANES and RATE are not changed while the port is enabled. -/
def doPortLanes (p : Fin 16) (lanes rate : Option Qty) (s : State) : CmdM CmdOk := do
  s.portFree p
  let n ← conv lanes (fun q => q.count 1 4)
  check (n != some 3) .range
  let r ← conv rate (fun q => do within 80 4500 (← q.rate))
  finish (do
    let s ← s.wrF (Adr.portCtrl p) [(2, 1, n.map (fun v => v / 2))]
    s.wrO (Adr.portPhyRate p) r)

/-- `CMD_PORT_LANES`. -/
def execCmdPortLanes (ch : Chan) (p : Fin 16) (lanes rate : Option Qty) (s : State) : Out :=
  .next (runCmd ch s (doPortLanes p lanes rate))

/-- `port p<n> img0|img1`. -/
def doPortImg (p : Fin 16) (st : Fin 2) (vc : Option Qty) (dt : Option ImgDt) (width : Option Qty) (on : Option Bool) (s : State) : CmdM CmdOk := do
  s.portFree p
  let v ← conv vc (fun q => q.count 0 15)
  let w ← conv width (fun q => q.count 1 16384)
  finish (do
    let s ← s.wrF (Adr.portFilt p st) [(3, 0, v), (9, 4, dt.map imgDtCode)]
    let s ← s.wrO (Adr.portWidth p st) (w.map (· - 1))
    let s ← s.wrF (Adr.portCtrl p) [(4 + st.val, 4 + st.val, onOff on)]
    if s.imgEn p st then s.portChecked p else .ok s)

/-- `CMD_PORT_IMG`. -/
def execCmdPortImg (ch : Chan) (p : Fin 16) (st : Fin 2) (vc : Option Qty) (dt : Option ImgDt) (width : Option Qty) (on : Option Bool) (s : State) : Out :=
  .next (runCmd ch s (doPortImg p st vc dt width on))

/-- `port p<n> emb`. -/
def doPortEmb (p : Fin 16) (vc : Option Qty) (dt : Option EmbDt) (on : Option Bool) (s : State) : CmdM CmdOk := do
  s.portFree p
  let v ← conv vc (fun q => q.count 0 15)
  finish (do
    let s ← s.wrF (Adr.portEmbFilt p) [(3, 0, v), (9, 4, dt.map embDtCode)]
    s.wrF (Adr.portCtrl p) [(6, 6, onOff on)])

/-- `CMD_PORT_EMB`. -/
def execCmdPortEmb (ch : Chan) (p : Fin 16) (vc : Option Qty) (dt : Option EmbDt) (on : Option Bool) (s : State) : Out :=
  .next (runCmd ch s (doPortEmb p vc dt on))

/-- An enabled EMB stream stands on the VC of an enabled image stream (R121). -/
def State.embFits (s : State) (p : Nat) : Bool :=
  s.flag (Adr.portCtrl p) 6 && (List.range 2).any (fun st => s.imgEn p st && s.filtVc p st == s.fld (Adr.portEmbFilt p) 3 0)

/-- `port p<n> align`. -/
def doPortAlign (p : Fin 16) (on : Option Bool) (counter : Option Qty) (lsb : Option Bool) (ofs : Option CntOffset) (s : State) : CmdM CmdOk := do
  s.portFree p
  let b ← conv counter (fun q => q.count 0 1022)
  let o ← conv (match ofs with | some (.offset n) => some n | _ => none) (fun q => q.count 0 65535)
  check (on != some true || s.embFits p) .refused
  finish (do
    let s ← s.wrF (Adr.portCnt p) [(9, 0, b), (10, 10, onOff lsb)]
    let s ← s.wrO (Adr.portCntOfs p) o
    s.wrF (Adr.portCtrl p) [(7, 7, onOff on), (8, 8, if ofs == some .learn then some 1 else none)])

/-- `CMD_PORT_ALIGN`. -/
def execCmdPortAlign (ch : Chan) (p : Fin 16) (on : Option Bool) (counter : Option Qty) (lsb : Option Bool) (ofs : Option CntOffset) (s : State) : Out :=
  .next (runCmd ch s (doPortAlign p on counter lsb ofs))

/-- `port p<n> fill tmo`: FE in units of 100 µs. -/
def doPortFillTmo (p : Fin 16) (fill tmoFs tmoFe : Option Qty) (s : State) : CmdM CmdOk := do
  s.portFree p
  let f ← conv fill (fun q => q.count 0 65535)
  let a ← conv tmoFs (fun q => do within 1 0xFFFFF (← q.time 1000))
  let b ← conv tmoFe (fun q => do within 1 0xFFFFF (← q.time 100000))
  finish (do
    let s ← s.wrO (Adr.portFill p) f
    let s ← s.wrO (Adr.portTmoFs p) a
    s.wrO (Adr.portTmoFe p) b)

/-- `CMD_PORT_FILL_TMO`. -/
def execCmdPortFillTmo (ch : Chan) (p : Fin 16) (fill tmoFs tmoFe : Option Qty) (s : State) : Out :=
  .next (runCmd ch s (doPortFillTmo p fill tmoFs tmoFe))

/-- `port p<n> on|off`. -/
def doPortOnOff (p : Fin 16) (on : Bool) (s : State) : CmdM CmdOk := do
  s.portFree p
  s.inService p on
  finish (do
    let s ← s.wrB (Adr.portCtrl p) 0 on
    if on then s.portChecked p else .ok s)

/-- `CMD_PORT_ON_OFF`. -/
def execCmdPortOnOff (ch : Chan) (p : Fin 16) (on : Bool) (s : State) : Out := .next (runCmd ch s (doPortOnOff p on))

/-- Bytes of a write list put into I2C.TX. -/
def State.putTx (s : State) (p : Nat) : Nat → List Nat → CmdM State
  | _, [] => .ok s
  | i, [b] => s.wrF (Adr.portI2cTx p i) [(7, 0, some b)]
  | i, a :: b :: l => do (← s.wrF (Adr.portI2cTx p i) [(7, 0, some a), (15, 8, some b)]).putTx p (i + 1) l

/-- `port p<n> i2c` (R117): a long command; its reply comes when the transaction ends. -/
def doPortI2c (ch : Chan) (p : Fin 16) (addr : Qty) (write : List Qty) (read : Option Qty) (speed : Option (Fin 3))
    (stretch : Option Qty) (s : State) : CmdM CmdOk := do
  s.portFree p
  let a ← addr.count 0 127
  let tx ← convAll (fun q => q.count 0 255) write
  check (decide (tx.length ≤ 32)) .range
  let n := (← conv read (fun q => q.count 0 32)).getD 0
  let t ← conv stretch (fun q => do within 1 255 (← q.time 1000000))
  check (!s.i2cBusy p) .busy
  let s ← s.wrF (Adr.portI2cCtrl p) [(1, 0, speed.map Fin.val), (9, 2, t)]
  let s ← s.putTx p 0 tx
  let s ← s.wr (Adr.portI2cCmd p) (BitVec.ofNat 20 (a + 2 ^ 7 * tx.length + 2 ^ 13 * n + 2 ^ 19))
  return { st := s.setChan ch { s.chan ch with long := some (.i2c p n) }, hold := true }

/-- `CMD_PORT_I2C`. -/
def execCmdPortI2c (ch : Chan) (p : Fin 16) (addr : Qty) (write : List Qty) (read : Option Qty) (speed : Option (Fin 3))
    (stretch : Option Qty) (s : State) : Out := .next (runCmd ch s (doPortI2c ch p addr write read speed stretch))

/-- `port p<n> i2c recover`. -/
def doPortI2cRecover (p : Fin 16) (s : State) : CmdM CmdOk := do
  s.portFree p
  check (!s.i2cBusy p) .busy
  finish (s.wr (Adr.portI2cOp p) 1)

/-- `CMD_PORT_I2C_RECOVER`. -/
def execCmdPortI2cRecover (ch : Chan) (p : Fin 16) (s : State) : Out := .next (runCmd ch s (doPortI2cRecover p))

/-- The counters of a port. -/
def portCounters (p : Nat) : List Nat :=
  [Adr.portSlabs p, Adr.portShort p, Adr.portLong p, Adr.portTmo p, Adr.portSline p, Adr.portLline p, Adr.portEccCor p,
   Adr.portEccErr p, Adr.portCrcErr p, Adr.portPktIgn p, Adr.portFsMiss p, Adr.portFeMiss p, Adr.portNotag p,
   Adr.portTagDisc p, Adr.portUnanch p, Adr.portAlignMiss p, Adr.portPhyErr p]

/-- `port p<n>`: the report clears the counters. -/
def doPortReport (p : Fin 16) (s : State) : CmdM CmdOk := do
  check (s.on (portPd p)) .state
  s.reportOf "port" ([Adr.portCtrl p, Adr.portPhyRate p, Adr.portStatus p, Adr.portLast0 p, Adr.portFlags0 p, Adr.portLast1 p,
    Adr.portFlags1 p] ++ portCounters p) []

/-- `CMD_PORT_REPORT`. -/
def execCmdPortReport (ch : Chan) (p : Fin 16) (s : State) : Out := .next (runCmd ch s (doPortReport p))

end Sys2Proof.Machine
end

