-- ==== Sys2Proof/Machine/CmdPwr.lean ====
section
/-!
DEFINITION. The command `pwr` (R404 to R409, R420).
-/
namespace Sys2Proof.Machine

/-! ### Domain switches (R404, R407) -/

/-- PD2 or PD3 may be switched off: every port, context, sequencer and head it carries is disabled. -/
def State.imageIdle (s : State) (o : Nat) : Bool :=
  (List.range 8).all (fun i => !s.flag (Adr.portCtrl (8 * o + i)) 0 && !s.headEn (8 * o + i) && !s.ctxEn (2 * o + i / 4) (i % 4))
    && (List.range 2).all (fun i => !s.seqEn (2 * o + i))

/-- PD4 may be switched off: Seams, the Riddle, Kerfs and stockpiles are disabled and no context has STOCK set. -/
def State.searchIdle (s : State) : Bool :=
  (List.range 4).all (fun i => !s.flag (Adr.seamCtrl i) 0) && !s.flag Adr.riddleCtrlEn 0
    && (List.range 8).all (fun k => !s.flag (Adr.kerfCtrlEn k) 0)
    && (List.range 64).all (fun i => !s.stockEn (i / 4) (i % 4))
    && (List.range 16).all (fun i => !s.ctxStock (i / 4) (i % 4))

/-- PD5 or PD6 may be switched off: none of its benches is in RIDDLE.BENCHES, none is leased. -/
def State.benchesIdle (s : State) (o : Nat) : Bool :=
  (List.range 4).all (fun i => !(s.on 4 && s.flag Adr.riddleBenches (4 * o + i)) && !(s.bench (4 * o + i)).leased)

/-- A switch-off that R404 allows. -/
def State.mayOff (s : State) (d : Nat) : Bool :=
  if d = 2 || d = 3 then s.imageIdle (d - 2)
  else if d = 4 then s.searchIdle
  else if d = 5 || d = 6 then s.benchesIdle (d - 5)
  else false

/-- The foreman restarts a bench of the domain (R407). -/
def State.recovering (s : State) (d : Nat) : Bool :=
  (d == 5 || d == 6) && (List.range 4).any (fun i => (s.bench (4 * (d - 5) + i)).restart.isSome)

/-- `pwr pd<n> on|off`. -/
def doPwrPd (pd : Fin 8) (on : Bool) (s : State) : CmdM CmdOk := do
  check (decide (2 ≤ pd.val) && decide (pd.val ≤ 6)) .state
  check (!s.recovering pd) .busy
  check (on || !s.on pd || s.mayOff pd) .busy
  s.clear (.domain pd)
  done (s.writePwrReq (putBits (s.reg Adr.pwrReq) pd pd (b2n on)))

/-- `CMD_PWR_PD`. -/
def execCmdPwrPd (ch : Chan) (pd : Fin 8) (on : Bool) (s : State) : Out := .next (runCmd ch s (doPwrPd pd on))

/-! ### `pwr standby` (R409) -/

/-- Output that waits on a UART sent to its last stop bit; on a console pushed to the box. (DESIGN CHOICE, log 122) -/
def State.flushOut (s : State) (ch : Nat) : State :=
  let c := s.chan ch
  if ch < 2 then
    let u := 1 - ch
    let x := s.uart u
    (s.setChan ch { c with out := [] }).setUart u { x with
      sent := x.sent ++ x.shift.toList ++ (x.tx ++ c.out).map (s.frame u).cut, shift := none, tx := [], de := .idle }
  else s.consoleOut (ch - 2) 8

/-- The drain begins: no further line is triggered. -/
def State.startDrain (s : State) : State :=
  let s := upTo 4 (fun c s => s.pokeBit (Adr.trgcCtrl c) 0 false) s
  s.setPw { s.pw with st := .drain, drainAt := s.time }

/-- `pwr standby`: `ok` is sent, then the drain begins. -/
def doPwrStandby (ch : Chan) (s : State) : CmdM CmdOk := .ok { st := ((s.respondOk ch []).flushOut ch).startDrain, hold := true }

/-- `CMD_PWR_STANDBY`. -/
def execCmdPwrStandby (ch : Chan) (s : State) : Out := .next (runCmd ch s (doPwrStandby ch))

/-! ### Settings and report -/

/-- `pwr wake`. -/
def doPwrWake (sync : Option Bool) (gpio : Option (List (Fin 8))) (fall : Option Bool) (s : State) : CmdM CmdOk := do
  s.clear .pwr
  finish (s.wrF Adr.pwrWake [(0, 0, onOff sync), (8, 1, gpio.map (fun l => l.foldl (fun n i => n ||| 2 ^ i.val) 0)), (9, 9, onOff fall)])

/-- `CMD_PWR_WAKE`. -/
def execCmdPwrWake (ch : Chan) (sync : Option Bool) (gpio : Option (List (Fin 8))) (fall : Option Bool) (s : State) : Out :=
  .next (runCmd ch s (doPwrWake sync gpio fall))

/-- `pwr throttle`: a plain number of degrees, 85 to 100. -/
def doPwrThrottle (deg : Qty) (s : State) : CmdM CmdOk := do
  let v ← deg.count 85 100
  s.clear .pwr
  finish (s.wrO Adr.pwrThermCtrl (some v))

/-- `CMD_PWR_THROTTLE`. -/
def execCmdPwrThrottle (ch : Chan) (deg : Qty) (s : State) : Out := .next (runCmd ch s (doPwrThrottle deg))

/-- `pwr`: the report clears PEAK and THR_CNT. -/
def doPwrReport (s : State) : CmdM CmdOk :=
  s.reportOf "pwr" ([Adr.pwrDom, Adr.pwrReq, Adr.pwrVmain, Adr.pwrVstby, Adr.pwrImain, Adr.pwrWake, Adr.pwrWakesrc, Adr.pwrStatus,
    Adr.pwrThermCtrl, Adr.pwrThermStatus, Adr.pwrThermPeak, Adr.pwrThermThrCnt, Adr.clkStatus]
    ++ (List.range 8).map Adr.pwrPdp ++ (List.range 8).map Adr.pwrThermT) []

/-- `CMD_PWR_REPORT`. -/
def execCmdPwrReport (ch : Chan) (s : State) : Out := .next (runCmd ch s doPwrReport)

end Sys2Proof.Machine
end

