-- ==== Sys2Proof/Machine/CmdSeq.lean ====
section
/-!
DEFINITION. The command `seq` (R99).
-/
namespace Sys2Proof.Machine

/-- The bank that step, length and copy commands act on (R99): the one the newer table record does not use; without a
table record the one that SEQ.q.CTRL.BANK does not name. (DEDUCED, log 108) -/
def State.freeBank (s : State) (q : Nat) : Bool :=
  match (s.seq q).newer with
  | some (.table _ b _) => !b
  | _ => !s.seqBank q

/-- The LIGHT register of a step of a bank. -/
def stepLight (q : Nat) (b : Bool) (i : Nat) : Nat := if b then Adr.seqStep1Light q i else Adr.seqStep0Light q i

/-- The EXP register of a step of a bank. -/
def stepExp (q : Nat) (b : Bool) (i : Nat) : Nat := if b then Adr.seqStep1Exp q i else Adr.seqStep0Exp q i

/-- The channels of a light state as the CHANNELS field (R86). -/
def chanBits (l : List (Fin 8)) : Nat := l.foldl (fun n i => n ||| 2 ^ i.val) 0

/-- A light state written to a LIGHT and an EXP register (R86, R99). -/
def State.setLight (s : State) (aL aE : Nat) (l : LightSet) : CmdM State := do
  let i ← conv l.int (fun q => q.count 0 15)
  let p ← conv l.plane (fun q => q.count 0 3)
  let e ← conv l.exp (fun q => do within 20 0xFFFFF (← q.time 5))
  let s ← s.wrF aL [(19, 12, l.chans.map chanBits), (11, 8, i), (7, 6, p)]
  s.wrO aE e

/-- The longest exposure of the steps of a bank and the fixed state, plus 0.96 µs, lies within the minimum interval of
every head that the sequencer serves (R89, R99). -/
def State.expFits (s : State) (q : Nat) (b : Bool) : Bool :=
  let exps := (s.reg (Adr.seqFixedExp q)).toNat :: (List.range (s.seqLen q b)).map (fun i => (s.reg (stepExp q b i)).toNat)
  (seqHeads q).all (fun h => exps.all (fun e => decide (e + 192 ≤ (s.reg (Adr.trghMinInt h)).toNat)))

/-- `seq q<n> chan`: CHAN is not changed while EN is 1. -/
def doSeqChan (q : Fin 4) (e : Fin 4) (s : State) : CmdM CmdOk := do
  s.seqFree q
  finish (s.wrF (Adr.seqCtrl q) [(2, 1, some e.val)])

/-- `CMD_SEQ_CHAN`. -/
def execCmdSeqChan (ch : Chan) (q : Fin 4) (e : Fin 4) (s : State) : Out := .next (runCmd ch s (doSeqChan q e))

/-- `seq q<n> on|off`. -/
def doSeqOnOff (q : Fin 4) (on : Bool) (s : State) : CmdM CmdOk := do
  s.seqFree q
  check (!on || s.expFits q (s.seqBank q)) .refused
  finish (s.wrB (Adr.seqCtrl q) 0 on)

/-- `CMD_SEQ_ON_OFF`. -/
def execCmdSeqOnOff (ch : Chan) (q : Fin 4) (on : Bool) (s : State) : Out := .next (runCmd ch s (doSeqOnOff q on))

/-- `seq q<n> step <s>`. -/
def doSeqStep (q : Fin 4) (st : Qty) (l : LightSet) (s : State) : CmdM CmdOk := do
  s.seqFree q
  let i ← st.count 0 47
  check (!(s.seq q).swap) .busy
  finish (s.setLight (stepLight q (s.freeBank q) i) (stepExp q (s.freeBank q) i) l)

/-- `CMD_SEQ_STEP`. -/
def execCmdSeqStep (ch : Chan) (q : Fin 4) (st : Qty) (l : LightSet) (s : State) : Out :=
  .next (runCmd ch s (doSeqStep q st l))

/-- `seq q<n> len`. -/
def doSeqLen (q : Fin 4) (l : Qty) (s : State) : CmdM CmdOk := do
  s.seqFree q
  let n ← l.count 1 48
  check (!(s.seq q).swap) .busy
  finish (s.wrF (Adr.seqLen q) (if s.freeBank q then [(13, 8, some n)] else [(5, 0, some n)]))

/-- `CMD_SEQ_LEN`. -/
def execCmdSeqLen (ch : Chan) (q : Fin 4) (l : Qty) (s : State) : Out := .next (runCmd ch s (doSeqLen q l))

/-- `seq q<n> copy`: the length and the steps of the other bank are copied into the bank not in use. -/
def doSeqCopy (q : Fin 4) (s : State) : CmdM CmdOk := do
  s.seqFree q
  check (!(s.seq q).swap) .busy
  let b := s.freeBank q
  finish (do
    let t ← s.wrF (Adr.seqLen q) (if b then [(13, 8, some (s.seqLen q false))] else [(5, 0, some (s.seqLen q true))])
    (List.range 48).foldlM (fun t i => do
      let t ← t.wr (stepLight q b i) (s.reg (stepLight q (!b) i))
      t.wr (stepExp q b i) (s.reg (stepExp q (!b) i))) t)

/-- `CMD_SEQ_COPY`. -/
def execCmdSeqCopy (ch : Chan) (q : Fin 4) (s : State) : Out := .next (runCmd ch s (doSeqCopy q))

/-- AT names a point index: it lies within 2^31 of the last reached point (R67). -/
def State.atNames (s : State) (q k : Nat) : Bool := (fullIndex (s.sched (s.seqChan q)).k (k % 2 ^ 32)).toNat == k

/-- `seq q<n> swap`: BANK is toggled; ATMODE is 1 with `at` and 0 without. A point that AT cannot name is out of range. -/
def doSeqSwap (q : Fin 4) (at_ : Option Qty) (s : State) : CmdM CmdOk := do
  s.seqFree q
  let k ← conv at_ (fun v => v.count 0 (2 ^ 48 - 1))
  check (k.all (s.atNames q)) .range
  check (s.expFits q (!s.seqBank q)) .refused
  finish (do
    let s ← s.wrO (Adr.seqAtL q) (k.map (· % 65536))
    let s ← s.wrO (Adr.seqAtH q) (k.map (· / 65536 % 65536))
    s.wrF (Adr.seqCtrl q) [(8, 8, some (b2n k.isSome)), (3, 3, some (b2n (!s.seqBank q)))])

/-- `CMD_SEQ_SWAP`. -/
def execCmdSeqSwap (ch : Chan) (q : Fin 4) (at_ : Option Qty) (s : State) : Out :=
  .next (runCmd ch s (doSeqSwap q at_))

/-- `seq q<n> fixed`. -/
def doSeqFixed (q : Fin 4) (l : LightSet) (s : State) : CmdM CmdOk := do
  s.seqFree q
  finish (s.setLight (Adr.seqFixed q) (Adr.seqFixedExp q) l)

/-- `CMD_SEQ_FIXED`. -/
def execCmdSeqFixed (ch : Chan) (q : Fin 4) (l : LightSet) (s : State) : Out := .next (runCmd ch s (doSeqFixed q l))

/-- `seq q<n> tally h<n>`: the head is one the sequencer serves. -/
def doSeqTally (q : Fin 4) (h : Fin 16) (on : Bool) (s : State) : CmdM CmdOk := do
  s.seqFree q
  check (h.val / 4 == q.val) .range
  finish (s.wrB (Adr.seqCtrl q) (4 + h.val % 4) on)

/-- `CMD_SEQ_TALLY`. -/
def execCmdSeqTally (ch : Chan) (q : Fin 4) (h : Fin 16) (on : Bool) (s : State) : Out :=
  .next (runCmd ch s (doSeqTally q h on))

/-- `seq q<n>`: the report clears WRAP_CNT. -/
def doSeqReport (q : Fin 4) (s : State) : CmdM CmdOk := do
  check (s.on (facePd q)) .state
  s.reportOf "seq" ([Adr.seqCtrl q, Adr.seqLen q, Adr.seqFixed q, Adr.seqFixedExp q, Adr.seqStatus q, Adr.seqK0L q, Adr.seqK0H q,
    Adr.seqSwkL q, Adr.seqSwkH q, Adr.seqWrapCnt q]
    ++ (List.range 48).flatMap (fun i => [Adr.seqStep0Light q i, Adr.seqStep0Exp q i, Adr.seqStep1Light q i, Adr.seqStep1Exp q i])) []

/-- `CMD_SEQ_REPORT`. -/
def execCmdSeqReport (ch : Chan) (q : Fin 4) (s : State) : Out := .next (runCmd ch s (doSeqReport q))

end Sys2Proof.Machine
end

