-- ==== Sys2Proof/Machine/CmdRk.lean ====
section
/-!
DEFINITION. The commands `stock`, `riddle` and `kerf` (R195, R197, R222).
-/
namespace Sys2Proof.Machine

/-! ### `stock` -/

/-- The luma width of a head's stockpile lines (R191): of the context that stocks the head, or of one that takes lines
of its port, or of the port's IMG0. -/
def State.lumaWidth (s : State) (h : Nat) : Nat :=
  let f := h / 4
  let mine (c : Nat) : Bool := s.ctxPort f c == h
  let c := ((List.range 4).find? (fun c => mine c && s.ctxStock f c)).orElse (fun _ => (List.range 4).find? mine)
  match c with
  | some c =>
    let w := s.strWidth h (s.ctxStream f c)
    if s.fld (Adr.fctxCmode f c) 1 0 = 2 then w / 2 else w
  | none => s.strWidth h 0

/-- A stockpile placed in the pool (R195). -/
def State.allocStock (s : State) (h p : Nat) : CmdM State := do
  let s := s.unalloc (s.stockBase h p)
  let r ← s.alloc (s.stockDepth h p * (stockStride (s.lumaWidth h) + 32))
  r.2.setBase (Adr.stockBaseL h p) (Adr.stockBaseH h p) (dramBase + r.1)

/-- `stock h<n> p<p> depth on|off`: off acts first, on last (R352); DEPTH is not changed while the stockpile is enabled. -/
def doStock (h : Fin 16) (p : Fin 4) (depth : Option Qty) (on : Option Bool) (s : State) : CmdM CmdOk := do
  s.rkFree
  s.inService 0x28 (on == some true)
  let d ← conv depth (fun q => do within 1 256 (← q.plain 1 256))
  finish (do
    let a := Adr.stockCtrl h p
    let s ← if on == some false then s.wrB a 0 false else .ok s
    check (d.isNone || !s.stockEn h p) .busy
    let s ← s.wrF a [(8, 1, d.map (· - 1))]
    if on == some true && !s.stockEn h p then (← s.allocStock h p).wrB a 0 true else .ok s)

/-- `CMD_STOCK`. -/
def execCmdStock (ch : Chan) (h : Fin 16) (p : Fin 4) (depth : Option Qty) (on : Option Bool) (s : State) : Out :=
  .next (runCmd ch s (doStock h p depth on))

/-- `stock h<n>`. -/
def doStockReport (h : Fin 16) (s : State) : CmdM CmdOk := do
  check (s.on 4) .state
  s.reportOf "stock" ((List.range 4).flatMap (fun p => [Adr.stockCtrl h p, Adr.stockNewestL h p, Adr.stockNewestH h p,
    Adr.stockClosedL h p, Adr.stockClosedH h p, Adr.stockEpoch h p])) []

/-- `CMD_STOCK_REPORT`. -/
def execCmdStockReport (ch : Chan) (h : Fin 16) (s : State) : Out := .next (runCmd ch s (doStockReport h))

/-! ### `riddle` -/

/-- `riddle on|off`. -/
def doRiddleOnOff (on : Bool) (s : State) : CmdM CmdOk := do
  s.rkFree
  s.inService 0x1C on
  s.inService 0x28 on
  finish (s.wrB Adr.riddleCtrlEn 0 on)

/-- `CMD_RIDDLE_ON_OFF`. -/
def execCmdRiddleOnOff (ch : Chan) (on : Bool) (s : State) : Out := .next (runCmd ch s (doRiddleOnOff on))

/-- No commit is held (R222). -/
def State.geoFree (s : State) : CmdM Unit := check (!s.riddle.gpend) .busy

/-- `riddle commit`. -/
def doRiddleCommit (s : State) : CmdM CmdOk := do
  s.rkFree
  s.geoFree
  finish (s.wr Adr.riddleGcommitCommit 1)

/-- `CMD_RIDDLE_COMMIT`. -/
def execCmdRiddleCommit (ch : Chan) (s : State) : Out := .next (runCmd ch s doRiddleCommit)

/-- A0, A1 and A2 written to a head's shadows, in their units (R44). -/
def State.setGeo (s : State) (h : Nat) (g : Int × Int × Int) : CmdM State := do
  let a := (g.1 % 2 ^ 24).toNat
  let b := (g.2.1 % 2 ^ 24).toNat
  let s ← s.wr (Adr.riddleGeoA0L h) (word16 a 0)
  let s ← s.wr (Adr.riddleGeoA0H h) (word16 a 1)
  let s ← s.wr (Adr.riddleGeoA1L h) (word16 b 0)
  let s ← s.wr (Adr.riddleGeoA1H h) (word16 b 1)
  s.wr (Adr.riddleGeoA2 h) (BitVec.ofInt 20 g.2.2)

/-- `riddle head h<n>`: RIGHT names another head on the same channel. -/
def doRiddleHead (h : Fin 16) (geo : Option (Qty × Qty × Qty)) (right : Option (Option (Fin 16))) (s : State) : CmdM CmdOk := do
  s.rkFree
  s.geoFree
  let g ← conv geo (fun (a, b, c) => do
    let x ← withinI (-8388608) 8388607 (← a.len 1 1)
    let y ← withinI (-8388608) 8388607 (← b.len 65536 1)
    let z ← withinI (-524288) 524287 (← c.plain (2 ^ 32) 1)
    return (x, y, z))
  check (right.all (fun r => r.all (fun n => n != h && s.headChan n == s.headChan h))) .refused
  finish (do
    let s ← given g s (fun s g => s.setGeo h g)
    s.wrF (Adr.riddleGeoRight h) [(4, 0, right.map (fun r => match r with | some n => 16 + n.val | none => 0))])

/-- `CMD_RIDDLE_HEAD`. -/
def execCmdRiddleHead (ch : Chan) (h : Fin 16) (geo : Option (Qty × Qty × Qty)) (right : Option (Option (Fin 16))) (s : State) : Out :=
  .next (runCmd ch s (doRiddleHead h geo right))

/-- `riddle chan e<n> upc`: µm per count in 2⁻¹⁰ µm. -/
def doRiddleChan (e : Fin 4) (upc : Qty) (s : State) : CmdM CmdOk := do
  s.rkFree
  s.geoFree
  let v ← within 1 0xFFFFF (← upc.len 1024 1)
  finish (s.wrO (Adr.riddleUpc e) (some v))

/-- `CMD_RIDDLE_CHAN`. -/
def execCmdRiddleChan (ch : Chan) (e : Fin 4) (upc : Qty) (s : State) : Out :=
  .next (runCmd ch s (doRiddleChan e upc))

/-! ### `riddle calibrate` (R197) -/

/-- The sum of a list. -/
def sumI (l : List Int) : Int := l.foldl (· + ·) 0

/-- The determinant of a 3 × 3 matrix in row order. -/
def det3 (a b c d e f g h i : Int) : Int := a * (e * i - f * h) - b * (d * i - f * g) + c * (d * h - e * g)

/-- The least-squares quadratic through (c, x): the numerators of its coefficients and their common denominator. -/
def fitQuad (l : List (Int × Int)) : (Int × Int × Int) × Int :=
  let s (n : Nat) : Int := sumI (l.map (fun p => p.1 ^ n))
  let t (n : Nat) : Int := sumI (l.map (fun p => p.1 ^ n * p.2))
  ((det3 (t 0) (s 1) (s 2) (t 1) (s 2) (s 3) (t 2) (s 3) (s 4),
    det3 (s 0) (t 0) (s 2) (s 1) (t 1) (s 3) (s 2) (t 2) (s 4),
    det3 (s 0) (s 1) (t 0) (s 1) (s 2) (t 1) (s 2) (s 3) (t 2)),
   det3 (s 0) (s 1) (s 2) (s 1) (s 2) (s 3) (s 2) (s 3) (s 4))

/-- The reads of a head. -/
def State.targetOf (s : State) (h : Nat) : List TargetRead := s.riddle.target.filter (fun r => r.head == h)

/-- The fit of a head as A0, A1 and A2 in their units, columns being in 2⁻⁸ pixels; none where the head is rejected:
fewer than 16 reads, less than 75 % of its columns, a residual RMS above 0.25 × |A1| µm, or a value outside its field. -/
def State.headFit (s : State) (h : Nat) : Option (Int × Int × Int) :=
  let rs := s.targetOf h
  let l := rs.map (fun r => (r.col, r.x))
  let cols := l.map (·.1)
  let lo := cols.foldl min (cols.headD 0)
  let hi := cols.foldl max (cols.headD 0)
  let q := fitQuad l
  let d := q.2
  let res := l.map (fun p => p.2 * d - (q.1.1 + q.1.2.1 * p.1 + q.1.2.2 * p.1 * p.1))
  let g : Int × Int × Int := (sdiv q.1.1 d, sdiv (q.1.2.1 * 2 ^ 24) d, sdiv (q.1.2.2 * 2 ^ 48) d)
  if rs.length < 16 || decide (4 * (hi - lo) < 3 * 256 * (s.lumaWidth h : Int)) || d == 0
      || decide ((rs.length : Int) * (q.1.2.1 * 256) ^ 2 < 16 * sumI (res.map (fun r => r * r)))
      || decide (g.1 < -8388608) || decide (8388607 < g.1) || decide (g.2.1 < -8388608) || decide (8388607 < g.2.1)
      || decide (g.2.2 < -524288) || decide (524287 < g.2.2) then none
  else some g

/-- The sum of POSITION − y / UPC over reads, relative to a position, in units of 1 / UPC counts. -/
def State.offsetSum (s : State) (base : BitVec 48) (h : Nat) : Int :=
  sumI ((s.targetOf h).map (fun r => diff48 r.pos base * (s.geoUpc s.riddle.gset r.chan : Int) - 1024 * r.y))

/-- The corrected delay D_h + δ_h of a head, rounded to the nearest count. -/
def State.newDelay (s : State) (h ref : Nat) : Int :=
  let base := ((s.targetOf ref).head?.map (·.pos)).getD 0
  let mean (i : Nat) : Int × Int := (s.offsetSum base i, (s.targetOf i).length * (s.geoUpc s.riddle.gset (s.headChan i) : Int))
  let a := mean h
  let b := mean ref
  sext 24 (s.fld (Adr.trghDelayL h) 15 0 + 65536 * s.fld (Adr.trghDelayH h) 7 0) + sdiv (a.1 * b.2 - b.1 * a.2) (max 1 (a.2 * b.2))

/-- The report of a head: its fit and corrected delay, or its rejection. -/
def State.fitReport (s : State) (ref h : Nat) : List Int :=
  match s.headFit h with
  | some g => [h, 1, g.1, g.2.1, g.2.2, s.newDelay h ref]
  | none => [h, 0]

/-- `riddle calibrate`: the heads' fits go into the geometry shadows and are reported; the next calibration begins with
no reads. -/
def doRiddleCalibrate (heads : List (Fin 16)) (ref : Option (Fin 16)) (s : State) : CmdM CmdOk := do
  s.rkFree
  check (!heads.isEmpty) .syntax_
  let r := (ref.map Fin.val).getD (heads.foldl (fun m h => min m h.val) 15)
  let vals := heads.flatMap (fun (h : Fin 16) => s.fitReport r h.val)
  let t ← heads.foldlM (fun t (h : Fin 16) => given (s.headFit h) t (fun t g => t.setGeo h g)) s
  return { st := t.setRiddle { t.riddle with target := [] }, report := reportLines "riddle calibrate" vals, long := some (.calibrate, .nothing) }

/-- `CMD_RIDDLE_CALIBRATE`. (DEDUCED, log 116) -/
def execCmdRiddleCalibrate (ch : Chan) (heads : List (Fin 16)) (ref : Option (Fin 16)) (s : State) : Out :=
  .next (runCmd ch s (doRiddleCalibrate heads ref))

/-! ### Rules and dispatch -/

/-- `riddle join`. -/
def doRiddleJoin (edge angle lead timeout : Option Qty) (s : State) : CmdM CmdOk := do
  s.rkFree
  let e ← conv edge (fun q => q.count 0 255)
  let a ← conv angle (fun q => do within 0 4095 (← q.angle 100 1))
  let l ← conv lead (fun q => q.count 0 0xFFFFF)
  let t ← conv timeout (fun q => do within 1 65535 (← q.time 1000000))
  finish (do
    let s ← s.wrF Adr.riddleJoin [(7, 0, e), (19, 8, a)]
    let s ← s.wrO Adr.riddleJoinLead l
    s.wrO Adr.riddleJoinTmo t)

/-- `CMD_RIDDLE_JOIN`. -/
def execCmdRiddleJoin (ch : Chan) (edge angle lead timeout : Option Qty) (s : State) : Out :=
  .next (runCmd ch s (doRiddleJoin edge angle lead timeout))

/-- `riddle dup`: `window off` writes 0. -/
def doRiddleDup (dist angle : Option Qty) (window : Option (Option Qty)) (s : State) : CmdM CmdOk := do
  s.rkFree
  let d ← conv dist (fun q => do within 0 65535 (← q.len 1 1))
  let a ← conv angle (fun q => do within 0 4095 (← q.angle 100 1))
  let w ← conv window (fun o => match o with | some q => q.count 0 0xFFFFF | none => .ok 0)
  finish (do
    let s ← s.wrO Adr.riddleDupDist d
    let s ← s.wrO Adr.riddleDupAng a
    s.wrO Adr.riddleDupWin w)

/-- `CMD_RIDDLE_DUP`. -/
def execCmdRiddleDup (ch : Chan) (dist angle : Option Qty) (window : Option (Option Qty)) (s : State) : Out :=
  .next (runCmd ch s (doRiddleDup dist angle window))

/-- The number of a class: 0 LINEAR, 1 GRID, 2 DOT. -/
def classNo : CandClass → Nat
  | .linear => 0 | .grid => 1 | .dot => 2

/-- `riddle class`. -/
def doRiddleClass (cls : CandClass) (scale margin deadline : Option Qty) (bicubic : Option Bool)
    (benches : Option (List (Fin 8))) (s : State) : CmdM CmdOk := do
  s.rkFree
  let i := classNo cls
  let c ← conv scale (fun q => do within 64 1024 (← q.plain 256 1))
  let m ← conv margin (fun q => do within 0 65535 (← q.len 1 1))
  let d ← conv deadline (fun q => do within 1 25000 (← q.time 1000000))
  finish (do
    let s ← s.wrO (Adr.riddleClsScale i) c
    let s ← s.wrO (Adr.riddleClsPmargin i) m
    let s ← s.wrO (Adr.riddleClsDeadline i) d
    s.wrF (Adr.riddleClsCut i) [(0, 0, onOff bicubic), (8, 1, benches.map chanBits)])

/-- `CMD_RIDDLE_CLASS`. -/
def execCmdRiddleClass (ch : Chan) (cls : CandClass) (scale margin deadline : Option Qty) (bicubic : Option Bool)
    (benches : Option (List (Fin 8))) (s : State) : Out :=
  .next (runCmd ch s (doRiddleClass cls scale margin deadline bicubic benches))

/-- `riddle bench b<n> area slots size`: not while the bench is in BENCHES; the area lies within 20-bit word
addresses. -/
def doRiddleBenchArea (b : Fin 8) (area slots size : Option Qty) (s : State) : CmdM CmdOk := do
  s.rkFree
  let a ← conv area (fun q => q.count 0 0xFFFFF)
  let n ← conv slots (fun q => q.count 1 63)
  let z ← conv size (fun q => q.count 1 512)
  let base := a.getD (s.reg (Adr.riddleParea b)).toNat
  let w := fields (s.reg (Adr.riddlePslot b)) [(9, 0, z), (15, 10, n)]
  check (decide (base + bits w.toNat 15 10 * bits w.toNat 9 0 * 1024 ≤ 0x100000)) .range
  check (!s.flag Adr.riddleBenches b) .busy
  finish (do
    let s ← s.wrO (Adr.riddleParea b) a
    s.wrF (Adr.riddlePslot b) [(9, 0, z), (15, 10, n)])

/-- `CMD_RIDDLE_BENCH_AREA`. -/
def execCmdRiddleBenchArea (ch : Chan) (b : Fin 8) (area slots size : Option Qty) (s : State) : Out :=
  .next (runCmd ch s (doRiddleBenchArea b area slots size))

/-- `riddle bench b<n> on|off`. -/
def doRiddleBenchOnOff (b : Fin 8) (on : Bool) (s : State) : CmdM CmdOk := do
  s.rkFree
  s.inService (0x30 + b.val) on
  check (!on || s.on (benchPd b)) .state
  finish (s.wrB Adr.riddleBenches b on)

/-- `CMD_RIDDLE_BENCH_ON_OFF`. (DEDUCED, log 117) -/
def execCmdRiddleBenchOnOff (ch : Chan) (b : Fin 8) (on : Bool) (s : State) : Out :=
  .next (runCmd ch s (doRiddleBenchOnOff b on))

/-- `kerf k<n>` with settings. -/
def doKerf (k : Fin 8) (on : Option Bool) (fill : Option Qty) (s : State) : CmdM CmdOk := do
  s.rkFree
  s.inService (0x20 + k.val) (on == some true)
  let f ← conv fill (fun q => q.count 0 255)
  finish (do
    let s ← s.wrO (Adr.kerfFill k) f
    s.wrO (Adr.kerfCtrlEn k) (onOff on))

/-- `CMD_KERF`. -/
def execCmdKerf (ch : Chan) (k : Fin 8) (on : Option Bool) (fill : Option Qty) (s : State) : Out :=
  .next (runCmd ch s (doKerf k on fill))

/-- The registers of `riddle` alone; the counters are RC. -/
def riddleRegs : List Nat :=
  [Adr.riddleCtrlEn, Adr.riddleStatus, Adr.riddleUsed, Adr.riddleJoin, Adr.riddleJoinLead, Adr.riddleJoinTmo, Adr.riddleDupDist,
   Adr.riddleDupAng, Adr.riddleDupWin, Adr.riddleBenches, Adr.riddleInqOvf, Adr.riddleNostock, Adr.riddleJoined, Adr.riddleSolo,
   Adr.riddleDup, Adr.riddleShadow, Adr.riddleRetry, Adr.riddleEvict, Adr.riddleExpired, Adr.riddleClipped, Adr.riddleRedo]
  ++ (List.range 4).map Adr.riddleUpc
  ++ (List.range 3).flatMap (fun i => [Adr.riddleClsScale i, Adr.riddleClsPmargin i, Adr.riddleClsDeadline i, Adr.riddleClsCut i])
  ++ (List.range 8).flatMap (fun b => [Adr.riddleParea b, Adr.riddlePslot b, Adr.riddleOut b])

/-- `riddle`. -/
def doRiddleReport (s : State) : CmdM CmdOk := do
  check (s.on 4) .state
  s.reportOf "riddle" riddleRegs []

/-- `CMD_RIDDLE_REPORT`. -/
def execCmdRiddleReport (ch : Chan) (s : State) : Out := .next (runCmd ch s doRiddleReport)

/-- `kerf k<n>`. -/
def doKerfReport (k : Fin 8) (s : State) : CmdM CmdOk := do
  check (s.on 4) .state
  s.reportOf "kerf" [Adr.kerfCtrlEn k, Adr.kerfFill k, Adr.kerfStatus k, Adr.kerfPix k, Adr.kerfPartial k, Adr.kerfLate k,
    Adr.kerfAbort k] []

/-- `CMD_KERF_REPORT`. -/
def execCmdKerfReport (ch : Chan) (k : Fin 8) (s : State) : Out := .next (runCmd ch s (doKerfReport k))

end Sys2Proof.Machine
end

