-- ==== Sys2Proof/Machine/CmdSeam.lean ====
section
/-!
DEFINITION. The command `seam` (R190).
-/
namespace Sys2Proof.Machine

/-- `seam s<n> on|off margin hmax`. -/
def doSeamCtrl (u : Fin 4) (on : Option Bool) (margin hmax : Option Qty) (s : State) : CmdM CmdOk := do
  s.seamFree u
  s.inService (0x18 + u.val) (on == some true)
  let m ← conv margin (fun q => q.count 1 8)
  let h ← conv hmax (fun q => q.count 1 255)
  finish (s.wrF (Adr.seamCtrl u) [(3, 1, m.map (· - 1)), (11, 4, h), (0, 0, onOff on)])

/-- `CMD_SEAM_CTRL`. -/
def execCmdSeamCtrl (ch : Chan) (u : Fin 4) (on : Option Bool) (margin hmax : Option Qty) (s : State) : Out :=
  .next (runCmd ch s (doSeamCtrl u on margin hmax))

/-- MODE, PLANE_A and PLANE_B of a plane setting (R169, R190): MAX or MIN with equal planes is refused. -/
def planeFields : Option SeamPlanes → CmdM (List (Nat × Nat × Option Nat))
  | none => .ok []
  | some (.single p) => do return [(2, 1, some 0), (4, 3, some (← p.count 0 3))]
  | some (.max a b) => two 1 a b
  | some (.min a b) => two 2 a b
where
  /-- Both planes of MAX or MIN. -/
  two (mode : Nat) (a b : Qty) : CmdM (List (Nat × Nat × Option Nat)) := do
    let x ← a.count 0 3
    let y ← b.count 0 3
    check (x != y) .refused
    return [(2, 1, some mode), (4, 3, some x), (6, 5, some y)]

/-- `seam s<n> c<n>`: the context has an enabled Face source. -/
def doSeamSrc (u c : Fin 4) (pl : Option SeamPlanes) (on : Option Bool) (s : State) : CmdM CmdOk := do
  s.seamFree u
  let l ← planeFields pl
  check (s.ctxEn u c) .state
  finish (s.wrF (Adr.sctxSrc u c) (l ++ [(0, 0, onOff on)]))

/-- `CMD_SEAM_SRC`. (DEDUCED, log 115) -/
def execCmdSeamSrc (ch : Chan) (u c : Fin 4) (pl : Option SeamPlanes) (on : Option Bool) (s : State) : Out :=
  .next (runCmd ch s (doSeamSrc u c pl on))

/-- `seam s<n> vote`. -/
def doSeamVote (u : Fin 4) (mag count mass : Option Qty) (s : State) : CmdM CmdOk := do
  s.seamFree u
  let m ← conv mag (fun q => q.count 0 1530)
  let n ← conv count (fun q => q.count 0 256)
  let x ← conv mass (fun q => q.count 0 391680)
  finish (do
    let s ← s.wrO (Adr.seamMagMagMin u) m
    let s ← s.wrO (Adr.seamVotesNMin u) n
    s.wrO (Adr.seamMassMMin u) x)

/-- `CMD_SEAM_VOTE`. -/
def execCmdSeamVote (ch : Chan) (u : Fin 4) (mag count mass : Option Qty) (s : State) : Out :=
  .next (runCmd ch s (doSeamVote u mag count mass))

/-- `seam s<n> dot`. -/
def doSeamDot (u : Fin 4) (con mn : Option Qty) (pol : Option (Fin 4)) (s : State) : CmdM CmdOk := do
  s.seamFree u
  let c ← conv con (fun q => q.count 1 255)
  let m ← conv mn (fun q => q.count 1 256)
  finish (s.wrF (Adr.seamDot u) [(7, 0, c), (16, 8, m), (18, 17, pol.map Fin.val)])

/-- `CMD_SEAM_DOT`. -/
def execCmdSeamDot (ch : Chan) (u : Fin 4) (con mn : Option Qty) (pol : Option (Fin 4)) (s : State) : Out :=
  .next (runCmd ch s (doSeamDot u con mn pol))

/-- `seam s<n> linear`. -/
def doSeamLinear (u : Fin 4) (conc bal : Option Qty) (s : State) : CmdM CmdOk := do
  s.seamFree u
  let c ← conv conc (fun q => q.count 0 255)
  let b ← conv bal (fun q => q.count 0 255)
  finish (s.wrF (Adr.seamLin u) [(7, 0, c), (15, 8, b)])

/-- `CMD_SEAM_LINEAR`. -/
def execCmdSeamLinear (ch : Chan) (u : Fin 4) (conc bal : Option Qty) (s : State) : Out :=
  .next (runCmd ch s (doSeamLinear u conc bal))

/-- `seam s<n> grid`. -/
def doSeamGrid (u : Fin 4) (conc orth : Option Qty) (s : State) : CmdM CmdOk := do
  s.seamFree u
  let c ← conv conc (fun q => q.count 0 255)
  let o ← conv orth (fun q => q.count 0 255)
  finish (s.wrF (Adr.seamGrid u) [(7, 0, c), (15, 8, o)])

/-- `CMD_SEAM_GRID`. -/
def execCmdSeamGrid (ch : Chan) (u : Fin 4) (conc orth : Option Qty) (s : State) : Out :=
  .next (runCmd ch s (doSeamGrid u conc orth))

/-- `seam s<n> tol mintiles`. -/
def doSeamTol (u : Fin 4) (tol : Option Qty) (mint : Option (Qty × Qty × Qty)) (s : State) : CmdM CmdOk := do
  s.seamFree u
  let t ← conv tol (fun q => q.count 0 7)
  let m ← conv mint (fun (l, g, d) => do return (← l.count 1 63) + 64 * (← g.count 1 63) + 4096 * (← d.count 1 63))
  finish (do
    let s ← s.wrO (Adr.seamOriTol u) t
    s.wrO (Adr.seamMint u) m)

/-- `CMD_SEAM_TOL`. -/
def execCmdSeamTol (ch : Chan) (u : Fin 4) (tol : Option Qty) (mint : Option (Qty × Qty × Qty)) (s : State) : Out :=
  .next (runCmd ch s (doSeamTol u tol mint))

/-- `seam s<n> c<n>` alone: the report clears the RC counters. -/
def doSeamReport (u c : Fin 4) (s : State) : CmdM CmdOk := do
  check (s.on 4) .state
  s.reportOf "seam" ([Adr.sctxSrc u c, Adr.sctxSlabcnt u c, Adr.sctxCand u c, Adr.sctxCandOvf u c, Adr.sctxRegOvf u c,
    Adr.sctxSmall u c, Adr.sctxRestart u c, Adr.sctxUnpaired u c] ++ (List.range 6).map (Adr.sctxCls u c)) []

/-- `CMD_SEAM_REPORT`. -/
def execCmdSeamReport (ch : Chan) (u c : Fin 4) (s : State) : Out := .next (runCmd ch s (doSeamReport u c))

end Sys2Proof.Machine
end

