-- ==== Sys2Proof/Machine/CmdSym.lean ====
section
/-!
DEFINITION. The commands `sym` (R241), `grade` and `result` (R261). Their settings are firmware settings (R240): they stay
with the foreman while units are released (R377).
-/
namespace Sys2Proof.Machine

/-- 2D options fit 2D symbologies, 1D options 1D symbologies (R241). (DEDUCED, log 118) -/
def kindFits (sym : SymId) (two : Bool) : CmdM Unit := check (sym.val != 0 && is2d sym.val == two) .syntax_

/-- A firmware setting of a symbology changed. -/
def State.setSymbology (s : State) (sym : Nat) (g : SymSet → SymSet) : State := s.setFw (s.fw.setSym sym (g (s.fw.sym sym)))

/-- `sym <name> on|off`. -/
def doSymEnable (sym : SymId) (on : Bool) (s : State) : CmdM CmdOk := do
  s.clear .fw
  check (sym.val != 0) .syntax_
  done (s.setSymbology sym (fun x => { x with on := on }))

/-- `CMD_SYM_ENABLE`. -/
def execCmdSymEnable (ch : Chan) (sym : SymId) (on : Bool) (s : State) : Out :=
  .next (runCmd ch s (doSymEnable sym on))

/-- The symbologies that a class may list (R241). -/
def classTakes (cls : CandClass) (id : Nat) : Bool :=
  match cls with
  | .linear => decide (4 ≤ id) && decide (id ≤ 11)
  | .grid => id == 1 || id == 2
  | .dot => id == 3 || id == 1

/-- No number stands twice in a list. -/
def onceEach : List Nat → Bool
  | [] => true
  | a :: l => !l.contains a && onceEach l

/-- `sym order`. -/
def doSymOrder (cls : CandClass) (order : List SymId) (s : State) : CmdM CmdOk := do
  s.clear .fw
  let l := order.map Fin.val
  check (onceEach l && l.all (classTakes cls)) .refused
  done (s.setFw (match cls with
    | .linear => { s.fw with orderLin := l }
    | .grid => { s.fw with orderGrid := l }
    | .dot => { s.fw with orderDot := l }))

/-- `CMD_SYM_ORDER`. -/
def execCmdSymOrder (ch : Chan) (cls : CandClass) (order : List SymId) (s : State) : Out :=
  .next (runCmd ch s (doSymOrder cls order))

/-- `sym <2d> polarity mirror`. -/
def doSymPolarity (sym : SymId) (pol mirror : Option Tri) (s : State) : CmdM CmdOk := do
  s.clear .fw
  kindFits sym true
  done (s.setSymbology sym (fun x => { x with pol := pol.getD x.pol, mirror := mirror.getD x.mirror }))

/-- `CMD_SYM_POLARITY`. -/
def execCmdSymPolarity (ch : Chan) (sym : SymId) (pol mirror : Option Tri) (s : State) : Out :=
  .next (runCmd ch s (doSymPolarity sym pol mirror))

/-- `sym <2d> erase conf max`. -/
def doSymErase (sym : SymId) (conf mx : Option Qty) (s : State) : CmdM CmdOk := do
  s.clear .fw
  kindFits sym true
  let c ← conv conf (fun q => q.count 0 255)
  let m ← conv mx (fun q => do within 0 100 (← q.pct 1 1))
  done (s.setSymbology sym (fun x => { x with eraseConf := c.getD x.eraseConf, eraseMax := m.getD x.eraseMax }))

/-- `CMD_SYM_ERASE`. -/
def execCmdSymErase (ch : Chan) (sym : SymId) (conf mx : Option Qty) (s : State) : Out :=
  .next (runCmd ch s (doSymErase sym conf mx))

/-- `sym <2d> reserve`. -/
def doSymReserve (sym : SymId) (n : Qty) (s : State) : CmdM CmdOk := do
  s.clear .fw
  kindFits sym true
  let v ← n.count 0 80
  done (s.setSymbology sym (fun x => { x with reserve := v }))

/-- `CMD_SYM_RESERVE`. -/
def execCmdSymReserve (ch : Chan) (sym : SymId) (n : Qty) (s : State) : Out :=
  .next (runCmd ch s (doSymReserve sym n))

/-- `sym <1d> scans agree qz`: AGREE is at most SCANS. -/
def doSymScans (sym : SymId) (scans agree qz : Option Qty) (s : State) : CmdM CmdOk := do
  s.clear .fw
  kindFits sym false
  let n ← conv scans (fun q => q.count 1 32)
  let a ← conv agree (fun q => q.count 1 32)
  let z ← conv qz (fun q => q.count 0 20)
  let x := s.fw.sym sym
  let x := { x with scans := n.getD x.scans, agree := a.getD x.agree, qz := z.getD x.qz }
  check (decide (x.agree ≤ x.scans)) .range
  done (s.setSymbology sym (fun _ => x))

/-- `CMD_SYM_SCANS`. -/
def execCmdSymScans (ch : Chan) (sym : SymId) (scans agree qz : Option Qty) (s : State) : Out :=
  .next (runCmd ch s (doSymScans sym scans agree qz))

/-- A range of lengths: 1 to 80 characters, the lower first. -/
def lenRange (r : Qty × Qty) : CmdM (Nat × Nat) := do
  let a ← r.1.count 1 80
  let b ← r.2.count 1 80
  check (decide (a ≤ b)) .range
  return (a, b)

/-- `sym code39`. -/
def doSymCode39 (chk fullascii : Option Bool) (len : Option (Qty × Qty)) (s : State) : CmdM CmdOk := do
  s.clear .fw
  let l ← conv len lenRange
  done (s.setSymbology 6 (fun x => { x with
    check := chk.getD x.check, fullascii := fullascii.getD x.fullascii,
    lenMin := (l.map (·.1)).getD x.lenMin, lenMax := (l.map (·.2)).getD x.lenMax }))

/-- `CMD_SYM_CODE39`. -/
def execCmdSymCode39 (ch : Chan) (chk fullascii : Option Bool) (len : Option (Qty × Qty)) (s : State) : Out :=
  .next (runCmd ch s (doSymCode39 chk fullascii len))

/-- An even length of Interleaved 2 of 5. -/
def evenLen (q : Qty) : CmdM Nat := do
  let n ← q.count 1 80
  check (n % 2 == 0) .range
  return n

/-- `sym i2of5`: a range, or a list of up to 8 even lengths. -/
def doSymI2of5 (chk : Option Bool) (range : Option (Qty × Qty)) (lens : Option (List Qty)) (s : State) : CmdM CmdOk := do
  s.clear .fw
  check (range.isNone || lens.isNone) .syntax_
  let r ← conv range (fun p => do
    let l ← lenRange p
    check (l.1 % 2 == 0 && l.2 % 2 == 0) .range
    return l)
  let l ← conv lens (fun l => do
    check (!l.isEmpty && decide (l.length ≤ 8)) .range
    convAll evenLen l)
  done (s.setSymbology 7 (fun x => { x with
    check := chk.getD x.check,
    lenMin := (r.map (·.1)).getD x.lenMin, lenMax := (r.map (·.2)).getD x.lenMax,
    lens := if r.isSome then [] else l.getD x.lens }))

/-- `CMD_SYM_I2OF5`. -/
def execCmdSymI2of5 (ch : Chan) (chk : Option Bool) (range : Option (Qty × Qty)) (lens : Option (List Qty)) (s : State) : Out :=
  .next (runCmd ch s (doSymI2of5 chk range lens))

/-- `sym gs1 strict`. -/
def doSymGs1 (on : Bool) (s : State) : CmdM CmdOk := do
  s.clear .fw
  done (s.setFw { s.fw with gs1Strict := on })

/-- `CMD_SYM_GS1`. -/
def execCmdSymGs1 (ch : Chan) (on : Bool) (s : State) : Out := .next (runCmd ch s (doSymGs1 on))

/-- A polarity or mirror setting as a number. -/
def Tri.num : Tri → Nat
  | .first => 0
  | .second => 1
  | .auto => 2

/-- The values of a symbology's report: the settings of R240 that it has, its reads, and its NOREADs by cause. -/
def symValues (id : Nat) (x : SymSet) : List Int :=
  ([id, b2n x.on] ++ (if is2d id then [Tri.num x.pol, Tri.num x.mirror, x.eraseConf, x.eraseMax, x.reserve]
      else [x.scans, x.agree, x.qz])
    ++ (if id = 6 || id = 7 then [b2n x.check, b2n x.fullascii, x.lenMin, x.lenMax, x.lens.length] ++ x.lens else [])
    ++ [x.reads, x.noreads.length] ++ x.noreads.flatMap (fun p => [p.1, p.2])).map Int.ofNat

/-- `sym`, `sym <name>`: the report begins the counts anew. `sym` reports the orders of the classes, GS1 strict, and under
identifier 0 the NOREADs that carry no symbology as well. -/
def doSymReport (sym : Option SymId) (s : State) : CmdM CmdOk := do
  let ids := match sym with
    | some i => [i.val]
    | none => List.range 12
  check (sym.all (fun i => i.val != 0)) .syntax_
  let orders := [s.fw.orderLin, s.fw.orderGrid, s.fw.orderDot].flatMap (fun l => l.length :: l)
  let vals := (if sym.isNone then (b2n s.fw.gs1Strict :: orders).map Int.ofNat else [])
    ++ ids.flatMap (fun i => symValues i (s.fw.sym i))
  reports (ids.foldl (fun s i => s.setSymbology i (fun x => { x with reads := 0, noreads := [] })) s) "sym" vals

/-- `CMD_SYM_REPORT`. -/
def execCmdSymReport (ch : Chan) (sym : Option SymId) (s : State) : Out := .next (runCmd ch s (doSymReport sym))

/-! ### `grade` -/

/-- `grade <name>|all on|off`. -/
def doGradeEnable (sym : Option SymId) (on : Bool) (s : State) : CmdM CmdOk := do
  s.clear .fw
  check (sym.all (fun i => i.val != 0)) .syntax_
  let ids := match sym with
    | some i => [i.val]
    | none => (List.range 12).drop 1
  done (ids.foldl (fun s i => s.setSymbology i (fun x => { x with grade := on })) s)

/-- `CMD_GRADE_ENABLE`. -/
def execCmdGradeEnable (ch : Chan) (sym : Option SymId) (on : Bool) (s : State) : Out :=
  .next (runCmd ch s (doGradeEnable sym on))

/-- `grade aperture`. -/
def doGradeAperture (pc : Qty) (s : State) : CmdM CmdOk := do
  s.clear .fw
  let v ← within 20 200 (← pc.pct 1 1)
  done (s.setFw { s.fw with aper := v })

/-- `CMD_GRADE_APERTURE`. -/
def execCmdGradeAperture (ch : Chan) (pc : Qty) (s : State) : Out := .next (runCmd ch s (doGradeAperture pc))

/-- `grade refl`: K_hp is the percentage over y8, kept as an exact fraction. -/
def doGradeRefl (h : Fin 16) (p : Fin 4) (y8 pc : Qty) (s : State) : CmdM CmdOk := do
  s.clear .fw
  let y ← y8.count 1 255
  check (pc.u == .none || pc.u == .pct) .unit
  check pc.short .syntax_
  check (decide (0 ≤ pc.m) && decide (pc.m ≤ 100 * 10 ^ pc.e)) .range
  done (s.setFw { s.fw with
    refl := SMap.set (fun _ => (100, 255)) s.fw.refl (4 * h.val + p.val) (pc.m.toNat, y * 10 ^ pc.e) })

/-- `CMD_GRADE_REFL`. (DEDUCED, log 119) -/
def execCmdGradeRefl (ch : Chan) (h : Fin 16) (p : Fin 4) (y8 pc : Qty) (s : State) : Out :=
  .next (runCmd ch s (doGradeRefl h p y8 pc))

/-- A monitor with the settings given; while it is off every setting is needed (R352). -/
def trendOf (old : Option TrendMon) (sym : Option (Option SymId)) (heads : Option (List (Fin 16))) (planes : Option (List (Fin 4)))
    (param : Option GradeParam) (window below above : Option Nat) (nr : Option Bool) : CmdM TrendMon :=
  match old with
  | some m => .ok {
      sym := (sym.map (·.map Fin.val)).getD m.sym, heads := (heads.map (·.map Fin.val)).getD m.heads,
      planes := (planes.map (·.map Fin.val)).getD m.planes, param := param.getD m.param, window := window.getD m.window,
      below := below.getD m.below, above := above.getD m.above, noread := nr.getD m.noread }
  | none =>
    match sym, heads, planes, param, window, below, above, nr with
    | some y, some h, some p, some g, some w, some b, some a, some n =>
      .ok { sym := y.map Fin.val, heads := h.map Fin.val, planes := p.map Fin.val, param := g, window := w, below := b, above := a,
            noread := n }
    | _, _, _, _, _, _, _, _ => .error .syntax_

/-- `grade trend t<n>`: the monitor is set, in state OK with its window empty (R250), or turned off. -/
def doGradeTrend (t : Fin 8) (off : Bool) (sym : Option (Option SymId)) (heads : Option (List (Fin 16)))
    (planes : Option (List (Fin 4))) (param : Option GradeParam) (window below above : Option Qty) (countNoread : Option Bool) (s : State) : CmdM CmdOk := do
  s.clear .fw
  if off then done (s.setFw (s.fw.setTrend t none))
  else
    check (sym.all (fun o => o.all (fun i => i.val != 0))) .syntax_
    let w ← conv window (fun q => q.count 1 1024)
    let b ← conv below (fun q => do within 0 40 (← q.plain 10 1))
    let a ← conv above (fun q => do within 0 40 (← q.plain 10 1))
    let m ← trendOf (s.fw.trend t) sym heads planes param w b a countNoread
    check (decide (m.below ≤ m.above)) .range
    check (m.sym.all (fun y => (paramNib y m.param).isSome)) .refused
    done (s.setFw (s.fw.setTrend t (some m)))

/-- `CMD_GRADE_TREND`. -/
def execCmdGradeTrend (ch : Chan) (t : Fin 8) (off : Bool) (sym : Option (Option SymId)) (heads : Option (List (Fin 16)))
    (planes : Option (List (Fin 4))) (param : Option GradeParam) (window below above : Option Qty) (countNoread : Option Bool) (s : State) : Out :=
  .next (runCmd ch s (doGradeTrend t off sym heads planes param window below above countNoread))

/-- The values of a monitor's report: its settings, its state and its mean in tenths. -/
def trendValues : Option TrendMon → List Int
  | none => [0]
  | some m => ([1, m.sym.getD 0, m.heads.length] ++ m.heads ++ [m.planes.length] ++ m.planes
      ++ [m.param.ctorIdx, m.window, m.below, m.above, b2n m.noread, b2n m.low,
        10 * m.entries.foldl (· + ·) 0 / max 1 m.entries.length]).map Int.ofNat

/-- `grade`. -/
def doGradeReport (s : State) : CmdM CmdOk :=
  reports s "grade" ([(s.fw.aper : Int), ((s.chan 0).textLost : Int), ((s.chan 1).textLost : Int),
      (match s.fw.text with
        | some u => (u : Int)
        | none => -1), (b2n s.fw.detail : Int)]
    ++ (List.range 64).flatMap (fun k => [((s.fw.khp k).1 : Int), ((s.fw.khp k).2 : Int)])
    ++ (List.range 11).map (fun i => (b2n (s.fw.sym (i + 1)).grade : Int))
    ++ (List.range 8).flatMap (fun t => trendValues (s.fw.trend t)))

/-- `CMD_GRADE_REPORT`. -/
def execCmdGradeReport (ch : Chan) (s : State) : Out := .next (runCmd ch s doGradeReport)

/-! ### `result` -/

/-- `result text uart0|uart1|off detail on|off`. -/
def doResultText (port : Option (Option (Fin 2))) (detail : Option Bool) (s : State) : CmdM CmdOk := do
  s.clear .fw
  done (s.setFw { s.fw with text := (port.map (·.map Fin.val)).getD s.fw.text, detail := detail.getD s.fw.detail })

/-- `CMD_RESULT_TEXT`. -/
def execCmdResultText (ch : Chan) (port : Option (Option (Fin 2))) (detail : Option Bool) (s : State) : Out :=
  .next (runCmd ch s (doResultText port detail))

/-- `result [<n>]` on UART0: up to n queued lines, 16 by default (R260); on another channel it is not accepted. -/
def doResult (ch : Chan) (n : Option Qty) (s : State) : CmdM CmdOk := do
  let k := (← conv n (fun q => q.count 0 0xFFFFF)).getD 16
  check (ch.val == 1) .state
  let c := s.chan 1
  return { st := s.setChan 1 { c with textq := c.textq.drop k }, report := c.textq.take k }

/-- `CMD_RESULT`. -/
def execCmdResult (ch : Chan) (n : Option Qty) (s : State) : Out := .next (runCmd ch s (doResult ch n))

end Sys2Proof.Machine
end

