-- ==== Sys2Proof/Machine/CmdUart.lean ====
section
/-!
DEFINITION. The command `uart` (R393, R398).
-/
namespace Sys2Proof.Machine

/-- A register of a port as it will stand when the changes that wait for an `ok` have been made. -/
def State.uartReg (s : State) (u a : Nat) : Word := (((s.uart u).after.find? (fun p => p.1 == a)).map (·.2)).getD (s.reg a)

/-- Registers of a port written by its command: at once, or on the port that carries the command after the last stop
bit of its `ok` (R393). (DEDUCED, log 121) -/
def State.uartSet (s : State) (ch : Chan) (u : Nat) (l : List (Nat × Word)) : CmdM CmdOk := do
  s.clear .uart
  let old := (s.uart u).after.filter (fun p => l.all (fun q => q.1 != p.1))
  if ch.val == uartChan u then done (s.setUart u { s.uart u with after := old ++ l.filter (fun p => s.reg p.1 != p.2) })
  else finish (l.foldlM (fun s p => s.wr p.1 p.2) (s.setUart u { s.uart u with after := old }))

/-- The divider of a baud rate (R384): the nearest one; a rate that differs by more than 2.0 % is refused. -/
def baudDiv (q : Qty) : CmdM Nat := do
  let b ← q.count 1 100000000
  let d ← within 1 65535 (rdiv 12500000 b)
  check (decide (50 * (max 12500000 (b * d) - min 12500000 (b * d)) ≤ b * d)) .refused
  return d

/-- `uart uart<u> baud|div bits parity stop`. -/
def doUartFormat (ch : Chan) (u : Fin 2) (baud div bits : Option Qty) (parity : Option (Fin 3)) (stop : Option Qty) (s : State) : CmdM CmdOk := do
  check (baud.isNone || div.isNone) .syntax_
  let b ← conv baud baudDiv
  let d ← conv div (fun q => q.count 1 65535)
  let n ← conv bits (fun q => q.count 7 8)
  let t ← conv stop (fun q => q.count 1 2)
  let f := fields (s.uartReg u (Adr.uartFmt u)) [(0, 0, n.map (8 - ·)), (3, 2, parity.map Fin.val), (4, 4, t.map (· - 1))]
  check (!fmtBad u f) .refused
  let v := match b.orElse (fun _ => d) with
    | some n => BitVec.ofNat 20 n
    | none => s.uartReg u (Adr.uartDiv u)
  s.uartSet ch u [(Adr.uartDiv u, v), (Adr.uartFmt u, f)]

/-- `CMD_UART_FORMAT`. -/
def execCmdUartFormat (ch : Chan) (u : Fin 2) (baud div bits : Option Qty) (parity : Option (Fin 3)) (stop : Option Qty) (s : State) : Out :=
  .next (runCmd ch s (doUartFormat ch u baud div bits parity stop))

/-- `uart uart0 addr node mute de`: UART0 only. -/
def doUartAddr (ch : Chan) (u : Fin 2) (addr : Option Bool) (node : Option Qty) (mute : Option Bool) (lead tail : Option Qty)
    (low : Option Bool) (s : State) : CmdM CmdOk := do
  check (u.val == 0) .refused
  let n ← conv node (fun q => q.count 1 254)
  let a ← conv lead (fun q => q.count 0 255)
  let b ← conv tail (fun q => q.count 0 255)
  let f := fields (s.uartReg 0 (Adr.uartFmt 0)) [(1, 1, onOff addr)]
  check (!fmtBad 0 f) .refused
  s.uartSet ch 0 [(Adr.uartFmt 0, f), (Adr.uartNode 0, fields (s.uartReg 0 (Adr.uartNode 0)) [(7, 0, n)]),
    (Adr.uartDe 0, fields (s.uartReg 0 (Adr.uartDe 0)) [(7, 0, a), (15, 8, b)]),
    (Adr.uartCtrl 0, fields (s.uartReg 0 (Adr.uartCtrl 0)) [(3, 3, onOff mute), (4, 4, onOff low)])]

/-- `CMD_UART_ADDR`. -/
def execCmdUartAddr (ch : Chan) (u : Fin 2) (addr : Option Bool) (node : Option Qty) (mute : Option Bool) (lead tail : Option Qty)
    (low : Option Bool) (s : State) : Out := .next (runCmd ch s (doUartAddr ch u addr node mute lead tail low))

/-- `uart uart<u> wake on|off`. -/
def doUartWake (ch : Chan) (u : Fin 2) (on : Bool) (s : State) : CmdM CmdOk :=
  s.uartSet ch u [(Adr.uartCtrl u, putBits (s.uartReg u (Adr.uartCtrl u)) 2 2 (b2n on))]

/-- `CMD_UART_WAKE`. -/
def execCmdUartWake (ch : Chan) (u : Fin 2) (on : Bool) (s : State) : Out := .next (runCmd ch s (doUartWake ch u on))

/-- `uart uart<u>`: the report clears the counters. -/
def doUartReport (u : Fin 2) (s : State) : CmdM CmdOk :=
  s.reportOf "uart" [Adr.uartDiv u, Adr.uartFmt u, Adr.uartNode u, Adr.uartDe u, Adr.uartCtrl u, Adr.uartStatus u, Adr.uartFeCnt u,
    Adr.uartPeCnt u, Adr.uartGlitchCnt u, Adr.uartOeCnt u] []

/-- `CMD_UART_REPORT`. -/
def execCmdUartReport (ch : Chan) (u : Fin 2) (s : State) : Out := .next (runCmd ch s (doUartReport u))

end Sys2Proof.Machine
end

