-- ==== Sys2Proof/Machine/Parse.lean ====
section
/-!
DEFINITION. The elements of a command line (R351, R354, R355) and its settings and actions (R352), read from its words.
-/
namespace Sys2Proof.Machine

/-! ### Words (R354) -/

/-- A word of a line, in lower case. -/
abbrev Tok := List Char

/-- The words of a line: what stands between spaces and TABs (R349, R351), upper and lower case being equal. -/
def words (l : List Byte) : List Tok :=
  let cs := l.map (fun b => if b = 0x09 then ' ' else (Char.ofNat b.toNat).toLower)
  (cs.splitOn ' ').filter (fun w => !w.isEmpty)

/-- A word, or any prefix that matches exactly one word (R354); `none_` is the code where none matches. -/
def matchWord (ws : List String) (none_ : ErrCode) (t : Tok) : CmdM String :=
  match ws.find? (fun w => w.toList == t) with
  | some w => .ok w
  | none =>
    match (ws.filter (fun w => t.isPrefixOf w.toList)).eraseDups with
    | [w] => .ok w
    | [] => .error none_
    | _ => .error .ambig

/-- Which of two words a word is: true for the first. -/
def boolOf (yes no : String) (t : Tok) : CmdM Bool := do return (← matchWord [yes, no] .syntax_ t) == yes

/-- The place of a word in a list of words. -/
def placeOf (ws : List String) (t : Tok) : CmdM Nat := do return ws.idxOf (← matchWord ws .syntax_ t)

/-! ### Units, numbers, lists, names (R351, R355) -/

/-- The number that digits spell. -/
def digitsOf (t : Tok) : Nat := t.foldl (fun n c => 10 * n + (c.toNat - 48)) 0

/-- The number of a numbered unit of the letters given, if the word has that form. -/
def instNo (pre : String) (t : Tok) : Option Nat :=
  let d := t.drop pre.toList.length
  if pre.toList.isPrefixOf t && !d.isEmpty && d.all Char.isDigit then some (digitsOf d) else none

/-- A unit among n of its kind; one beyond them is out of range. (DEDUCED, log 159) -/
def instOf (pre : String) (n : Nat) [NeZero n] (t : Tok) : CmdM (Fin n) :=
  match instNo pre t with
  | none => .error .syntax_
  | some i => if i < n then .ok (Fin.ofNat n i) else .error .range

/-- The value of a hexadecimal digit in lower case. -/
def hexVal (c : Char) : Option Nat :=
  if c.isDigit then some (c.toNat - 48) else if 'a' ≤ c && c ≤ 'f' then some (c.toNat - 87) else none

/-- The unit that letters after a number name. -/
def unitOf (t : Tok) : Option QUnit :=
  [("", QUnit.none), ("ns", .ns), ("us", .us), ("ms", .ms), ("s", .s), ("mbps", .mbps), ("gbps", .gbps), ("um", .um), ("mm", .mm),
   ("m", .m), ("deg", .deg), ("%", .pct)].findSome? (fun p => if p.1.toList == t then some p.2 else none)

/-- A number or quantity: hexadecimal with optional underscores, or decimal with sign, fraction and unit. -/
def qtyOf (t : Tok) : CmdM Qty :=
  match t with
  | '0' :: 'x' :: h =>
    let d := (h.filter (· != '_')).map hexVal
    if d.isEmpty || d.any Option.isNone then .error .syntax_
    else .ok { m := (d.foldl (fun n v => 16 * n + v.getD 0) 0 : Nat) }
  | _ =>
    let neg := t.head? == some '-'
    let t := if neg || t.head? == some '+' then t.drop 1 else t
    let ip := t.takeWhile Char.isDigit
    let r := t.dropWhile Char.isDigit
    let fp := if r.head? == some '.' then (r.drop 1).takeWhile Char.isDigit else []
    let u := if r.head? == some '.' then (r.drop 1).dropWhile Char.isDigit else r
    if ip.isEmpty then .error .syntax_
    else
      match unitOf u with
      | none => .error .unit
      | some u =>
        let v : Int := (digitsOf (ip ++ fp) : Nat)
        .ok { m := if neg then -v else v, e := fp.length, u := u }

/-- The elements of a list (R351). -/
def listOf {α : Type} (f : Tok → CmdM α) (t : Tok) : CmdM (List α) := convAll f (t.splitOn ',')

/-- A list, or the word `none`. -/
def listOrNone {α : Type} (f : Tok → CmdM α) (t : Tok) : CmdM (List α) := if "none".toList.isPrefixOf t && t.length == 4 then .ok [] else listOf f t

/-- A name as it stands. -/
def nameOf (t : Tok) : String := String.ofList t

/-- A word given, or another element. -/
def orWord {α : Type} (w : String) (f : Tok → CmdM α) (t : Tok) : CmdM (Option α) :=
  if t == w.toList then .ok none else do return some (← f t)

/-! ### The words of a line in turn -/

/-- A reader of the words that follow. -/
abbrev Reader (α : Type) := StateT (List Tok) (Except ErrCode) α

/-- The next word; a line that lacks it is malformed. -/
def next : Reader Tok := fun l =>
  match l with
  | t :: r => .ok (t, r)
  | [] => .error .syntax_

/-- The next word as an element. -/
def elem {α : Type} (f : Tok → CmdM α) : Reader α := do f (← next)

/-- No word follows. -/
def atEnd : Reader Bool := fun l => .ok (l.isEmpty, l)

/-- The line ends here. -/
def stop {α : Type} (a : α) : Reader α := fun l => if l.isEmpty then .ok (a, l) else .error .syntax_

/-- The next word is `w`, among the words allowed here; then it is taken. -/
def taken (w : String) (allowed : List String) : Reader Bool := fun l =>
  match l with
  | t :: r => match matchWord (w :: allowed) .syntax_ t with
    | .ok v => if v == w then .ok (true, r) else .ok (false, l)
    | .error e => .error e
  | [] => .ok (false, [])

/-- The next word is a numbered unit of the letters given; then it is taken. -/
def instNext (pre : String) (n : Nat) [NeZero n] : Reader (Option (Fin n)) := fun l =>
  match l with
  | t :: r => if (instNo pre t).isSome then (do return (some (← instOf pre n t), r)) else .ok (none, l)
  | [] => .ok (none, [])

/-! ### Settings and actions (R352) -/

/-- A keyword of a form: how many values follow it, whether it is an action, the form it belongs to among those with the
same leading words, and the keywords, each with a value, that may stand behind it. -/
structure Key where
  w : String
  n : Nat := 1
  act : Bool := false
  form : Nat := 0
  sub : List String := []
deriving DecidableEq, Repr

/-- An action without values. -/
def action (w : String) (form : Nat) : Key := { w := w, n := 0, act := true, form := form }

/-- `on` and `off` as actions of a form. -/
def onOffKeys (form : Nat) : List Key := [action "on" form, action "off" form]

/-- The words of keywords. -/
def keyWords (ks : List Key) : List String := ks.map Key.w

/-- What a line gives: keywords with their values, in the line's order. -/
abbrev Given := List (String × List Tok)

/-- The keywords behind a keyword, with their values. -/
def readSubs (k : Key) (all : List String) : Nat → Given → List Tok → CmdM (Given × List Tok)
  | 0, g, l => .ok (g, l)
  | n + 1, g, l =>
    match l with
    | t :: v :: r => do
      let w ← matchWord (if g.isEmpty then k.sub else k.sub ++ all) .syntax_ t
      if k.sub.contains w then
        if g.any (fun p => p.1 == w) then .error .syntax_ else readSubs k all n (g ++ [(w, [v])]) r
      else .ok (g, l)
    | [t] => do
      let w ← matchWord (if g.isEmpty then k.sub else k.sub ++ all) .syntax_ t
      if k.sub.contains w then .error .syntax_ else .ok (g, l)
    | [] => if g.isEmpty then .error .syntax_ else .ok (g, [])

/-- The rest of a line as keywords with their values; n bounds their number. A keyword given twice is malformed. -/
def readKeys (ks : List Key) : Nat → Given → List Tok → CmdM Given
  | _, g, [] => .ok g
  | 0, _, _ => .error .syntax_
  | n + 1, g, t :: r => do
    let w ← matchWord (keyWords ks) .syntax_ t
    match ks.find? (fun k => k.w == w) with
    | none => .error .syntax_
    | some k =>
      if g.any (fun p => p.1 == w) || r.length < k.n then .error .syntax_
      else if k.sub.isEmpty then readKeys ks n (g ++ [(w, r.take k.n)]) (r.drop k.n)
      else do
        let s ← readSubs k (keyWords ks) k.sub.length [] r
        readKeys ks n (g ++ (w, []) :: s.1.map (fun p => (w ++ " " ++ p.1, p.2))) s.2

/-- An action stands alone or with its own form's settings (R352). -/
def joined (ks : List Key) (g : Given) : Bool :=
  let given := ks.filter (fun k => g.any (fun p => p.1 == k.w))
  match given.filter Key.act with
  | [] => true
  | [a] => given.all (fun k => k.form == a.form)
  | _ => false

/-- The settings and actions that end a line: at least one. -/
def keys (ks : List Key) : Reader Given := fun l => do
  let g ← readKeys ks l.length [] l
  check (!g.isEmpty && joined ks g) .syntax_
  return (g, [])

/-- The values of a keyword, where it is given. -/
def Given.vals (g : Given) (w : String) : Option (List Tok) := (g.find? (fun p => p.1 == w)).map (·.2)

/-- A keyword is given. -/
def Given.has (g : Given) (w : String) : Bool := g.any (fun p => p.1 == w)

/-- One of some keywords is given. -/
def Given.hasAny (g : Given) (ws : List String) : Bool := ws.any g.has

/-- The value of a keyword as an element, where it is given. -/
def Given.get {α : Type} (g : Given) (w : String) (f : Tok → CmdM α) : CmdM (Option α) :=
  match g.vals w with
  | some (t :: _) => do return some (← f t)
  | _ => .ok none

/-- The value of a keyword that the form needs. -/
def Given.need {α : Type} (g : Given) (w : String) (f : Tok → CmdM α) : CmdM α := do
  match ← g.get w f with
  | some a => .ok a
  | none => .error .syntax_

/-- The number that a keyword is given. -/
def Given.qty (g : Given) (w : String) : CmdM (Option Qty) := g.get w qtyOf

/-- Two numbers that a keyword is given. -/
def Given.qty2 (g : Given) (w : String) : CmdM (Option (Qty × Qty)) :=
  match g.vals w with
  | some [a, b] => do return some (← qtyOf a, ← qtyOf b)
  | _ => .ok none

/-- Three numbers that a keyword is given. -/
def Given.qty3 (g : Given) (w : String) : CmdM (Option (Qty × Qty × Qty)) :=
  match g.vals w with
  | some [a, b, c] => do return some (← qtyOf a, ← qtyOf b, ← qtyOf c)
  | _ => .ok none

/-- One of two words that a keyword is given: true for the first. -/
def Given.bool (g : Given) (w yes no : String) : CmdM (Option Bool) := g.get w (boolOf yes no)

/-- `on` or `off` after a keyword. -/
def Given.sw (g : Given) (w : String) : CmdM (Option Bool) := g.bool w "on" "off"

/-- The place of the word that a keyword is given. -/
def Given.place (g : Given) (w : String) (ws : List String) (n : Nat) [NeZero n] : CmdM (Option (Fin n)) :=
  g.get w (fun t => do return Fin.ofNat n (← placeOf ws t))

/-- `on` or `off` as an action. -/
def Given.act (g : Given) : Option Bool := if g.has "on" then some true else if g.has "off" then some false else none

end Sys2Proof.Machine
end

