-- ==== Sys2Proof/Machine/Grammar.lean ====
section
/-!
DEFINITION. The forms of the command line that configure blocks and firmware (R351, R352, R382): the commands that a line
spells, from the tables of forms in the verbs' chapters. A line with settings of several forms spells one command for each of
those forms.
-/
namespace Sys2Proof.Machine

/-- A command that a line spells: its check and effect; where it enables a block, also its two parts with the enable held
back: what is done at once, and what is done when the enable is applied (R379). -/
structure Spelled where
  run : State → CmdM CmdOk
  held : Option ((State → CmdM CmdOk) × (State → CmdM CmdOk)) := none

/-- A command that enables nothing. -/
def spell (f : State → CmdM CmdOk) : Spelled := { run := f }

/-- A command that may enable a block: as a whole, without its enable, and its enable alone. -/
def enabling (on : Bool) (whole early late : State → CmdM CmdOk) : Spelled :=
  { run := whole, held := if on then some (early, late) else none }

/-- A command where its form has something given. -/
def form (b : Bool) (i : Spelled) : List Spelled := if b then [i] else []

/-! ### Words -/

/-- The verbs (R382). -/
def verbs : List String :=
  ["bench", "boot", "cal", "enc", "event", "face", "grade", "help", "hewer", "host", "id", "kerf", "load", "mbx", "own", "port",
   "pwr", "reset", "result", "riddle", "save", "seam", "seq", "session", "spoil", "stock", "sym", "trg", "uart"]

/-- The symbologies by their identifiers from 1 on (R223). -/
def symNames : List String :=
  ["datamatrix", "qr", "dotcode", "code128", "gs1-128", "code39", "i2of5", "ean13", "ean8", "upca", "upce"]

/-- A symbology's name: a name of R351, never shortened. -/
def symOf (t : Tok) : CmdM SymId :=
  let i := symNames.findIdx (fun n => n.toList == t)
  if i < 11 then .ok (Fin.ofNat 12 (i + 1)) else .error .syntax_

/-- The classes of R177. -/
def classOf (t : Tok) : CmdM CandClass := do
  return [CandClass.linear, .grid, .dot].getD (← placeOf ["linear", "grid", "dot"] t) .dot

/-- A trend parameter (R249). -/
def paramOf (t : Tok) : CmdM GradeParam := do
  let ps : List (String × GradeParam) :=
    [("overall", .overall), ("dec", .dec), ("sc", .sc), ("mod", .mod), ("rm", .rm), ("fpd", .fpd), ("an", .an), ("gn", .gn), ("uec", .uec),
     ("rmin", .rmin), ("ecmin", .ecmin), ("defects", .defects), ("decodability", .decodability)]
  let w ← matchWord (ps.map (·.1)) .syntax_ t
  match ps.find? (fun p => p.1 == w) with
  | some p => .ok p.2
  | none => .error .syntax_

/-- A head, a bench, an encoder channel, a plane number. -/
def headOf : Tok → CmdM (Fin 16) := instOf "h" 16
/-- A bench. -/
def benchOf : Tok → CmdM (Fin 8) := instOf "b" 8
/-- An encoder channel. -/
def encOf : Tok → CmdM (Fin 4) := instOf "e" 4

/-- A plain number below n. -/
def below (n : Nat) [NeZero n] (t : Tok) : CmdM (Fin n) := do
  let v ← (← qtyOf t).count 0 (n - 1)
  return Fin.ofNat n v

/-! ### `enc`, `trg` (R83) -/

/-- `enc`. -/
def readEnc : Reader (List Spelled) := do
  let e ← elem encOf
  if ← atEnd then return [spell <| doEncReport e]
  let ks : List Key := [{ w := "mode" }, { w := "edge" }, { w := "invert" }, { w := "minedge" }, { w := "glitchlim" }, { w := "window" },
    { w := "standstill" }, { w := "preset" }, { w := "wake" }]
  if ← taken "index" (keyWords ks) then
    let g ← keys [{ w := "period" }, { w := "tol" }, { w := "mode" }, { w := "pol" }]
    return [spell <| doEncIndex e (← g.qty "period") (← g.qty "tol") (← g.bool "mode" "snap" "count") (← g.bool "pol" "fall" "rise")]
  let g ← keys ks
  let mode := spell <| doEncMode e (← g.bool "mode" "updown" "stepdir") (← g.place "edge" ["rise", "fall", "both"] 3) (← g.sw "invert")
  let filter := spell <| doEncFilter e (← g.qty "minedge") (← g.qty "glitchlim")
  let speed := spell <| doEncSpeed e (← g.qty "window") (← g.qty "standstill")
  let preset := (← g.qty "preset").map (fun q => spell <| doEncPreset e q)
  let wake := (← g.sw "wake").map (fun b => spell <| doEncWake e b)
  return form (g.hasAny ["mode", "edge", "invert"]) mode ++ form (g.hasAny ["minedge", "glitchlim"]) filter
    ++ form (g.hasAny ["window", "standstill"]) speed ++ preset.toList ++ wake.toList

/-- Where a schedule's origin is given. -/
def originOf (t : Tok) : CmdM Origin :=
  if (t.headD ' ').isAlpha then do
    let _ ← matchWord ["here"] .syntax_ t
    return .here
  else do return .at (← qtyOf t)

/-- The action of a GPIO event. -/
def gpioActOf (g : Given) : CmdM GpioAct := do
  match g.has "set", g.has "clear", ← g.qty "pulse" with
  | true, false, none => .ok .set
  | false, true, none => .ok .clear
  | false, false, some w => .ok (.pulse w)
  | _, _, _ => .error .syntax_

/-- The SYNC role that a line gives, at most one. -/
def syncRoleOf (g : Given) : CmdM (Option SyncRoleCmd) := do
  match g.has "master", ← g.qty "slave", g.has "off" with
  | false, none, false => .ok none
  | true, none, false => do return some (.master (← g.need "master slaves" qtyOf))
  | false, some n, false => .ok (some (.slave n))
  | false, none, true => .ok (some .off)
  | _, _, _ => .error .syntax_

/-- `trg`. -/
def readTrg : Reader (List Spelled) := do
  if let some c ← instNext "e" 4 then
    let g ← keys ([{ w := "pitch" }, { w := "origin" }, { w := "reverse" }] ++ onOffKeys 1)
    if let some on := g.act then return [enabling on (doTrgScheduleOnOff c on) done (doTrgScheduleOnOff c on)]
    return [spell <| doTrgSchedule c (← g.qty "pitch") (← g.get "origin" originOf) (← g.sw "reverse")]
  if let some h ← instNext "h" 16 then
    let g ← keys ([{ w := "chan" }, { w := "delay" }, { w := "minint" }, { w := "slab" }] ++ onOffKeys 1 ++ [action "stopatslab" 2])
    if let some on := g.act then return [enabling on (doTrgHeadOnOff h on) done (doTrgHeadOnOff h on)]
    if g.has "stopatslab" then return [spell <| doTrgStopatslab h]
    return [spell <| doTrgHead h (← g.get "chan" encOf) (← g.qty "delay") (← g.qty "minint") (← g.qty "slab")]
  if ← taken "event" ["sync"] then
    match ← instNext "gpio" 8 with
    | some p =>
      let g ← keys [{ w := "on" }, { w := "at" }, { w := "set", n := 0 }, { w := "clear", n := 0 }, { w := "pulse" }, { w := "late" }]
      return [spell <| doTrgEvent p (← g.need "on" encOf) (← g.need "at" qtyOf) (← gpioActOf g) (← g.need "late" (boolOf "fire" "drop"))]
    | none =>
      let _ ← elem (matchWord ["flush"] .syntax_)
      stop [spell <| doTrgEventFlush]
  else
    let _ ← elem (matchWord ["event", "sync"] .syntax_)
    if ← atEnd then return [spell <| doTrgSyncReport]
    let g ← keys [{ w := "master", n := 0, sub := ["slaves"] }, { w := "slave" }, { w := "off", n := 0 }, { w := "chan" }, { w := "lat" },
      { w := "restate" }, action "lock" 1]
    if g.has "lock" then return [spell <| doTrgSyncLock]
    let role ← syncRoleOf g
    let chan ← g.get "chan" encOf
    let lat ← g.get "lat" (orWord "auto" qtyOf)
    let restate ← g.sw "restate"
    return [enabling (role.any (· != .off)) (doTrgSync role chan lat restate) (doTrgSync none chan lat restate) (doTrgSync role none none none)]

/-! ### `seq` (R99) -/

/-- The keywords of a light state. -/
def lightKeys : List Key := [{ w := "light" }, { w := "int" }, { w := "plane" }, { w := "exp" }]

/-- The light state that a line gives. -/
def lightOf (g : Given) : CmdM LightSet := do
  return { chans := ← g.get "light" (listOrNone (instOf "ch" 8)), int := ← g.qty "int", plane := ← g.qty "plane", exp := ← g.qty "exp" }

/-- `seq`. -/
def readSeq : Reader (List Spelled) := do
  let q ← elem (instOf "q" 4)
  if ← atEnd then return [spell <| doSeqReport q]
  let ks : List Key := [{ w := "chan" }, { w := "len" }, { w := "at", form := 3 }] ++ onOffKeys 1 ++ [action "copy" 2, action "swap" 3]
  let lead := ["step", "fixed", "tally"]
  if ← taken "step" (lead ++ keyWords ks) then
    let i ← elem qtyOf
    let g ← keys lightKeys
    return [spell <| doSeqStep q i (← lightOf g)]
  if ← taken "fixed" (lead ++ keyWords ks) then
    let g ← keys lightKeys
    return [spell <| doSeqFixed q (← lightOf g)]
  if ← taken "tally" (lead ++ keyWords ks) then
    let h ← elem headOf
    let on ← elem (boolOf "on" "off")
    stop [spell <| doSeqTally q h on]
  else
    let g ← keys ks
    if let some on := g.act then return [enabling on (doSeqOnOff q on) done (doSeqOnOff q on)]
    if g.has "copy" then return [spell <| doSeqCopy q]
    if g.has "swap" then return [spell <| doSeqSwap q (← g.qty "at")]
    check (!g.has "at") .syntax_
    let chan := (← g.get "chan" encOf).map (fun e => spell <| doSeqChan q e)
    let len := (← g.qty "len").map (fun n => spell <| doSeqLen q n)
    return chan.toList ++ len.toList

/-! ### `port` (R121) -/

/-- A data type of an image stream. -/
def imgDtOf (t : Tok) : CmdM ImgDt :=
  match instNo "user" t with
  | some _ => do return .user (← instOf "user" 8 t)
  | none => do
    return [ImgDt.raw8, .raw10, .raw12, .raw14, .raw16, .rgb888].getD
      (← placeOf ["raw8", "raw10", "raw12", "raw14", "raw16", "rgb888"] t) .raw8

/-- A data type of an embedded stream. -/
def embDtOf (t : Tok) : CmdM EmbDt :=
  match instNo "user" t with
  | some _ => do return .user (← instOf "user" 8 t)
  | none => do
    let _ ← matchWord ["emb8"] .syntax_ t
    return .emb8

/-- The counter offset of an aligned port. -/
def cntOffsetOf (t : Tok) : CmdM CntOffset := do
  match ← orWord "learn" qtyOf t with
  | some q => .ok (.offset q)
  | none => .ok .learn

/-- MSB or LSB, at most one. -/
def lsbOf (g : Given) : CmdM (Option Bool) :=
  match g.has "msb", g.has "lsb" with
  | true, true => .error .syntax_
  | true, false => .ok (some false)
  | false, true => .ok (some true)
  | false, false => .ok none

/-- `port`. -/
def readPort (ch : Chan) : Reader (List Spelled) := do
  let p ← elem (instOf "p" 16)
  if ← atEnd then return [spell <| doPortReport p]
  let ks : List Key := [{ w := "lanes" }, { w := "rate" }, { w := "fill" }, { w := "tmo", n := 0, sub := ["fs", "fe"] }] ++ onOffKeys 1
  let all := ["img0", "img1", "emb", "align", "i2c"] ++ keyWords ks
  let img (st : Fin 2) : Reader (List Spelled) := do
    let g ← keys ([{ w := "vc" }, { w := "dt" }, { w := "width" }] ++ onOffKeys 0)
    return [spell <| doPortImg p st (← g.qty "vc") (← g.get "dt" imgDtOf) (← g.qty "width") g.act]
  if ← taken "img0" all then return ← img 0
  if ← taken "img1" all then return ← img 1
  if ← taken "emb" all then
    let g ← keys ([{ w := "vc" }, { w := "dt" }] ++ onOffKeys 0)
    return [spell <| doPortEmb p (← g.qty "vc") (← g.get "dt" embDtOf) g.act]
  if ← taken "align" all then
    let g ← keys ([{ w := "counter" }, { w := "msb", n := 0 }, { w := "lsb", n := 0 }, { w := "offset" }] ++ onOffKeys 0)
    return [spell <| doPortAlign p g.act (← g.qty "counter") (← lsbOf g) (← g.get "offset" cntOffsetOf)]
  if ← taken "i2c" all then
    if (← get).head?.any (fun t => (t.headD ' ').isAlpha) then
      let _ ← elem (matchWord ["recover"] .syntax_)
      stop [spell <| doPortI2cRecover p]
    else
      let a ← elem qtyOf
      if ← atEnd then return [spell <| doPortI2c ch p a [] none none none]
      let g ← keys [{ w := "write" }, { w := "read" }, { w := "speed" }, { w := "stretch" }]
      return [spell <| doPortI2c ch p a ((← g.get "write" (listOf qtyOf)).getD []) (← g.qty "read")
        (← g.place "speed" ["sm", "fm", "fmplus"] 3) (← g.qty "stretch")]
  else
    let g ← keys ks
    if let some on := g.act then return [enabling on (doPortOnOff p on) done (doPortOnOff p on)]
    let lanes := spell <| doPortLanes p (← g.qty "lanes") (← g.qty "rate")
    let fill := spell <| doPortFillTmo p (← g.qty "fill") (← g.qty "tmo fs") (← g.qty "tmo fe")
    return form (g.hasAny ["lanes", "rate"]) lanes ++ form (g.hasAny ["fill", "tmo"]) fill

/-! ### `face` (R147, R168) -/

/-- What fills a table: `load` with a record, or one of the words that the table knows. -/
def fillOf (own : List String) : Reader TblFill := do
  let w ← elem (matchWord ("load" :: own) .syntax_)
  if w == "load" then return .record (← elem (fun t => .ok (nameOf t)))
  else if w == "fill" then return .gain (← elem qtyOf)
  else if w == "gamma" then return .gamma (← elem qtyOf)
  else if w == "linear" then return .linear
  else return .zero

/-- A table's `swap`, or a fill. -/
def tableOf (own : List String) (swap : Spelled) (load : TblFill → State → CmdM CmdOk) : Reader (List Spelled) := do
  if ← taken "swap" ("load" :: own) then stop [swap]
  else
    let fl ← fillOf own
    stop [spell (load fl)]

/-- A plane named as `p<p>`. -/
def planeOf : Tok → CmdM (Fin 4) := instOf "p" 4

/-- The bypass stages (R140). -/
def bypassOf (t : Tok) : CmdM Stage := do
  return [Stage.black, .static, .dynamic, .flat, .wb, .matrix, .tone].getD
    (← placeOf ["black", "static", "dynamic", "flat", "wb", "matrix", "tone"] t) .black

/-- The forms of `face f<n> defect`. -/
def readDefect (f : Fin 4) : Reader (List Spelled) := do
  if ← taken "add" ["load", "clear", "swap"] then
    let c ← elem (instOf "c" 4)
    let _ ← elem (matchWord ["col"] .syntax_)
    let q ← elem qtyOf
    let m ← elem (placeOf ["mean", "left", "right"])
    stop [spell <| doFaceDefectAdd f c q ([DefMethod.mean, .left, .right].getD m .mean)]
  else tableOf ["clear", "add"] (spell <| doFaceDefectSwap f) (doFaceDefectLoad f)

/-- The rest of `face f<n> c<n> source`. -/
def readSource (f c : Fin 4) : Reader (List Spelled) := do
  let p ← elem (instOf "p" 16)
  let img1 ← elem (boolOf "img1" "img0")
  let inline ← elem (boolOf "inline" "spool")
  if ← atEnd then return [spell <| doFaceSource f c p img1 inline none none none]
  let g ← keys [{ w := "slabs" }, { w := "lines" }, { w := "stock" }]
  return [spell <| doFaceSource f c p img1 inline (← g.qty "slabs") (← g.qty "lines") (← g.sw "stock")]

/-- The forms of `face f<n> c<n>`. -/
def readFaceCtx (f c : Fin 4) : Reader (List Spelled) := do
  if ← atEnd then return [spell <| doFaceCtxReport f c]
  let ks : List Key := [{ w := "mode" }, { w := "planes" }, { w := "align", n := 3 }, { w := "matrix", n := 9 }, { w := "bypass" }] ++ onOffKeys 1
  let all := ["black", "dynamic", "flat", "wb", "tone", "source", "mv", "disp", "code"] ++ keyWords ks
  if ← taken "black" all then
    if let some p ← instNext "p" 4 then
      let q ← elem qtyOf
      return ← stop [spell <| doFaceBlackOffset f c p q]
    return ← tableOf ["zero"] (spell <| doFaceBlackSwap f c) (doFaceBlackLoad f c)
  if ← taken "dynamic" all then
    let g ← keys ([{ w := "hi" }, { w := "lo" }] ++ onOffKeys 0)
    return [spell <| doFaceDynamic f c g.act (← g.qty "hi") (← g.qty "lo")]
  if ← taken "flat" all then
    if let some p ← instNext "p" 4 then
      let fl ← fillOf ["fill"]
      return ← stop [spell <| doFaceFlatLoad f c p fl]
    let _ ← elem (matchWord ["swap"] .syntax_)
    return ← stop [spell <| doFaceFlatSwap f c]
  if ← taken "wb" all then
    let p ← elem planeOf
    let r ← elem qtyOf
    let g ← elem qtyOf
    let b ← elem qtyOf
    return ← stop [spell <| doFaceWb f c p r g b]
  if ← taken "tone" all then
    if let some n ← instNext "ch" 3 then
      let fl ← fillOf ["linear", "gamma"]
      return ← stop [spell <| doFaceToneLoad f c n fl]
    let _ ← elem (matchWord ["swap"] .syntax_)
    return ← stop [spell <| doFaceToneSwap f c]
  if ← taken "source" all then return ← readSource f c
  if ← taken "mv" all then
    let g ← keys [{ w := "planes" }, { w := "bits" }]
    return [spell <| doFaceMv f c (← g.get "planes" (listOrNone qtyOf)) ((← g.place "bits" ["8", "16"] 2).map (· == 1))]
  if ← taken "disp" all then
    let g ← keys [{ w := "plane" }, { w := "scale", n := 2 }, { w := "overlay" }, { w := "delay" }, action "off" 0]
    return [spell <| doFaceDisp f c (← g.qty "plane") (← g.qty2 "scale") (← g.sw "overlay") (← g.qty "delay") (g.has "off")]
  if ← taken "code" all then
    let g ← keys [{ w := "plane" }, { w := "scale", n := 2 }, action "off" 0]
    return [spell <| doFaceCode f c (← g.qty "plane") (← g.qty2 "scale") (g.has "off")]
  let g ← keys ks
  if let some on := g.act then return [enabling on (doFaceCtxOnOff f c on) done (doFaceCtxOnOff f c on)]
  let mode := spell <| doFaceMode f c (← g.place "mode" ["mono", "trilinear", "twoline"] 3) (← g.get "planes" (listOf qtyOf)) (← g.qty3 "align")
  let matrix := (← convAll qtyOf ((g.vals "matrix").getD []))
  let bypass := (← g.get "bypass" (listOrNone bypassOf)).map (fun l => spell <| doFaceBypass f c l)
  return form (g.hasAny ["mode", "planes", "align"]) mode ++ form (g.has "matrix") (spell <| doFaceMatrix f c matrix) ++ bypass.toList

/-- `face`. -/
def readFace : Reader (List Spelled) := do
  let f ← elem (instOf "f" 4)
  if ← atEnd then return [spell <| doFaceReport f]
  if let some c ← instNext "c" 4 then return ← readFaceCtx f c
  if ← taken "defect" ["overlay"] then return ← readDefect f
  let _ ← elem (matchWord ["defect", "overlay"] .syntax_)
  let cls ← elem classOf
  let r ← elem qtyOf
  let g ← elem qtyOf
  let b ← elem qtyOf
  stop [spell <| doFaceOverlay f cls r g b]

/-! ### `seam` (R190) -/

/-- The plane setting of a search image, at most one. -/
def seamPlanesOf (g : Given) : CmdM (Option SeamPlanes) := do
  match ← g.qty "plane", ← g.qty2 "max", ← g.qty2 "min" with
  | none, none, none => .ok none
  | some p, none, none => .ok (some (.single p))
  | none, some (a, b), none => .ok (some (.max a b))
  | none, none, some (a, b) => .ok (some (.min a b))
  | _, _, _ => .error .syntax_

/-- `seam`. -/
def readSeam : Reader (List Spelled) := do
  let s ← elem (instOf "s" 4)
  if let some c ← instNext "c" 4 then
    if ← atEnd then return [spell <| doSeamReport s c]
    let g ← keys ([{ w := "plane" }, { w := "max", n := 2 }, { w := "min", n := 2 }] ++ onOffKeys 0)
    let pl ← seamPlanesOf g
    return [enabling true (doSeamSrc s c pl g.act) done (doSeamSrc s c pl g.act)]
  let ks : List Key := [{ w := "margin" }, { w := "hmax" }] ++ onOffKeys 0 ++ [{ w := "tol", form := 1 }, { w := "mintiles", n := 3, form := 1 }]
  let all := ["vote", "dot", "linear", "grid"] ++ keyWords ks
  if ← taken "vote" all then
    let g ← keys [{ w := "mag" }, { w := "count" }, { w := "mass" }]
    return [spell <| doSeamVote s (← g.qty "mag") (← g.qty "count") (← g.qty "mass")]
  if ← taken "dot" all then
    let g ← keys [{ w := "con" }, { w := "min" }, { w := "pol" }]
    return [spell <| doSeamDot s (← g.qty "con") (← g.qty "min") (← g.place "pol" ["bright", "dark", "both", "off"] 4)]
  if ← taken "linear" all then
    let g ← keys [{ w := "conc" }, { w := "bal" }]
    return [spell <| doSeamLinear s (← g.qty "conc") (← g.qty "bal")]
  if ← taken "grid" all then
    let g ← keys [{ w := "conc" }, { w := "orth" }]
    return [spell <| doSeamGrid s (← g.qty "conc") (← g.qty "orth")]
  let g ← keys ks
  let margin ← g.qty "margin"
  let hmax ← g.qty "hmax"
  let ctrl := enabling (g.act == some true) (doSeamCtrl s g.act margin hmax) (doSeamCtrl s none margin hmax) (doSeamCtrl s (some true) none none)
  let tol := spell <| doSeamTol s (← g.qty "tol") (← g.qty3 "mintiles")
  return form (g.hasAny ["margin", "hmax", "on", "off"]) ctrl ++ form (g.hasAny ["tol", "mintiles"]) tol

/-! ### `stock`, `riddle`, `kerf` (R222) -/

/-- `stock`. -/
def readStock : Reader (List Spelled) := do
  let h ← elem headOf
  if ← atEnd then return [spell <| doStockReport h]
  let p ← elem planeOf
  let g ← keys ({ w := "depth" } :: onOffKeys 0)
  let d ← g.qty "depth"
  return [enabling (g.act == some true) (doStock h p d g.act) (doStock h p d none) (doStock h p none (some true))]

/-- `riddle`. -/
def readRiddle : Reader (List Spelled) := do
  if ← atEnd then return [spell <| doRiddleReport]
  let w ← elem (matchWord ["on", "off", "commit", "head", "chan", "calibrate", "join", "dup", "class", "bench"] .syntax_)
  if w == "on" || w == "off" then stop [enabling (w == "on") (doRiddleOnOff (w == "on")) done (doRiddleOnOff (w == "on"))]
  else if w == "commit" then stop [spell <| doRiddleCommit]
  else if w == "head" then
    let h ← elem headOf
    let g ← keys [{ w := "geometry", n := 3 }, { w := "right" }]
    return [spell <| doRiddleHead h (← g.qty3 "geometry") (← g.get "right" (orWord "none" headOf))]
  else if w == "chan" then
    let e ← elem encOf
    let g ← keys [{ w := "upc" }]
    return [spell <| doRiddleChan e (← g.need "upc" qtyOf)]
  else if w == "calibrate" then
    let l ← elem (listOf headOf)
    if ← atEnd then return [spell <| doRiddleCalibrate l none]
    let g ← keys [{ w := "ref" }]
    return [spell <| doRiddleCalibrate l (← g.get "ref" headOf)]
  else if w == "join" then
    let g ← keys [{ w := "edge" }, { w := "angle" }, { w := "lead" }, { w := "timeout" }]
    return [spell <| doRiddleJoin (← g.qty "edge") (← g.qty "angle") (← g.qty "lead") (← g.qty "timeout")]
  else if w == "dup" then
    let g ← keys [{ w := "dist" }, { w := "angle" }, { w := "window" }]
    return [spell <| doRiddleDup (← g.qty "dist") (← g.qty "angle") (← g.get "window" (orWord "off" qtyOf))]
  else if w == "class" then
    let cls ← elem classOf
    let g ← keys [{ w := "scale" }, { w := "margin" }, { w := "deadline" }, { w := "interp" }, { w := "benches" }]
    return [spell <| doRiddleClass cls (← g.qty "scale") (← g.qty "margin") (← g.qty "deadline") (← g.bool "interp" "bicubic" "bilinear")
      (← g.get "benches" (listOf benchOf))]
  else
    let b ← elem benchOf
    let g ← keys ([{ w := "area" }, { w := "slots" }, { w := "size" }] ++ onOffKeys 1)
    if let some on := g.act then return [spell <| doRiddleBenchOnOff b on]
    return [spell <| doRiddleBenchArea b (← g.qty "area") (← g.qty "slots") (← g.qty "size")]

/-- `kerf`. -/
def readKerf : Reader (List Spelled) := do
  let k ← elem (instOf "k" 8)
  if ← atEnd then return [spell <| doKerfReport k]
  let g ← keys ({ w := "fill" } :: onOffKeys 0)
  let fill ← g.qty "fill"
  return [enabling (g.act == some true) (doKerf k g.act fill) (doKerf k none fill) (doKerf k (some true) none)]

/-! ### `sym`, `grade`, `result` (R241, R261) -/

/-- A polarity or mirror setting. -/
def triOf (a b : String) (t : Tok) : CmdM Tri := do return [Tri.first, .second, .auto].getD (← placeOf [a, b, "auto"] t) .auto

/-- The settings of a symbology, each form's options for the symbologies that take them. `len` of `i2of5` takes a range or a
list. -/
def readSymSet (y : SymId) : Reader (List Spelled) := do
  let l ← get
  let i := l.findIdx (fun t => t == "len".toList)
  let one := y.val == 7 && !((l.drop (i + 2)).headD [' ']).all Char.isDigit
  let ks : List Key := onOffKeys 1
    ++ (if decide (1 ≤ y.val) && decide (y.val ≤ 3) then
        [{ w := "polarity" }, { w := "mirror" }, { w := "erase", n := 0, sub := ["conf", "max"] }, { w := "reserve" }]
      else [{ w := "scans" }, { w := "agree" }, { w := "qz" }])
    ++ (if y.val = 6 then [{ w := "check" }, { w := "fullascii" }, { w := "len", n := 2 }]
      else if y.val = 7 then [{ w := "check" }, { w := "len", n := if one then 1 else 2 }] else [])
  let g ← keys ks
  if let some on := g.act then return [spell <| doSymEnable y on]
  let pol := spell <| doSymPolarity y (← g.get "polarity" (triOf "dark" "light")) (← g.get "mirror" (triOf "off" "on"))
  let erase := spell <| doSymErase y (← g.qty "erase conf") (← g.qty "erase max")
  let reserve := (← g.qty "reserve").map (fun q => spell <| doSymReserve y q)
  let scans := spell <| doSymScans y (← g.qty "scans") (← g.qty "agree") (← g.qty "qz")
  let c39 := spell <| doSymCode39 (← g.sw "check") (← g.sw "fullascii") (← g.qty2 "len")
  let lens ← if one then g.get "len" (listOf qtyOf) else pure none
  let i25 := spell <| doSymI2of5 (← g.sw "check") (← g.qty2 "len") lens
  return form (g.hasAny ["polarity", "mirror"]) pol ++ form (g.has "erase") erase ++ reserve.toList
    ++ form (g.hasAny ["scans", "agree", "qz"]) scans
    ++ form (g.hasAny ["check", "fullascii", "len"]) (if y.val = 6 then c39 else i25)

/-- `sym`. -/
def readSym : Reader (List Spelled) := do
  if ← atEnd then return [spell <| doSymReport none]
  let t ← next
  if symNames.any (fun n => n.toList == t) then
    let y ← (symOf t : CmdM SymId)
    if ← atEnd then return [spell <| doSymReport (some y)]
    return ← readSymSet y
  let w ← (matchWord ["order", "gs1"] .syntax_ t : CmdM String)
  if w == "order" then
    let cls ← elem classOf
    let l ← elem (listOf symOf)
    stop [spell <| doSymOrder cls l]
  else
    let g ← keys [{ w := "strict" }]
    return [spell <| doSymGs1 (← g.need "strict" (boolOf "on" "off"))]

/-- The settings of a trend monitor. -/
def readTrend : Reader (List Spelled) := do
  let t ← elem (instOf "t" 8)
  let g ← keys [{ w := "sym" }, { w := "heads" }, { w := "planes" }, { w := "param" }, { w := "window" }, { w := "below" }, { w := "above" },
    { w := "noread" }, action "off" 1]
  let heads (t : Tok) : CmdM (List (Fin 16)) := if t == "all".toList then .ok (List.finRange 16) else listOf headOf t
  let planes (t : Tok) : CmdM (List (Fin 4)) := if t == "all".toList then .ok (List.finRange 4) else listOf (below 4) t
  return [spell <| doGradeTrend t (g.has "off") (← g.get "sym" (orWord "any" symOf)) (← g.get "heads" heads) (← g.get "planes" planes)
    (← g.get "param" paramOf) (← g.qty "window") (← g.qty "below") (← g.qty "above") (← g.bool "noread" "count" "skip")]

/-- `grade`. -/
def readGrade : Reader (List Spelled) := do
  if ← atEnd then return [spell <| doGradeReport]
  let t ← next
  if symNames.any (fun n => n.toList == t) then
    let y ← (symOf t : CmdM SymId)
    let on ← elem (boolOf "on" "off")
    return ← stop [spell <| doGradeEnable (some y) on]
  let w ← (matchWord ["all", "aperture", "refl", "trend"] .syntax_ t : CmdM String)
  if w == "all" then
    let on ← elem (boolOf "on" "off")
    stop [spell <| doGradeEnable none on]
  else if w == "aperture" then
    let q ← elem qtyOf
    stop [spell <| doGradeAperture q]
  else if w == "refl" then
    let h ← elem headOf
    let p ← elem planeOf
    let y ← elem qtyOf
    let c ← elem qtyOf
    stop [spell <| doGradeRefl h p y c]
  else readTrend

/-- `result`. -/
def readResult (ch : Chan) : Reader (List Spelled) := do
  if ← atEnd then return [spell <| doResult ch none]
  if (← get).head?.any (fun t => (t.headD ' ').isDigit) then
    let n ← elem qtyOf
    return ← stop [spell <| doResult ch (some n)]
  let g ← keys [{ w := "text" }, { w := "detail" }]
  let port := (← g.get "text" (placeOf ["uart0", "uart1", "off"])).map
    (fun i => if i = 2 then (none : Option (Fin 2)) else some (Fin.ofNat 2 i))
  return [spell <| doResultText port (← g.sw "detail")]

/-! ### `uart`, `pwr` (R398, R420) -/

/-- `uart`. -/
def readUart (ch : Chan) : Reader (List Spelled) := do
  let u ← elem (instOf "uart" 2)
  if ← atEnd then return [spell <| doUartReport u]
  let g ← keys ([{ w := "baud" }, { w := "div" }, { w := "bits" }, { w := "parity" }, { w := "stop" }, { w := "wake" }, { w := "addr" },
    { w := "node" }, { w := "mute" }, { w := "de", n := 0, sub := ["lead", "tail", "pol"] }])
  let fmt := spell <| doUartFormat ch u (← g.qty "baud") (← g.qty "div") (← g.qty "bits") (← g.place "parity" ["none", "even", "odd"] 3) (← g.qty "stop")
  let addr := spell <| doUartAddr ch u (← g.sw "addr") (← g.qty "node") (← g.sw "mute") (← g.qty "de lead") (← g.qty "de tail")
    (← g.bool "de pol" "low" "high")
  let wake := (← g.sw "wake").map (fun b => spell <| doUartWake ch u b)
  return form (g.hasAny ["baud", "div", "bits", "parity", "stop"]) fmt ++ form (g.hasAny ["addr", "node", "mute", "de"]) addr ++ wake.toList

/-- `pwr`. -/
def readPwr (ch : Chan) : Reader (List Spelled) := do
  if ← atEnd then return [spell <| doPwrReport]
  if let some d ← instNext "pd" 8 then
    let on ← elem (boolOf "on" "off")
    return ← stop [spell <| doPwrPd d on]
  let w ← elem (matchWord ["standby", "wake", "throttle"] .syntax_)
  if w == "standby" then stop [spell <| doPwrStandby ch]
  else if w == "wake" then
    let g ← keys [{ w := "sync" }, { w := "gpio" }, { w := "edge" }]
    return [spell <| doPwrWake (← g.sw "sync") (← g.get "gpio" (listOrNone (below 8))) (← g.bool "edge" "fall" "rise")]
  else
    let q ← elem qtyOf
    stop [spell <| doPwrThrottle q]

/-! ### `host` (R484) -/

/-- `host`. -/
def readHost : Reader (List Spelled) := do
  if ← atEnd then return [spell <| doHostReport]
  let w ← elem (matchWord ["mirror", "result", "stream"] .syntax_)
  if w == "mirror" then
    let g ← keys ({ w := "base" } :: onOffKeys 0)
    let base ← g.qty "base"
    return [enabling (g.act == some true) (doHostMirror base g.act) (doHostMirror base none) (doHostMirror none (some true))]
  else if w == "result" then
    let g ← keys ([{ w := "base" }, { w := "entries" }, { w := "payload", n := 0, sub := ["base", "size"] }] ++ onOffKeys 0)
    let base ← g.qty "base"
    let n ← g.qty "entries"
    let pb ← g.qty "payload base"
    let ps ← g.qty "payload size"
    return [enabling (g.act == some true) (doHostResult base n pb ps g.act) (doHostResult base n pb ps none)
      (doHostResult none none none none (some true))]
  else
    let f ← elem (instOf "f" 4)
    let c ← elem (instOf "c" 4)
    let k ← elem (placeOf ["mv", "disp", "code"])
    let g ← keys ([{ w := "base" }, { w := "size" }] ++ onOffKeys 0)
    let kind := [StreamKind.mv, .disp, .code].getD k .mv
    let base ← g.qty "base"
    let size ← g.qty "size"
    return [enabling (g.act == some true) (doHostStream f c kind base size g.act) (doHostStream f c kind base size none)
      (doHostStream f c kind none none (some true))]

/-- The reader of the forms of a verb that configures blocks or firmware. -/
def readConf (ch : Chan) : String → Option (Reader (List Spelled))
  | "enc" => some (readEnc)
  | "trg" => some (readTrg)
  | "seq" => some (readSeq)
  | "port" => some (readPort ch)
  | "face" => some readFace
  | "seam" => some (readSeam)
  | "stock" => some (readStock)
  | "riddle" => some (readRiddle)
  | "kerf" => some (readKerf)
  | "sym" => some (readSym)
  | "grade" => some (readGrade)
  | "result" => some (readResult ch)
  | "uart" => some (readUart ch)
  | "pwr" => some (readPwr ch)
  | "host" => some (readHost)
  | _ => none

end Sys2Proof.Machine
end

