-- ==== Sys2Proof/Machine/ConfText.lean ====
section
/-!
DEFINITION. The text of a configuration set (R378): the commands that rebuild the configuration in force from reset values. A
command stands for every setting that differs from its reset value; the enables come last.
-/
namespace Sys2Proof.Machine

/-! ### Wording -/

/-- Words joined by spaces. -/
def joinWords : List (List Byte) → List Byte
  | [] => []
  | [a] => a
  | a :: l => a ++ 0x20 :: joinWords l

/-- Elements joined by commas. -/
def joinList : List (List Byte) → List Byte
  | [] => []
  | [a] => a
  | a :: l => a ++ 0x2C :: joinList l

/-- A word of a list. -/
def wordAt (ws : List String) (n : Nat) : List Byte := bytesOf (ws.getD n "")

/-- A name with a number. -/
def unitB (w : String) (n : Nat) : List Byte := bytesOf w ++ decBytes n

/-- A list of the elements given, or `none`. -/
def listB (l : List (List Byte)) : List Byte := if l.isEmpty then bytesOf "none" else joinList l

/-- The places of the bits set in a number. -/
def bitsSet (n w : Nat) : List Nat := (List.range w).filter n.testBit

/-- `on` or `off`. -/
def onB (b : Bool) : List Byte := bytesOf (if b then "on" else "off")

/-- A keyword with its value. -/
def kw (w : String) (v : List Byte) : List Byte := bytesOf w ++ 0x20 :: v

/-- The decimals of a number below 10^d. -/
def decimals (v : Nat) : Nat → List Byte
  | 0 => []
  | d + 1 => BitVec.ofNat 8 (48 + v / 10 ^ d % 10) :: decimals v d

/-- A number of units of 1/den with d decimals, which give the same number of units back. -/
def fracB (v : Int) (den d : Nat) : List Byte :=
  let n := (v.natAbs * 10 ^ d * 2 + den) / (2 * den)
  (if v < 0 then [0x2D] else []) ++ decBytes (n / 10 ^ d) ++ 0x2E :: decimals (n % 10 ^ d) d

/-- A position of 48.16 with at most 18 significant digits (R355). -/
def posB (v : Nat) : List Byte := fracB v 65536 (min 6 (18 - (Nat.toDigits 10 (v / 65536)).length))

/-- A number as a command gave it. -/
def qtyB (q : Qty) : List Byte := if q.e = 0 then intBytes q.m else fracB q.m (10 ^ q.e) q.e

/-- A command with its leading words, where it has a setting. -/
def group (lead : List (List Byte)) (l : List (List Byte)) : List (List Byte) := if l.isEmpty then [] else [joinWords (lead ++ l)]

/-- The setting that a field holds, where it differs from its reset value. -/
def State.setting (s : State) (a hi lo : Nat) (f : Nat → List Byte) : List (List Byte) :=
  let v := bits (s.reg a).toNat hi lo
  if v = bits (RegMap.reset a).toNat hi lo then [] else [f v]

/-- A field as a number: scaled, offset, with a unit. -/
def State.number (s : State) (w : String) (a hi lo scale ofs : Nat) (u : String) : List (List Byte) :=
  s.setting a hi lo (fun v => kw w (decBytes (v * scale + ofs) ++ bytesOf u))

/-- A bit as one of two words. -/
def State.choice (s : State) (w : String) (a i : Nat) (zero one : String) : List (List Byte) :=
  s.setting a i i (fun v => kw w (wordAt [zero, one] v))

/-- A number held in two registers. -/
def State.pair (s : State) (l h w : Nat) : Nat := (s.reg l).toNat + (s.reg h).toNat * 2 ^ w

/-- Two registers differ from their reset values. -/
def State.moved (s : State) (l h : Nat) : Bool := s.reg l != RegMap.reset l || s.reg h != RegMap.reset h

/-! ### Encoders, triggers, SYNC, sequencers (R83, R99) -/

/-- An encoder channel. -/
def State.encText (s : State) (e : Nat) : List (List Byte) :=
  let c := Adr.encCtrl e
  group [bytesOf "enc", unitB "e" e]
      (s.setting c 2 1 (fun v => kw "mode" (wordAt ["stepdir", "updown"] v)) ++ s.setting c 4 3 (fun v => kw "edge" (wordAt ["rise", "fall", "both"] v))
        ++ s.choice "invert" c 5 "off" "on" ++ s.number "minedge" (Adr.encMinEdge e) 19 0 5 0 "ns"
        ++ s.number "glitchlim" (Adr.encGlitchLim e) 19 0 1 0 "" ++ s.number "window" (Adr.encWindow e) 19 0 1 0 "us"
        ++ s.number "standstill" (Adr.encStandstill e) 19 0 1 0 "us" ++ s.choice "wake" c 8 "off" "on")
    ++ group [bytesOf "enc", unitB "e" e, bytesOf "index"]
      (s.number "period" (Adr.encIndexPeriod e) 19 0 1 0 "" ++ s.number "tol" (Adr.encIndexTol e) 19 0 1 0 ""
        ++ s.choice "mode" c 7 "count" "snap" ++ s.choice "pol" c 6 "rise" "fall")

/-- A schedule. -/
def State.schedText (s : State) (c : Nat) : List (List Byte) :=
  let p := s.pair (Adr.trgcPitchFrac c) (Adr.trgcPitchInt c) 16
  let o := s.pair (Adr.trgcOrgF c) (Adr.trgcOrgL c) 16 + s.pair (Adr.trgcOrgM c) (Adr.trgcOrgH c) 16 * 2 ^ 32
  group [bytesOf "trg", unitB "e" c]
    ((if s.moved (Adr.trgcPitchFrac c) (Adr.trgcPitchInt c) then [kw "pitch" (fracB p 65536 6)] else [])
      ++ (if s.flag (Adr.trgcCtrl c) 2 then [bytesOf "origin here"] else if o = 0 then [] else [kw "origin" (posB o)])
      ++ s.choice "reverse" (Adr.trgcCtrl c) 1 "off" "on")

/-- A head's triggers. -/
def State.headText (s : State) (h : Nat) : List (List Byte) :=
  let d := sext 24 (s.fld (Adr.trghDelayL h) 15 0 + 65536 * s.fld (Adr.trghDelayH h) 7 0)
  group [bytesOf "trg", unitB "h" h]
    (s.setting (Adr.trghCtrl h) 2 1 (fun v => kw "chan" (unitB "e" v)) ++ (if d = 0 then [] else [kw "delay" (intBytes d)])
      ++ s.number "minint" (Adr.trghMinInt h) 19 0 5 0 "ns" ++ s.number "slab" (Adr.trghSlab h) 12 0 1 1 "")

/-- The SYNC port. -/
def State.syncText (s : State) : List (List Byte) :=
  let c := Adr.syncCtrl
  group [bytesOf "trg", bytesOf "sync"]
    (s.setting c 1 0 (fun v => if v = 1 then kw "master" (kw "slaves" (decBytes (s.fld c 5 4))) else kw "slave" (decBytes (s.fld c 3 2)))
      ++ s.setting c 9 8 (fun v => kw "chan" (unitB "e" v))
      ++ (if s.flag c 7 then [kw "lat" (decBytes (5 * (s.reg Adr.syncLat).toNat) ++ bytesOf "ns")] else [])
      ++ s.choice "restate" c 10 "off" "on")

/-- The settings of a light state. -/
def State.lightText (s : State) (aL aE : Nat) : List (List Byte) :=
  s.setting aL 19 12 (fun v => kw "light" (listB ((bitsSet v 8).map (unitB "ch")))) ++ s.number "int" aL 11 8 1 0 ""
    ++ s.number "plane" aL 7 6 1 0 "" ++ s.number "exp" aE 19 0 5 0 "ns"

/-- The contents of a sequencer's bank. -/
def State.bankText (s : State) (q : Nat) (b : Bool) : List (List Byte) :=
  let lead := [bytesOf "seq", unitB "q" q]
  group lead (if b then s.number "len" (Adr.seqLen q) 13 8 1 0 "" else s.number "len" (Adr.seqLen q) 5 0 1 0 "")
    ++ (List.range 48).flatMap (fun i => group (lead ++ [unitB "step " i]) (s.lightText (stepLight q b i) (stepExp q b i)))

/-- A sequencer. Without a record its commands act on the bank that BANK does not name, so bank 1 is filled first, then bank 0
with BANK 1; BANK ends as it is. -/
def State.seqText (s : State) (q : Nat) : List (List Byte) :=
  let c := Adr.seqCtrl q
  let lead := [bytesOf "seq", unitB "q" q]
  let swap := [joinWords (lead ++ [bytesOf "swap"])]
  let zero := s.bankText q false
  group lead (s.setting c 2 1 (fun v => kw "chan" (unitB "e" v)))
    ++ group (lead ++ [bytesOf "fixed"]) (s.lightText (Adr.seqFixed q) (Adr.seqFixedExp q))
    ++ (List.range 4).flatMap (fun i => (s.setting c (4 + i) (4 + i) (fun v => joinWords (lead ++ [bytesOf "tally", unitB "h" (4 * q + i), onB (v == 1)]))))
    ++ s.bankText q true ++ (if zero.isEmpty then [] else swap ++ zero) ++ (if zero.isEmpty != s.seqBank q then [] else swap)

/-! ### Ports and Faces (R121, R147, R168) -/

/-- The name of a data type. -/
def dtText (v : Nat) : List Byte :=
  if v = 0x24 then bytesOf "rgb888" else if v = 0x12 then bytesOf "emb8" else if 0x30 ≤ v then unitB "user" (v - 0x30)
  else unitB "raw" (8 + 2 * (v - 0x2A))

/-- A camera port. -/
def State.portText (s : State) (p : Nat) : List (List Byte) :=
  let c := Adr.portCtrl p
  let lead := [bytesOf "port", unitB "p" p]
  let tmo := s.number "fs" (Adr.portTmoFs p) 19 0 1 0 "us" ++ s.number "fe" (Adr.portTmoFe p) 19 0 100 0 "us"
  group lead (s.setting c 2 1 (fun v => kw "lanes" (decBytes (2 ^ v))) ++ s.number "rate" (Adr.portPhyRate p) 19 0 1 0 "mbps"
      ++ s.number "fill" (Adr.portFill p) 19 0 1 0 "" ++ (if tmo.isEmpty then [] else bytesOf "tmo" :: tmo))
    ++ (List.range 2).flatMap (fun st => group (lead ++ [unitB "img" st])
      (s.number "vc" (Adr.portFilt p st) 3 0 1 0 "" ++ s.setting (Adr.portFilt p st) 9 4 (fun v => kw "dt" (dtText v))
        ++ s.number "width" (Adr.portWidth p st) 13 0 1 1 "" ++ s.setting c (4 + st) (4 + st) (fun v => onB (v == 1))))
    ++ group (lead ++ [bytesOf "emb"])
      (s.number "vc" (Adr.portEmbFilt p) 3 0 1 0 "" ++ s.setting (Adr.portEmbFilt p) 9 4 (fun v => kw "dt" (dtText v))
        ++ s.setting c 6 6 (fun v => onB (v == 1)))
    ++ group (lead ++ [bytesOf "align"])
      (s.number "counter" (Adr.portCnt p) 9 0 1 0 "" ++ s.setting (Adr.portCnt p) 10 10 (wordAt ["msb", "lsb"])
        ++ s.number "offset" (Adr.portCntOfs p) 15 0 1 0 "" ++ s.setting c 7 7 (fun v => onB (v == 1)))

/-- The words that fill a table. -/
def fillText : TblFill → List Byte
  | .record n => kw "load" (bytesOf n)
  | .zero => bytesOf "zero"
  | .gain g => kw "fill" (qtyB g)
  | .linear => bytesOf "linear"
  | .gamma g => kw "gamma" (qtyB g)

/-- The words that name a table, and the filling of its bank. -/
def opText (f kind ctx idx : Nat) : TblOp → List Byte
  | .add c col m => joinWords [bytesOf "face", unitB "f" f, bytesOf "defect add", unitB "c" c, unitB "col " col,
      wordAt ["", "mean", "left", "right"] (methodCode m)]
  | .fill fl =>
    let lead := if kind = 2 then [bytesOf "face", unitB "f" f, bytesOf "defect"]
      else [bytesOf "face", unitB "f" f, unitB "c" ctx]
        ++ (if kind = 0 then [bytesOf "black"] else if kind = 1 then [unitB "flat p" idx] else [unitB "tone ch" idx])
    joinWords (lead ++ [if kind = 2 && fl == .zero then bytesOf "clear" else fillText fl])

/-- The filling of the tables of a kind and context in one bank, by the names of their records (R378). -/
def State.tblText (s : State) (f kind ctx : Nat) (b : Bool) : List (List Byte) :=
  (List.range (if kind = 1 then 4 else if kind = 3 then 3 else 1)).flatMap (fun idx =>
    (SMap.get (fun _ => ([] : List TblOp)) (s.face f).src (bankNo kind ctx idx b)).map (opText f kind ctx idx))

/-- The tables of a kind and context: the bank in force filled and selected, then the other bank. -/
def State.tablesText (s : State) (f kind ctx : Nat) : List (List Byte) :=
  let b := s.bankAct f kind ctx
  let act := s.tblText f kind ctx b
  let swap := joinWords ([bytesOf "face", unitB "f" f] ++ (if kind = 2 then [] else [unitB "c" ctx])
    ++ [wordAt ["black swap", "flat swap", "defect swap", "tone swap"] kind])
  (if act.isEmpty then [] else act ++ [swap]) ++ s.tblText f kind ctx (!b)

/-- Both scale factors of an output. -/
def scaleText (v : Nat) : List Byte := kw "scale" (joinWords [decBytes (2 ^ (v % 8)), decBytes (2 ^ (v / 8))])

/-- A context of a Face. -/
def State.ctxText (s : State) (f c : Nat) : List (List Byte) :=
  let lead := [bytesOf "face", unitB "f" f, unitB "c" c]
  let cm := Adr.fctxCmode f c
  let src := Adr.fsrcSrc f c
  let planes (v : Nat) : List Byte := listB ((bitsSet v 4).map decBytes)
  let al := s.setting (Adr.fctxAlign f c) 17 0 (fun v => kw "align" (joinWords [decBytes (v % 64), decBytes (v / 64 % 64), decBytes (v / 4096)]))
  let mat := matRegs f c
  group lead
      (s.setting cm 1 0 (fun v => kw "mode" (wordAt ["mono", "trilinear", "twoline"] v))
        ++ (if s.fld cm 5 2 = 0 then [] else s.setting cm 5 2 (fun v => kw "planes" (planes v))) ++ al
        ++ (if mat.all (fun a => s.reg a == RegMap.reset a) then []
          else [kw "matrix" (joinWords (mat.map (fun a => fracB (s.reg a).toInt 32768 6)))])
        ++ s.setting cm 12 6 (fun v => kw "bypass" (listB ((bitsSet v 7).map (wordAt ["black", "static", "dynamic", "flat", "wb", "matrix", "tone"])))))
    ++ (List.range 4).flatMap (fun p =>
      s.setting (Adr.fctxGlob f c p) 19 0 (fun _ => joinWords (lead ++ [unitB "black p" p, intBytes (s.reg (Adr.fctxGlob f c p)).toInt]))
        ++ (let w := (List.range 3).map (fun i => Adr.fctxWb f c (3 * p + i))
            if w.all (fun a => s.reg a == RegMap.reset a) then []
            else [joinWords (lead ++ unitB "wb p" p :: w.map (fun a => fracB (s.reg a).toNat 65536 6))]))
    ++ group (lead ++ [bytesOf "dynamic"]) (s.number "hi" (Adr.fctxDynHi f c) 19 0 1 0 "" ++ s.number "lo" (Adr.fctxDynLo f c) 19 0 1 0 "")
    ++ [0, 1, 3].flatMap (fun k => s.tablesText f k c)
    ++ (if (s.setting src 5 1 (fun _ => [])).isEmpty && s.reg (Adr.fsrcSpool f c) == RegMap.reset (Adr.fsrcSpool f c) && s.dramAddr (Adr.fsrcSpoolBaseL f c) (Adr.fsrcSpoolBaseH f c) = 0 then []
      else [joinWords (lead ++ [bytesOf "source", unitB "p" (s.ctxPort f c), unitB "img" (s.ctxStream f c)]
        ++ (if s.ctxInline f c then [bytesOf "inline"]
          else [bytesOf "spool", kw "slabs" (decBytes (s.fld (Adr.fsrcSpool f c) 6 0)), kw "lines" (decBytes (s.spoolLines f c))])
        ++ [kw "stock" (onB (s.ctxStock f c))])])
    ++ group (lead ++ [bytesOf "mv"])
      (s.setting (Adr.fsrcMv f c) 3 0 (fun v => kw "planes" (planes v)) ++ s.choice "bits" (Adr.fsrcMv f c) 4 "8" "16")
    ++ (let d := Adr.fsrcDisp f c
        let l := s.number "plane" d 2 1 1 0 "" ++ s.setting d 8 3 scaleText ++ s.choice "overlay" d 9 "off" "on"
          ++ s.number "delay" (Adr.fsrcDispDly f c) 7 0 1 0 ""
        if s.flag d 0 then group (lead ++ [bytesOf "disp"]) (if l.isEmpty then [kw "delay" (decBytes (s.fld (Adr.fsrcDispDly f c) 7 0))] else l)
        else if l.isEmpty then [] else group (lead ++ [bytesOf "disp"]) (l ++ [bytesOf "off"]))
    ++ (let d := Adr.fsrcCode f c
        let l := s.number "plane" d 2 1 1 0 "" ++ s.setting d 8 3 scaleText
        if s.flag d 0 then group (lead ++ [bytesOf "code"]) (if l.isEmpty then [kw "plane" (decBytes (s.fld d 2 1))] else l)
        else if l.isEmpty then [] else group (lead ++ [bytesOf "code"]) (l ++ [bytesOf "off"]))

/-- A Face. -/
def State.faceText (s : State) (f : Nat) : List (List Byte) :=
  let ovl (cls : CandClass) (w : String) : List (List Byte) := s.setting (ovlReg f cls) 17 0 (fun v =>
    joinWords [bytesOf "face", unitB "f" f, kw "overlay" (bytesOf w), decBytes (v / 4096), decBytes (v / 64 % 64), decBytes (v % 64)])
  s.tablesText f 2 0 ++ ovl .linear "linear" ++ ovl .grid "grid" ++ ovl .dot "dot" ++ (List.range 4).flatMap (s.ctxText f)

/-! ### Seams, stockpiles, the Riddle, Kerfs (R190, R222) -/

/-- A Seam. -/
def State.seamText (s : State) (f : Nat) : List (List Byte) :=
  let lead := [bytesOf "seam", unitB "s" f]
  let three (v : Nat) : List Byte := joinWords [decBytes (v % 64), decBytes (v / 64 % 64), decBytes (v / 4096)]
  group lead (s.number "margin" (Adr.seamCtrl f) 3 1 1 1 "" ++ s.number "hmax" (Adr.seamCtrl f) 11 4 1 0 "")
    ++ group lead (s.number "tol" (Adr.seamOriTol f) 2 0 1 0 "" ++ s.setting (Adr.seamMint f) 17 0 (fun v => kw "mintiles" (three v)))
    ++ group (lead ++ [bytesOf "vote"]) (s.number "mag" (Adr.seamMagMagMin f) 19 0 1 0 "" ++ s.number "count" (Adr.seamVotesNMin f) 19 0 1 0 ""
      ++ s.number "mass" (Adr.seamMassMMin f) 19 0 1 0 "")
    ++ group (lead ++ [bytesOf "dot"]) (s.number "con" (Adr.seamDot f) 7 0 1 0 "" ++ s.number "min" (Adr.seamDot f) 16 8 1 0 ""
      ++ s.setting (Adr.seamDot f) 18 17 (fun v => kw "pol" (wordAt ["bright", "dark", "both", "off"] v)))
    ++ group (lead ++ [bytesOf "linear"]) (s.number "conc" (Adr.seamLin f) 7 0 1 0 "" ++ s.number "bal" (Adr.seamLin f) 15 8 1 0 "")
    ++ group (lead ++ [bytesOf "grid"]) (s.number "conc" (Adr.seamGrid f) 7 0 1 0 "" ++ s.number "orth" (Adr.seamGrid f) 15 8 1 0 "")

/-- The search images of a Seam. -/
def State.searchText (s : State) (f : Nat) : List (List Byte) :=
  (List.range 4).flatMap (fun c => s.setting (Adr.sctxSrc f c) 6 0 (fun v =>
    let two := joinWords [decBytes (bits v 4 3), decBytes (bits v 6 5)]
    joinWords [bytesOf "seam", unitB "s" f, unitB "c" c,
      if bits v 2 1 = 0 then kw "plane" (decBytes (bits v 4 3)) else if bits v 2 1 = 1 then kw "max" two else kw "min" two,
      onB (v % 2 == 1)]))

/-- The stockpile of a head and plane. -/
def State.stockText (s : State) (h p : Nat) : List (List Byte) :=
  group [bytesOf "stock", unitB "h" h, unitB "p" p] (s.number "depth" (Adr.stockCtrl h p) 8 1 256 256 "")

/-- The geometry in force (R196): its heads and channels, then the commit. -/
def State.geoText (s : State) : List (List Byte) :=
  let geo := s.geo s.riddle.gset
  let base (a : Nat) : Bool := geo a == (RegMap.reset a).toNat
  let g := (List.range 16).flatMap (fun h =>
    let rs := [Adr.riddleGeoA0L h, Adr.riddleGeoA0H h, Adr.riddleGeoA1L h, Adr.riddleGeoA1H h, Adr.riddleGeoA2 h]
    let r := geo (Adr.riddleGeoRight h)
    group [bytesOf "riddle", unitB "head h" h]
      ((if rs.all base then [] else
          [kw "geometry" (joinWords [intBytes (sext 24 (geo (Adr.riddleGeoA0L h) + 65536 * geo (Adr.riddleGeoA0H h))),
            fracB (sext 24 (geo (Adr.riddleGeoA1L h) + 65536 * geo (Adr.riddleGeoA1H h))) 65536 6, fracB (sext 20 (geo (Adr.riddleGeoA2 h))) (2 ^ 32) 12])])
        ++ (if r < 16 then [] else [kw "right" (unitB "h" (r % 16))])))
    ++ (List.range 4).flatMap (fun e =>
      if base (Adr.riddleUpc e) then [] else [joinWords [bytesOf "riddle", unitB "chan e" e, kw "upc" (fracB (geo (Adr.riddleUpc e)) 1024 6)]])
  if g.isEmpty then [] else g ++ [bytesOf "riddle commit"]

/-- The Riddle and the Kerfs. -/
def State.riddleText (s : State) : List (List Byte) :=
  s.geoText
    ++ group [bytesOf "riddle join"] (s.number "edge" Adr.riddleJoin 7 0 1 0 "" ++ s.setting Adr.riddleJoin 19 8 (fun v => kw "angle" (fracB v 100 2))
      ++ s.number "lead" Adr.riddleJoinLead 19 0 1 0 "" ++ s.number "timeout" Adr.riddleJoinTmo 19 0 1 0 "ms")
    ++ group [bytesOf "riddle dup"] (s.number "dist" Adr.riddleDupDist 19 0 1 0 "" ++ s.setting Adr.riddleDupAng 19 0 (fun v => kw "angle" (fracB v 100 2))
      ++ s.number "window" Adr.riddleDupWin 19 0 1 0 "")
    ++ (List.range 3).flatMap (fun i => group [bytesOf "riddle class", wordAt ["linear", "grid", "dot"] i]
      (s.setting (Adr.riddleClsScale i) 19 0 (fun v => kw "scale" (fracB v 256 6)) ++ s.number "margin" (Adr.riddleClsPmargin i) 19 0 1 0 ""
        ++ s.number "deadline" (Adr.riddleClsDeadline i) 19 0 1 0 "ms" ++ s.choice "interp" (Adr.riddleClsCut i) 0 "bilinear" "bicubic"
        ++ (if s.fld (Adr.riddleClsCut i) 8 1 = 0 then [] else
          s.setting (Adr.riddleClsCut i) 8 1 (fun v => kw "benches" (joinList ((bitsSet v 8).map (unitB "b")))))))
    ++ (List.range 8).flatMap (fun b =>
      if (s.bench b).leased || s.retired b then [] else
        let lead := [bytesOf "riddle", unitB "bench b" b]
        let l := group lead (s.number "area" (Adr.riddleParea b) 19 0 1 0 "" ++ s.number "slots" (Adr.riddlePslot b) 15 10 1 0 ""
          ++ s.number "size" (Adr.riddlePslot b) 9 0 1 0 "")
        let on := s.flag Adr.riddleBenches b
        (if l.isEmpty && on then [] else [joinWords (lead ++ [bytesOf "off"])]) ++ l
          ++ (if l.isEmpty || !on then [] else [joinWords (lead ++ [bytesOf "on"])]))
    ++ (List.range 8).flatMap (fun k => group [bytesOf "kerf", unitB "k" k]
      (s.number "fill" (Adr.kerfFill k) 19 0 1 0 "" ++ (if s.flag (Adr.kerfCtrlEn k) 0 || s.outOfService (0x20 + k) then [] else [bytesOf "off"])))

/-! ### Firmware settings (R241, R261) -/

/-- The name of a symbology. -/
def symB (i : Nat) : List Byte := wordAt symNames (i - 1)

/-- A value that differs from another. -/
def changed {α : Type} [DecidableEq α] (a b : α) (f : α → List Byte) : List (List Byte) := if a = b then [] else [f a]

/-- A symbology. -/
def FwSet.symLines (f : FwSet) (i : Nat) : List (List Byte) :=
  let x := f.sym i
  let r := symReset i
  let lead := [bytesOf "sym", symB i]
  let num (w : String) (n : Nat) : List Byte := kw w (decBytes n)
  let er := changed x.eraseConf r.eraseConf (num "conf") ++ changed x.eraseMax r.eraseMax (num "max")
  let len := if i = 7 && !x.lens.isEmpty then [kw "len" (joinList (x.lens.map decBytes))]
    else changed (x.lenMin, x.lenMax) (r.lenMin, r.lenMax) (fun p => kw "len" (joinWords [decBytes p.1, decBytes p.2]))
  changed x.on r.on (fun b => joinWords (lead ++ [onB b]))
    ++ group lead
      (if is2d i then
        changed x.pol r.pol (fun t => kw "polarity" (wordAt ["dark", "light", "auto"] (Tri.num t)))
          ++ changed x.mirror r.mirror (fun t => kw "mirror" (wordAt ["off", "on", "auto"] (Tri.num t)))
          ++ (if er.isEmpty then [] else bytesOf "erase" :: er) ++ changed x.reserve r.reserve (num "reserve")
      else changed x.scans r.scans (num "scans") ++ changed x.agree r.agree (num "agree") ++ changed x.qz r.qz (num "qz")
        ++ (if i = 6 || i = 7 then changed x.check r.check (fun b => kw "check" (onB b)) ++ len else [])
        ++ (if i = 6 then changed x.fullascii r.fullascii (fun b => kw "fullascii" (onB b)) else []))
    ++ changed x.grade r.grade (fun b => joinWords [bytesOf "grade", symB i, onB b])

/-- K_hp as a percentage and a level: the fraction held was formed from a level of at most 255 and a power of ten. -/
def reflText (k : Nat) (v : Nat × Nat) : List Byte :=
  let e := ((List.range 19).find? (fun e => v.2 % 10 ^ e == 0 && decide (v.2 / 10 ^ e ≤ 255) && decide (v.1 ≤ 100 * 10 ^ e))).getD 0
  joinWords [bytesOf "grade refl", unitB "h" (k / 4), unitB "p" (k % 4), decBytes (v.2 / 10 ^ e), qtyB { m := v.1, e := e }]

/-- A trend monitor. -/
def trendText (t : Nat) (m : TrendMon) : List Byte :=
  joinWords [unitB "grade trend t" t, kw "sym" (match m.sym with | some y => symB y | none => bytesOf "any"),
    kw "heads" (joinList (m.heads.map (unitB "h"))), kw "planes" (joinList (m.planes.map decBytes)), kw "param" (bytesOf m.param.text),
    kw "window" (decBytes m.window), kw "below" (fracB m.below 10 1), kw "above" (fracB m.above 10 1),
    kw "noread" (wordAt ["skip", "count"] (b2n m.noread))]

/-- The firmware settings. -/
def FwSet.lines (f : FwSet) : List (List Byte) :=
  let r : FwSet := {}
  let order (w : String) (l : List Nat) : List Byte := joinWords [bytesOf "sym order", bytesOf w, joinList (l.map symB)]
  (List.range 11).flatMap (fun i => f.symLines (i + 1))
    ++ changed f.orderLin r.orderLin (order "linear") ++ changed f.orderGrid r.orderGrid (order "grid") ++ changed f.orderDot r.orderDot (order "dot")
    ++ changed f.gs1Strict r.gs1Strict (fun b => kw "sym gs1 strict" (onB b)) ++ changed f.aper r.aper (fun n => kw "grade aperture" (decBytes n))
    ++ f.refl.map (fun p => reflText p.1 p.2) ++ f.trends.flatMap (fun p => p.2.toList.map (trendText p.1))
    ++ changed (f.text, f.detail) (r.text, r.detail) (fun p => joinWords [kw "result text" (match p.1 with | some u => unitB "uart" u | none => bytesOf "off"),
      kw "detail" (onB p.2)])

/-! ### Host rings, power, serial ports (R398, R420, R484) -/

/-- A base address of the host. -/
def State.baseText (s : State) (l h : Nat) : List (List Byte) := if s.moved l h then [kw "base" (decBytes (s.hostBase l h))] else []

/-- The rings' and the mirror's places. -/
def State.hostText (s : State) : List (List Byte) :=
  let pay := s.baseText Adr.pciePayBaseL Adr.pciePayBaseH ++ s.number "size" Adr.pciePaySize 19 0 4096 0 ""
  group [bytesOf "host mirror"] (s.baseText Adr.pcieMirBaseL Adr.pcieMirBaseH)
    ++ group [bytesOf "host result"] (s.baseText Adr.pcieResBaseL Adr.pcieResBaseH
      ++ s.setting Adr.pcieResSize 19 0 (fun v => kw "entries" (decBytes (2 ^ (10 + v)))) ++ (if pay.isEmpty then [] else bytesOf "payload" :: pay))
    ++ (List.range 48).flatMap (fun r => group [bytesOf "host stream", unitB "f" (r / 12), unitB "c" (r / 3 % 4), wordAt ["mv", "disp", "code"] (r % 3)]
      (s.baseText (Adr.pcieStreamBaseL r) (Adr.pcieStreamBaseH r) ++ s.setting (Adr.pcieStreamSize r) 19 0 (fun v => kw "size" (decBytes (2 ^ (16 + v))))))

/-- Wake sources and throttling. -/
def State.powerText (s : State) : List (List Byte) :=
  group [bytesOf "pwr wake"] (s.choice "sync" Adr.pwrWake 0 "off" "on"
      ++ s.setting Adr.pwrWake 8 1 (fun v => kw "gpio" (listB ((bitsSet v 8).map decBytes))) ++ s.choice "edge" Adr.pwrWake 9 "rise" "fall")
    ++ s.setting Adr.pwrThermCtrl 7 0 (fun v => kw "pwr throttle" (decBytes v))

/-- A serial port, as its waiting changes will leave it. -/
def State.uartText (s : State) (u : Nat) : List (List Byte) :=
  let s := (s.uart u).after.foldl (fun s p => s.setReg p.1 p.2) s
  let f := Adr.uartFmt u
  let c := Adr.uartCtrl u
  let de := s.number "lead" (Adr.uartDe u) 7 0 1 0 "" ++ s.number "tail" (Adr.uartDe u) 15 8 1 0 "" ++ s.choice "pol" c 4 "high" "low"
  let own := s.choice "addr" f 1 "off" "on" ++ s.number "node" (Adr.uartNode u) 7 0 1 0 "" ++ s.choice "mute" c 3 "off" "on"
    ++ (if de.isEmpty then [] else bytesOf "de" :: de)
  group [unitB "uart uart" u]
    (s.number "div" (Adr.uartDiv u) 15 0 1 0 "" ++ s.setting f 0 0 (fun v => kw "bits" (decBytes (8 - v)))
      ++ s.setting f 3 2 (fun v => kw "parity" (wordAt ["none", "even", "odd"] v)) ++ s.number "stop" f 4 4 1 1 ""
      ++ (if u = 0 then own else []) ++ s.choice "wake" c 2 "off" "on")

/-! ### The whole set -/

/-- The enables, and what needs them. -/
def State.enableText (s : State) : List (List Byte) :=
  let on (b : Bool) (w : List (List Byte)) : List (List Byte) := if b then [joinWords (w ++ [bytesOf "on"])] else []
  (List.range 16).flatMap (fun p => on (s.flag (Adr.portCtrl p) 0) [bytesOf "port", unitB "p" p])
    ++ (List.range 16).flatMap (fun i => on (s.ctxEn (i / 4) (i % 4)) [bytesOf "face", unitB "f" (i / 4), unitB "c" (i % 4)])
    ++ (List.range 4).flatMap s.searchText
    ++ (List.range 4).flatMap (fun f => on (s.flag (Adr.seamCtrl f) 0) [bytesOf "seam", unitB "s" f])
    ++ (List.range 64).flatMap (fun i => on (s.stockEn (i / 4) (i % 4)) [bytesOf "stock", unitB "h" (i / 4), unitB "p" (i % 4)])
    ++ on (s.flag Adr.riddleCtrlEn 0) [bytesOf "riddle"]
    ++ on (s.flag Adr.pcieCtrl 1) [bytesOf "host mirror"] ++ on (s.flag Adr.pcieCtrl 0) [bytesOf "host result"]
    ++ (List.range 48).flatMap (fun r => on (s.ringEn r)
      [bytesOf "host stream", unitB "f" (r / 12), unitB "c" (r / 3 % 4), wordAt ["mv", "disp", "code"] (r % 3)])
    ++ s.syncText
    ++ (List.range 4).flatMap (fun q => on (s.seqEn q) [bytesOf "seq", unitB "q" q])
    ++ (List.range 16).flatMap (fun h => on (s.headEn h) [bytesOf "trg", unitB "h" h])
    ++ (List.range 4).flatMap (fun c => on (s.flag (Adr.trgcCtrl c) 0) [bytesOf "trg", unitB "e" c])

/-- The commands that rebuild the configuration in force, in the order in which a load runs them; domains are switched off
last. (DESIGN CHOICE, log 129) -/
def State.setLines (s : State) : List (List Byte) :=
  (List.range 4).flatMap s.encText ++ (List.range 4).flatMap s.schedText ++ (List.range 16).flatMap s.headText
    ++ (List.range 4).flatMap s.seqText ++ (List.range 16).flatMap s.portText ++ (List.range 4).flatMap s.faceText
    ++ (List.range 4).flatMap s.seamText ++ (List.range 64).flatMap (fun i => s.stockText (i / 4) (i % 4)) ++ s.riddleText
    ++ s.fw.lines ++ s.hostText ++ s.powerText ++ s.enableText
    ++ [2, 3, 4, 5, 6].flatMap (fun d => if s.flag Adr.pwrReq d then [] else [joinWords [unitB "pwr pd" d, bytesOf "off"]])
    ++ (List.range 2).flatMap s.uartText

end Sys2Proof.Machine
end

