-- ==== Sys2Proof/Machine/ConfSet.lean ====
section
/-!
DEFINITION. Configuration sets (R378 to R380): the set that a save writes, and the loading of one.
-/
namespace Sys2Proof.Machine

/-! ### `save` (R378) -/

/-- The most characters that a set holds (R378). -/
def setRoom : Nat := 262144

/-- The set of the configuration in force; `nospace` where its text is too long. -/
def State.snapshot (s : State) (name : String) : CmdM CfgSet :=
  let ls := s.setLines
  if (textOf ls).length ≤ setRoom then .ok { name := name, lines := ls, crc := crc32 (textOf ls) } else .error .nospace

/-! ### `load` (R379) -/

/-- A load's outcome: the state, and the code and line number of the command that failed. -/
abbrev LoadRun := State × Option (ErrCode × Nat)

/-- A load on its way: the state, the enables held back with their line numbers, and the failure. -/
structure Loading where
  st : State
  late : List (Nat × (State → CmdM CmdOk)) := []
  err : Option (ErrCode × Nat) := none

/-- The command of line n, unless one has failed. -/
def Loading.run (r : Loading) (n : Nat) (f : State → CmdM CmdOk) : Loading :=
  if r.err.isSome then r
  else
    match f r.st with
    | .ok o => { r with st := o.st }
    | .error e => { r with err := some (e, n) }

/-- One command of line n, the enable that it holds put back. -/
def Loading.spelled (n : Nat) (r : Loading) (p : Spelled) : Loading :=
  match p.held with
  | none => r.run n p.run
  | some (early, late) =>
    let r := r.run n early
    { r with late := r.late ++ [(n, late)] }

/-- The commands that a line of a set spells. -/
def setWords (l : List Byte) : CmdM (List Spelled) :=
  match words l with
  | [] => .ok []
  | v :: r => do
    let verb ← matchWord verbs .verb v
    match readConf 9 verb with
    | none => .error .verb
    | some f => return (← f r).1

/-- Line n of a set. -/
def Loading.line (r : Loading) (l : List Byte × Nat) : Loading :=
  match setWords l.1 with
  | .error e => if r.err.isSome then r else { r with err := some (e, l.2) }
  | .ok ps => ps.foldl (Loading.spelled l.2) r

/-- The enables of the encoder channels, which have no command and reset to 1. -/
def State.encEnables (s : State) (on : Bool) : State := upTo 4 (fun e s => s.pokeBit (Adr.encCtrl e) 0 on) s

/-- The lines of a set in order, the encoder channels held off meanwhile, then the enables that were held back (R379, steps 3
and 4). -/
def State.runSet (s : State) (ls : List (List Byte)) : Loading :=
  let r := (ls.zipIdx 1).foldl Loading.line { st := s.encEnables false }
  r.late.foldl (fun r p => r.run p.1 p.2) { r with st := r.st.encEnables true }

/-- The settings of a serial port at reset, and its counters. -/
def uartReset (u : Nat) : List (Nat × Word) × List Nat :=
  ([Adr.uartDiv u, Adr.uartFmt u, Adr.uartNode u, Adr.uartDe u, Adr.uartCtrl u].map (fun a => (a, RegMap.reset a)),
   [Adr.uartFeCnt u, Adr.uartPeCnt u, Adr.uartGlitchCnt u, Adr.uartOeCnt u])

/-- The serial ports as they end: the port that carries the command changes after the last stop bit of its `ok` (R393), the
others at once. -/
def State.uartsTo (s : State) (ch : Option Nat) (l : Nat → List (Nat × Word)) : State :=
  upTo 2 (fun u s =>
    if ch = some (uartChan u) then s.setUart u { s.uart u with after := (l u).filter (fun p => s.reg p.1 != p.2) }
    else (l u).foldl (fun s p => s.setReg p.1 p.2) (s.setUart u { s.uart u with after := [] })) s

/-- The serial ports at their reset values (R379, step 2). -/
def State.uartsReset (s : State) : State :=
  let s := upTo 2 (fun u s => (uartReset u).2.foldl (fun s a => s.setReg a 0) s) s
  s.uartsTo none (fun u => (uartReset u).1)

/-- The settings of the serial ports. -/
def State.uartSettings (s : State) (u : Nat) : List (Nat × Word) := (uartReset u).1.map (fun p => (p.1, s.reg p.1))

/-- `load`: the four steps of R379. The set's commands for the port that carries the load are tried at once, then wait for its
`ok`. Without a set only steps 1 and 2 run. Where a command fails every enable is clear. -/
def State.applySet (s : State) (ch : Option Nat) (c : Option CfgSet) : LoadRun :=
  let old := s.uartSettings
  let r := (s.clearEnables.resetOwned.uartsReset).runSet ((c.map CfgSet.lines).getD [])
  let new := r.st.uartSettings
  let t := (r.st.uartsTo none old).uartsTo ch new
  (if r.err.isSome then t.clearEnables else t, r.err)

/-- A set in flash read and applied; one that is absent or fails its check word is `record`, and changes nothing: line 0. -/
def State.applyNumber (s : State) (ch : Option Nat) (n : Nat) : LoadRun :=
  match s.cfgSet n with
  | some c => if c.ok then s.applySet ch (some c) else (s, some (.record, 0))
  | none => (s, some (.record, 0))

end Sys2Proof.Machine
end

