-- ==== Sys2Proof/Machine/CmdLine.lean ====
section
/-!
DEFINITION. The commands that act on the engine as a whole: `session`, `id`, `own`, `save`, `load`, `boot set`, `reset`,
`event`, `help` (R366, R371, R374 to R382).
-/
namespace Sys2Proof.Machine

/-! ### `session` (R366) -/

/-- `session`: alone it reports; on UART0 the count of failed broadcasts clears. -/
def doSession (ch : Chan) (echo events check_ : Option Bool) (s : State) : CmdM CmdOk := do
  let c := s.chan ch
  if echo.isNone && events.isNone && check_.isNone then
    let r ← reports s "session" [Int.ofNat ch.val, b2n c.echo, b2n c.events, b2n c.check, Int.ofNat (if ch.val = 1 then c.bcastFail else 0)]
    return { r with st := s.setChan ch { c with bcastFail := 0 } }
  else do
    check (echo.isNone || ch.val == 0) .state
    done (s.setChan ch { c with echo := echo.getD c.echo, events := events.getD c.events, check := check_.getD c.check })

/-- `CMD_SESSION`. -/
def execCmdSession (ch : Chan) (echo events check_ : Option Bool) (s : State) : Out :=
  .next (runCmd ch s (doSession ch echo events check_))

/-! ### `id` (R374, R375) -/

/-- A number in hexadecimal of d digits, upper case. -/
def hexBytes (v : Nat) : Nat → List Byte
  | 0 => []
  | d + 1 => hexDigit (v / 16 ^ d) :: hexBytes v d

/-- A firmware version as three decimal numbers joined by dots. -/
def versionBytes (h l : Nat) : List Byte := decBytes h ++ 0x2E :: decBytes (l / 256) ++ 0x2E :: decBytes (l % 256)

/-- The line that `id` reports (R374). -/
def State.idLine (s : State) : List Byte :=
  let ser := if s.flash.otpOk then s.flash.serial.toNat else 0
  bytesOf "id it1620-x60e step a cl1 serial 0x" ++ hexBytes (ser / 65536) 2 ++ 0x5F :: hexBytes (ser % 65536) 4 ++ bytesOf " fw "
    ++ versionBytes (s.fld Adr.sysFwfH 7 0) (s.fld Adr.sysFwfL 15 0) ++ 0x2F
    :: versionBytes (s.fld Adr.sysFwbH 7 0) (s.fld Adr.sysFwbL 15 0)

/-- `id`. -/
def doId (s : State) : CmdM CmdOk := .ok { st := s, report := [s.idLine] }

/-- `CMD_ID`. -/
def execCmdId (ch : Chan) (s : State) : Out := .next (runCmd ch s doId)

/-- `id cl <n>`: level 1 only. -/
def doIdCl (n : Qty) (s : State) : CmdM CmdOk := do
  let v ← n.plain 1 1
  check (v == 1) .level
  done s

/-- `CMD_ID_CL`. -/
def execCmdIdCl (ch : Chan) (n : Qty) (s : State) : Out := .next (runCmd ch s (doIdCl n))

/-! ### `own` (R376, R377) -/

/-- `own <unit> release`. -/
def doOwnRelease (u : OwnUnit) (s : State) : CmdM CmdOk := done (if s.isReleased u then s else s.setReleased (s.released ++ [u]))

/-- `CMD_OWN_RELEASE`. (DEDUCED, log 132) -/
def execCmdOwnRelease (ch : Chan) (u : OwnUnit) (s : State) : Out := .next (runCmd ch s (doOwnRelease u))

/-- `own <unit> take`: the unit's registers and tables stay as they stand. -/
def doOwnTake (u : OwnUnit) (s : State) : CmdM CmdOk := done (s.setReleased (s.released.filter (fun v => v != u)))

/-- `CMD_OWN_TAKE`. -/
def execCmdOwnTake (ch : Chan) (u : OwnUnit) (s : State) : Out := .next (runCmd ch s (doOwnTake u))

/-- A unit as a number in a report. -/
def ownCode : OwnUnit → Nat
  | .aon => 0
  | .port p => 1 + p.val
  | .seq q => 17 + q.val
  | .face f => 21 + f.val
  | .seam x => 25 + x.val
  | .rk => 29

/-- `own`. -/
def doOwnReport (s : State) : CmdM CmdOk := reports s "own" (s.released.map (fun u => (ownCode u : Int)))

/-- `CMD_OWN_REPORT`. -/
def execCmdOwnReport (ch : Chan) (s : State) : Out := .next (runCmd ch s doOwnReport)

/-! ### Configuration sets (R378 to R380) -/

/-- The number of a set. -/
def setNo (q : Qty) : CmdM Nat := q.count 0 15

/-- `save <n> [name <name>]`: without a name the set keeps the one it has. The set is in flash when `ok` is sent; until then the
command holds what flash held before. -/
def doSave (n : Qty) (name : Option String) (s : State) : CmdM CmdOk := do
  let k ← setNo n
  check (name.all nameOk) .syntax_
  check s.released.isEmpty .owned
  s.clear (.set k)
  let old := s.cfgSet k
  let c ← s.snapshot ((name.map nameKey).getD ((old.map CfgSet.name).getD ""))
  return { st := s.putSet k (some c), long := some (.save, .set k old) }

/-- `CMD_SAVE`. -/
def execCmdSave (ch : Chan) (n : Qty) (name : Option String) (s : State) : Out := .next (runCmd ch s (doSave n name))

/-- The report line of a set: its number, name, size, check state and boot mark, worded as in the session of the chapter; a set
without a name, or whose check word fails, has free words. (DEDUCED, log 161) -/
def CfgSet.reportLine (c : CfgSet) (n : Nat) (boot : Bool) : List (List Byte) :=
  let size := (textOf c.lines).length
  if c.ok && c.name != "" then
    [bytesOf "save " ++ decBytes n ++ 0x20 :: bytesOf c.name ++ 0x20 :: decBytes size ++ bytesOf " bytes check ok"
      ++ (if boot then bytesOf " boot" else [])]
  else reportLines "save" (([n, size, b2n c.ok, b2n boot] ++ c.name.toList.map Char.toNat).map Int.ofNat)

/-- `save`. -/
def doSaveReport (s : State) : CmdM CmdOk :=
  .ok { st := s
        report := (List.range 16).flatMap (fun n => match s.cfgSet n with
          | some c => c.reportLine n (s.flash.bootSet == some n)
          | none => []) }

/-- `CMD_SAVE_REPORT`. -/
def execCmdSaveReport (ch : Chan) (s : State) : Out := .next (runCmd ch s doSaveReport)

/-- `save <n> show`: the set's text as report lines. -/
def doSaveShow (n : Qty) (s : State) : CmdM CmdOk := do
  let k ← setNo n
  match s.cfgSet k with
  | none => .error .record
  | some c => do
    check c.ok .record
    .ok { st := s, report := c.lines }

/-- `CMD_SAVE_SHOW`. -/
def execCmdSaveShow (ch : Chan) (n : Qty) (s : State) : Out := .next (runCmd ch s (doSaveShow n))

/-- A load may begin: no unit released, no other channel inside a long command. -/
def State.loadFree (s : State) : CmdM Unit := do
  check s.released.isEmpty .owned
  check ((List.range 10).all (fun k => (s.chan k).long.isNone)) .busy

/-- A load under way (R364): what it did stands, and its channel is held until its final line: `ok`, or the code of the command
that failed with the set's line number. (DEDUCED, log 131) -/
def LoadRun.answer (r : LoadRun) (ch : Chan) (u : Undo) : CmdOk :=
  match r.2 with
  | none => { st := r.1, long := some (.load, u) }
  | some (e, n) =>
    { st := r.1.setChan ch { r.1.chan ch with long := some (.work .load [e.line ++ 0x20 :: decBytes n] true .nothing) }, hold := true }

/-- `load <n>`: a set that is absent or whose check word fails is rejected and changes nothing. -/
def doLoad (ch : Chan) (n : Qty) (s : State) : CmdM CmdOk := do
  let k ← setNo n
  s.loadFree
  check ((s.cfgSet k).any CfgSet.ok) .record
  return (s.applyNumber (some ch.val) k).answer ch (.enables k)

/-- `CMD_LOAD`. -/
def execCmdLoad (ch : Chan) (n : Qty) (s : State) : Out := .next (runCmd ch s (doLoad ch n))

/-- `load reset`. -/
def doLoadReset (ch : Chan) (s : State) : CmdM CmdOk := do
  s.loadFree
  return (s.applySet (some ch.val) none).answer ch .nothing

/-- `CMD_LOAD_RESET`. -/
def execCmdLoadReset (ch : Chan) (s : State) : Out := .next (runCmd ch s (doLoadReset ch))

/-- `boot set <n>|none`. -/
def doBootSet (n : Option Qty) (s : State) : CmdM CmdOk := do
  let k ← conv n setNo
  done (s.setFlash { s.flash with bootSet := k })

/-- `CMD_BOOT_SET`. -/
def execCmdBootSet (ch : Chan) (n : Option Qty) (s : State) : Out := .next (runCmd ch s (doBootSet n))

/-! ### `reset`, `event`, `help` -/

/-- `reset` (R30, R381): on a UART `ok` is sent first, on a console there is no response. -/
def doReset (ch : Chan) (s : State) : CmdM CmdOk :=
  let s := if ch.val < 2 then (s.respondOk ch []).flushOut ch else s
  .ok { st := s.enterReset 2, hold := true }

/-- `CMD_RESET`: in Boot the engine enters Reset all the same, from where Boot starts again (R30). -/
def execCmdReset (ch : Chan) (s : State) : Out :=
  .next (if s.pw.st == .boot then s.enterReset 2 else runCmd ch s (doReset ch))

/-- `event [<n>]` (R371): up to n queued event lines, 16 by default, without tag, then `ok`. -/
def doEvent (ch : Chan) (n : Option Qty) (s : State) : CmdM CmdOk := do
  let k := (← conv n (fun q => q.count 0 0xFFFFF)).getD 16
  check (ch.val == 1) .state
  let c := s.chan 1
  let o := (c.evq.take k).flatMap (fun l => lineOut 1 (tagLine [] (c.cur.check || c.check) l)) ++ c.lineOf 1 (bytesOf "ok")
  return { st := (s.setChan 1 { c with evq := c.evq.drop k }).sendResponse 1 o false, hold := true }

/-- `CMD_EVENT`. -/
def execCmdEvent (ch : Chan) (n : Option Qty) (s : State) : Out := .next (runCmd ch s (doEvent ch n))

/-- `help`, `help <verb>`. -/
def doHelp (verb : Option String) (s : State) : CmdM CmdOk := do
  let v ← conv verb (fun w => matchWord verbs .syntax_ (w.toList.map Char.toLower))
  .ok { st := s, report := (Config.helpText (v.getD "")).filter reportFree }

/-- `CMD_HELP`. -/
def execCmdHelp (ch : Chan) (verb : Option String) (s : State) : Out := .next (runCmd ch s (doHelp verb))

end Sys2Proof.Machine
end

