-- ==== Sys2Proof/Machine/CmdSpoil.lean ====
section
/-!
DEFINITION. The command `spoil` (R427, R431, R432).
-/
namespace Sys2Proof.Machine

/-- The values of an entry in a report: class, unit, state, prior, outcome, repeat count, TIME, DETAIL. -/
def SpoilEnt.values (e : SpoilEnt) : List Int :=
  [classCode e.cls, b2n e.fw, e.unit_.toNat, (match e.st with | .new => 1 | .inhand => 2 | .handled => 3 : Nat), b2n e.prior,
    outCode e.out, e.rep, e.time.toNat, e.detail.toNat].map Int.ofNat

/-- `spoil`: COUNT, NEXT, LOST and the entries. -/
def doSpoil (s : State) : CmdM CmdOk :=
  s.reportOf "spoil" [Adr.spoilStatus, Adr.spoilLost] (s.spoil.ents.flatMap SpoilEnt.values)

/-- `CMD_SPOIL`. -/
def execCmdSpoil (ch : Chan) (s : State) : Out := .next (runCmd ch s doSpoil)

/-- The log without its handled entries, LOST 0 (R431). -/
def Spoil.clear (p : Spoil) : Spoil := { p with ents := p.ents.filter (fun e => e.st != .handled), lost := 0 }

/-- `spoil clear`. -/
def doSpoilClear (s : State) : CmdM CmdOk := done (s.setSpoil s.spoil.clear)

/-- `CMD_SPOIL_CLEAR`. -/
def execCmdSpoilClear (ch : Chan) (s : State) : Out := .next (runCmd ch s doSpoilClear)

/-- `spoil units`. -/
def doSpoilUnits (s : State) : CmdM CmdOk := reports s "spoil units" (s.spoil.out.map (fun u => (u.toNat : Int)))

/-- `CMD_SPOIL_UNITS`. -/
def execCmdSpoilUnits (ch : Chan) (s : State) : Out := .next (runCmd ch s doSpoilUnits)

end Sys2Proof.Machine
end

