-- ==== Sys2Proof/Machine/Jtag.lean ====
section
/-!
DEFINITION. JTAG (R454, R466): the TAP controller, its instruction and data registers, the boundary cells of banks A and
L in ascending row-column order.
-/
namespace Sys2Proof.Machine

/-- A ball, or pair, of the boundary register. -/
inductive Cell where
  | perstN | tally (p : Nat) | trig (p : Nat) | enc | gpio (n : Nat) | rxd (u : Nat) | txd | de | ref25 | resetN | test
  | syncIn | syncOut
deriving DecidableEq, Repr

/-- The balls of banks A and L but for JTAG's, in ascending row-column order (R449 to R451, R453). -/
def bsBalls : List Cell :=
  [.perstN] ++ (List.range 8).flatMap (fun k => [.tally k, .tally (8 + k), .trig k, .trig (8 + k)])
    ++ List.replicate 12 .enc ++ (List.range 8).map Cell.gpio
    ++ [.rxd 0, .txd, .de, .rxd 1, .txd, .ref25, .resetN, .test, .syncIn, .syncOut]

/-- How many cells a ball takes (R466). -/
def Cell.count : Cell → Nat
  | .tally _ | .trig _ | .txd | .syncOut => 2
  | .gpio _ | .de => 3
  | _ => 1

/-- The length of the boundary register. -/
def bsLength : Nat := (bsBalls.map Cell.count).foldl (· + ·) 0

/-- What the cells of a ball capture while RESET_N is low (R454): outputs with their enables, input levels. The level of an
input that the state does not hold is the free value given. -/
def State.capture (s : State) (free : Bool) : Cell → List Bool
  | .tally _ | .trig _ | .syncOut => [false, true]
  | .txd => [true, true]
  | .de => [false, true, false]
  | .gpio n => [false, false, s.gpio.pins.toNat.testBit n]
  | .rxd u => [(s.uart u).line]
  | .resetN => [!s.pw.ballLow]
  | .test => [false]
  | .perstN => [!s.pcie.perst]
  | .enc | .ref25 | .syncIn => [free]

/-- The boundary register as captured, first bit out first. -/
def State.captureAll (s : State) : List Bool × State :=
  let d := s.drawList bsBalls.length 2
  ((bsBalls.zip d.1).flatMap (fun p => d.2.capture (p.2 == 1) p.1), d.2)

/-- EXTEST and SAMPLE/PRELOAD act: the instruction is one of them and RESET_N is low (R466). -/
def State.bsActs (s : State) : Bool := decide (s.jtag.ir.toNat < 2) && s.pw.ballLow

/-- IDCODE of silicon step A, first bit out first. -/
def idcode : List Bool := (List.range 32).map (fun i => (0x0A162A7B : Nat).testBit i)

/-- The next state of the TAP controller (IEEE 1149.1). -/
def TapSt.next (t : TapSt) (tms : Bool) : TapSt :=
  match t with
  | .reset => if tms then .reset else .idle
  | .idle => if tms then .selDr else .idle
  | .selDr => if tms then .selIr else .capDr
  | .capDr => if tms then .ex1Dr else .shDr
  | .shDr => if tms then .ex1Dr else .shDr
  | .ex1Dr => if tms then .updDr else .pauDr
  | .pauDr => if tms then .ex2Dr else .pauDr
  | .ex2Dr => if tms then .updDr else .shDr
  | .updDr => if tms then .selDr else .idle
  | .selIr => if tms then .reset else .capIr
  | .capIr => if tms then .ex1Ir else .shIr
  | .shIr => if tms then .ex1Ir else .shIr
  | .ex1Ir => if tms then .updIr else .pauIr
  | .pauIr => if tms then .ex2Ir else .pauIr
  | .ex2Ir => if tms then .updIr else .shIr
  | .updIr => if tms then .selDr else .idle

/-- A bit shifted in, at the end away from TDO. -/
def shiftIn (l : List Bool) (b : Bool) : List Bool := l.drop 1 ++ [b]

/-- What the rising edge does in the controller's state: capture or shift. An instruction register captures 1 in its low
bits; its high bits are free. (PRESUMED, log 133) -/
def State.tapRise (s : State) (tdi : Bool) : State :=
  let j := s.jtag
  match j.tap with
  | .capDr =>
    if s.bsActs then
      let c := s.captureAll
      c.2.setJtag { c.2.jtag with dr := c.1 }
    else if j.ir = 2 then s.setJtag { j with dr := idcode }
    else s.setJtag { j with dr := [false] }
  | .shDr => s.setJtag { j with dr := shiftIn j.dr tdi }
  | .capIr =>
    let d := s.draw
    d.2.setJtag { d.2.jtag with irSh := BitVec.ofNat 4 (1 + 4 * (d.1 % 4)) }
  | .shIr => s.setJtag { j with irSh := (j.irSh >>> 1) ||| (if tdi then 8 else 0) }
  | _ => s

/-- What the falling edge does in the state then reached: update, and TDO, which is driven in the shift states only
(R454). -/
def State.tapFall (s : State) : State :=
  let j := s.jtag
  let j := match j.tap with
    | .reset => { j with ir := 2 }
    | .updIr => { j with ir := j.irSh }
    | .updDr => if s.bsActs && j.dr.length = bsLength then { j with upd := j.dr } else j
    | _ => j
  s.setJtag { j with tdo := match j.tap with
    | .shDr => some (j.dr.headD false)
    | .shIr => some (j.irSh.toNat.testBit 0)
    | _ => none }

/-- `JTAG_TCK_EDGE` (R466): a rising edge of TCK with TMS and TDI, and the falling edge after it. -/
def execJtagTckEdge (tms tdi : Bool) (s : State) : Out :=
  if !s.powered then .next s
  else
    let s := s.tapRise tdi
    .next (s.setJtag { s.jtag with tap := s.jtag.tap.next tms }).tapFall

end Sys2Proof.Machine
end

