-- ==== Sys2Proof/Machine/LineForms.lean ====
section
/-!
DEFINITION. The forms of every other verb, and the commands that a whole line spells (R351, R352, R382).
-/
namespace Sys2Proof.Machine

/-! ### `bench`, `hewer`, `mbx` (R290, R347) -/

/-- `bench`. -/
def readBench : Reader (List Spelled) := do
  let b ← elem benchOf
  if ← atEnd then return [spell <| doBenchReport b]
  let lease ← elem (boolOf "lease" "return")
  stop [if lease then spell <| doBenchLease b else spell <| doBenchReturn b]

/-- A hewer as `<bench>.<hewer>` (R351). -/
def hewerOf (t : Tok) : CmdM (Fin 8 × Fin 8) :=
  match t.splitOn '.' with
  | [a, b] => do return (← instOf "" 8 a, ← instOf "" 8 b)
  | _ => .error .syntax_

/-- `hewer`. -/
def readHewer : Reader (List Spelled) := do
  let (b, h) ← elem hewerOf
  let w ← elem (matchWord ["start", "halt", "run", "reset", "clear"] .syntax_)
  if w == "start" then
    let a ← elem qtyOf
    stop [spell <| doHewerStart b h a]
  else
    stop [if w == "halt" then spell <| doHewerHalt b h else if w == "run" then spell <| doHewerRun b h
      else if w == "reset" then spell <| doHewerReset b h else spell <| doHewerClear b h]

/-- `mbx`. -/
def readMbx (ch : Chan) : Reader (List Spelled) := do
  if ← atEnd then return [spell <| doMbxReport]
  let _ ← elem (matchWord ["box"] .syntax_)
  let n ← elem (below 80)
  let rel ← elem (boolOf "release" "flush")
  stop [if rel then spell <| doMbxRelease n else spell <| doMbxFlush ch n]

/-! ### `session`, `id`, `own`, `save`, `load`, `boot`, `event`, `help` (R366 to R382, R439) -/

/-- `session`. -/
def readSession (ch : Chan) : Reader (List Spelled) := do
  if ← atEnd then return [spell <| doSession ch none none none]
  let g ← keys [{ w := "echo" }, { w := "events" }, { w := "check" }]
  return [spell <| doSession ch (← g.sw "echo") (← g.sw "events") (← g.sw "check")]

/-- `id`. -/
def readId : Reader (List Spelled) := do
  if ← atEnd then return [spell <| doId]
  let g ← keys [{ w := "cl" }]
  return [spell <| doIdCl (← g.need "cl" qtyOf)]

/-- A unit of R376. -/
def unitNext : Reader OwnUnit := do
  let w ← elem (matchWord ["aon", "port", "seq", "face", "seam", "rk"] .syntax_)
  if w == "aon" then return .aon
  else if w == "port" then return .port (← elem (instOf "p" 16))
  else if w == "seq" then return .seq (← elem (instOf "q" 4))
  else if w == "face" then return .face (← elem (instOf "f" 4))
  else if w == "seam" then return .seam (← elem (instOf "s" 4))
  else return .rk

/-- `own`. -/
def readOwn : Reader (List Spelled) := do
  if ← atEnd then return [spell <| doOwnReport]
  let u ← unitNext
  let rel ← elem (boolOf "release" "take")
  stop [if rel then spell <| doOwnRelease u else spell <| doOwnTake u]

/-- `save`. -/
def readSave : Reader (List Spelled) := do
  if ← atEnd then return [spell <| doSaveReport]
  let n ← elem qtyOf
  if ← atEnd then return [spell <| doSave n none]
  if ← taken "show" ["name"] then return ← stop [spell <| doSaveShow n]
  let g ← keys [{ w := "name" }]
  return [spell <| doSave n (some (← g.need "name" (fun t => .ok (nameOf t))))]

/-- `load`. -/
def readLoad (ch : Chan) : Reader (List Spelled) := do
  let t ← next
  if (t.headD ' ').isAlpha then
    let _ ← (matchWord ["reset"] .syntax_ t : CmdM String)
    stop [spell <| doLoadReset ch]
  else
    let n ← (qtyOf t : CmdM Qty)
    stop [spell <| doLoad ch n]

/-- `boot`. -/
def readBoot : Reader (List Spelled) := do
  if ← taken "set" ["image"] then
    let n ← elem (orWord "none" qtyOf)
    return ← stop [spell <| doBootSet n]
  let _ ← elem (matchWord ["set", "image"] .syntax_)
  if ← atEnd then return [spell <| doBootImageReport]
  let w ← elem (matchWord ["a", "b", "prefer"] .syntax_)
  if w == "prefer" then
    let b ← elem (boolOf "b" "a")
    stop [spell <| doBootImagePrefer b]
  else
    let b := w == "b"
    if ← taken "check" ["write"] then return ← stop [spell <| doBootImageCheck b]
    let _ ← elem (matchWord ["check", "write"] .syntax_)
    let g ← keys [{ w := "from" }, { w := "length" }]
    return [spell <| doBootImageWrite b (← g.need "from" qtyOf) (← g.need "length" qtyOf)]

/-- `event`. -/
def readEvent (ch : Chan) : Reader (List Spelled) := do
  if ← atEnd then return [spell <| doEvent ch none]
  let n ← elem qtyOf
  stop [spell <| doEvent ch (some n)]

/-- `help`. -/
def readHelp : Reader (List Spelled) := do
  if ← atEnd then return [spell <| doHelp none]
  let v ← elem (matchWord verbs .syntax_)
  stop [spell <| doHelp (some v)]

/-! ### `cal`, `spoil` (R431, R444) -/

/-- `cal`. -/
def readCal (ch : Chan) : Reader (List Spelled) := do
  let name (t : Tok) : CmdM String := .ok (nameOf t)
  let w ← elem (matchWord ["dark", "flat", "defect", "import", "export", "records", "delete"] .syntax_)
  if w == "records" then stop [spell <| doCalRecords]
  else if w == "delete" then
    let n ← elem name
    stop [spell <| doCalDelete n]
  else if w == "import" then
    let n ← elem name
    let g ← keys [{ w := "kind" }, { w := "from" }]
    let k ← g.need "kind" (placeOf ["black", "flat", "defect", "tone"])
    return [spell <| doCalImport n ([TblKind.black, .flat, .defect, .tone].getD k .tone) (← g.need "from" qtyOf)]
  else if w == "export" then
    let n ← elem name
    let g ← keys [{ w := "to" }]
    return [spell <| doCalExport n (← g.need "to" qtyOf)]
  else
    let f ← elem (instOf "f" 4)
    let c ← elem (instOf "c" 4)
    if w == "dark" then
      let g ← keys [{ w := "lines" }, { w := "tol" }, { w := "save" }]
      return [spell <| doCalDark ch f c (← g.qty "lines") (← g.qty "tol") (← g.need "save" name)]
    else if w == "flat" then
      let p ← elem planeOf
      let g ← keys [{ w := "target" }, { w := "lines" }, { w := "tol" }, { w := "save" }]
      return [spell <| doCalFlat ch f c p (← g.need "target" qtyOf) (← g.qty "lines") (← g.qty "tol") (← g.need "save" name)]
    else
      let g ← keys [{ w := "dark" }, { w := "flat" }, { w := "darkmax" }, { w := "flatdev" }, { w := "save" }]
      return [spell <| doCalDefect f c (← g.need "dark" name) (← g.need "flat" name) (← g.need "darkmax" qtyOf) (← g.need "flatdev" qtyOf)
        (← g.need "save" name)]

/-- `spoil`. -/
def readSpoil : Reader (List Spelled) := do
  if ← atEnd then return [spell <| doSpoil]
  let clear ← elem (boolOf "clear" "units")
  stop [if clear then spell <| doSpoilClear else spell <| doSpoilUnits]

/-! ### A line -/

/-- `reset`. -/
def readReset (ch : Chan) : Reader (List Spelled) := stop [spell <| doReset ch]

/-- The reader of a verb's forms. -/
def readVerb (ch : Chan) (v : String) : Reader (List Spelled) :=
  match readConf ch v with
  | some r => r
  | none =>
    match v with
    | "bench" => readBench
    | "boot" => readBoot
    | "cal" => readCal ch
    | "event" => readEvent ch
    | "help" => readHelp
    | "hewer" => readHewer
    | "id" => readId
    | "load" => readLoad ch
    | "mbx" => readMbx ch
    | "own" => readOwn
    | "reset" => readReset ch
    | "save" => readSave
    | "session" => readSession ch
    | "spoil" => readSpoil
    | _ => fun _ => .error .verb

/-- The commands that the words of a line spell (R351 to R355): its verb, then its forms. -/
def readWords (ch : Chan) (l : List Tok) : CmdM (List Spelled) :=
  match l with
  | [] => .error .syntax_
  | v :: r => do
    let verb ← matchWord verbs .verb v
    let p ← readVerb ch verb r
    return p.1

end Sys2Proof.Machine
end

