-- ==== Sys2Proof/Machine/LineIn.lean ====
section
/-!
DEFINITION. A command line received (R349 to R364): its length, characters, tag and checksum, the commands that it spells, and
their response.
-/
namespace Sys2Proof.Machine

/-- The number that decimal digits spell; none where a character is no digit or there is none. -/
def decNum (l : List Byte) : Option Nat :=
  if l.isEmpty then none
  else l.foldl (fun n b => match n with
    | some n => if 0x30 ≤ b.toNat && b.toNat ≤ 0x39 then some (10 * n + (b.toNat - 0x30)) else none
    | none => none) (some 0)

/-- The value of a hexadecimal digit of either case. -/
def sumDigit (b : Byte) : Option Nat :=
  let v := b.toNat
  if 0x30 ≤ v && v ≤ 0x39 then some (v - 0x30)
  else if 0x41 ≤ v && v ≤ 0x46 then some (v - 0x37)
  else if 0x61 ≤ v && v ≤ 0x66 then some (v - 0x57)
  else none

/-- The first word of a line and what follows it; TAB counts as a space (R349). -/
def firstWord (l : List Byte) : List Byte × List Byte :=
  let l := l.dropWhile (fun b => b == 0x20 || b == 0x09)
  l.span (fun b => b != 0x20 && b != 0x09)

/-- A word is a tag: `#` and a decimal number 0 to 9999 (R351). -/
def isTag (w : List Byte) : Bool :=
  match w with
  | b :: d => b == 0x23 && (decNum d).any (· ≤ 9999)
  | [] => false

/-- What stands before a line's last `*`, and what follows it. -/
def atStar (l : List Byte) : Option (List Byte × List Byte) :=
  if l.contains 0x2A then
    let r := l.reverse.span (· != 0x2A)
    some ((r.2.drop 1).reverse, r.1.reverse)
  else none

/-- The checksum that two digits spell. -/
def sumOf : List Byte → Option Byte
  | [a, b] => match sumDigit a, sumDigit b with
    | some x, some y => some (BitVec.ofNat 8 (16 * x + y))
    | _, _ => none
  | _ => none

/-- A line checked (R349, R351, R357): its tag where it can be read, whether it carries a checksum, and its words after the tag or
its error. -/
structure LineCheck where
  tag : List Byte := []
  sum : Bool := false
  body : CmdM (List Tok)

/-- A character that a line may hold. -/
def lineChar (b : Byte) : Bool := b == 0x09 || (decide (0x20 ≤ b.toNat) && decide (b.toNat ≤ 0x7E))

/-- The check of a line that has some character other than spaces. (DEDUCED, log 103) -/
def checkLine (need : Bool) (l : List Byte) : LineCheck :=
  let star := atStar l
  let body := match star with
    | some (b, _) => b
    | none => l
  let sum := star.bind (fun p => sumOf p.2)
  let w := firstWord body
  let marked := w.1.head? == some 0x23
  { tag := if isTag w.1 then w.1 else [], sum := sum.isSome
    body := do
      check (l.all lineChar) .syntax_
      check (star.isNone || sum.isSome) .syntax_
      check (sum.all (· == lineXor body)) .checksum
      check (star.isSome || !need) .checksum
      check (!marked || isTag w.1) .syntax_
      return words (if marked then w.2 else body) }

/-- The first whole line of a buffer: its characters without terminator, its terminator, and the rest. -/
def takeLine (inp : List InChar) : Option (List Byte × InChar × List InChar) :=
  match inp.span (fun c => c.ch != 0x0A) with
  | (l, t :: rest) => some (l.map InChar.ch, t, rest)
  | (_, []) => none

/-- The commands of a line in turn, as one command: its checks come before any effect (R353), its reports follow each other, and it
has one response. -/
def runAll : List Spelled → State → CmdM CmdOk
  | [], s => done s
  | [p], s => p.run s
  | p :: l, s => do
    let a ← p.run s
    let b ← runAll l a.st
    return { b with report := a.report ++ b.report }

/-- The command of a line: its words read, then run. -/
def runWords (ch : Chan) (ws : CmdM (List Tok)) (s : State) : CmdM CmdOk := do
  let l ← ws
  let ps ← readWords ch l
  runAll ps s

/-- The next line of a channel that is ready: lost characters and length first (R349, R350), an empty line draws no response, any
other is checked, read, executed and answered. -/
def State.lineIn (s : State) (ch : Chan) : State :=
  let c := s.chan ch
  match takeLine c.inp with
  | none => s
  | some (l, t, rest) =>
    let k := checkLine c.check l
    let run (ws : CmdM (List Tok)) : State :=
      runCmd ch (s.setChan ch { c with inp := rest, cur := { tag := k.tag, check := k.sum, broadcast := t.bcast } }) (runWords ch ws)
    if !s.inRun || !c.ready then s
    else if t.bad then run (.error .overrun)
    else if t.tooLong then run (.error .toolong)
    else if l.all (fun b => b == 0x20 || b == 0x09) then s.setChan ch { c with inp := rest }
    else run k.body

/-- The channels whose turn comes from after one channel up to another (R364). (DESIGN CHOICE, log 175) -/
def turnsTo (last ch : Nat) : List Nat := (List.range ((ch + 9 - last) % 10 + 1)).map (fun i => (last + 1 + i) % 10)

/-- `COMMAND_LINE_RECEIVED` (R349 to R364): a line of a channel has ended. The foreman takes one command of each channel in turn,
from the one after the channel served last up to this one. (DESIGN CHOICE, log 104) -/
def execCommandLineReceived (ch : Chan) (s : State) : Out :=
  .next (((turnsTo s.turn ch).foldl (fun s k => s.lineIn (Fin.ofNat 10 k)) s).setTurn ch)

end Sys2Proof.Machine
end

