-- ==== Sys2Proof/Machine/Run.lean ====
section
/-!
DEFINITION. The end of Boot (R380, R406, R408, R427, R431).
-/
namespace Sys2Proof.Machine

/-- Every entry that is not handled is marked PRIOR and set to handled (R431). -/
def Spoil.prior (p : Spoil) : Spoil :=
  { p with ents := p.ents.map (fun e => if e.st == .handled then e else { e with st := .handled, prior := true }) }

/-- The boot set applied as `load` does; where its check word or a command fails, every enable is clear (R380). -/
def State.bootSetRun (s : State) : LoadRun :=
  match s.flash.bootSet with
  | none => (s, none)
  | some n =>
    let r := s.applyNumber none n
    (if r.2.isSome then r.1.clearEnables else r.1, r.2)

/-- `RUN_ENTRY` (R408): PD2 to PD6 are powered, units out of service are held off, the boot set is applied, Run is entered,
the event `ready` is raised. Boot waits where no image is usable (R438). (DEDUCED, log 92) -/
def execRunEntry (s : State) : Out :=
  if s.pw.st != .boot || s.flag Adr.sysBoot 2 then .next s
  else
    let s := s.writePwrReq 0xFF
    let s := s.setSpoil s.spoil.prior
    let s := s.spoil.out.foldl (fun s u => s.takeOut u.toNat) s
    let n := s.flash.bootSet
    let r := s.bootSetRun
    .next ((r.1.setPw { r.1.pw with st := .run }).raise (.ready n (r.2.map (·.1))))

end Sys2Proof.Machine
end

