-- ==== Sys2Proof/Machine/Tsm.lean ====
section
/-!
DEFINITION. The syllables of Tsumante (R302 to R332): the command of an operation is one syllable of it taken into the
current bundle of a core, with the extension syllable it carries; `stop` is its STOP bit.
-/
namespace Sys2Proof.Machine

/-- The number of slot syllables in a list. -/
def slotCount (l : List RawSyl) : Nat := (l.filter (fun r => match r with
  | .slot _ _ => true
  | _ => false)).length

/-- A bundle ends at STOP, at the seventh slot syllable or at the ninth syllable (R295). -/
def bundleEnds (stop : Bool) (l : List RawSyl) : Bool := stop || decide (7 ≤ slotCount l) || decide (9 ≤ l.length)

/-- A syllable of core k, the next of its bundle; the bundle is issued as soon as it ends, with what all its syllables do. A
core that does not run issues none (R262, R282); one told to halt stops at the boundary. (DESIGN CHOICE, log 71) -/
def nextSyl (k : Nat) (stop : Bool) (r : RawSyl) (s : State) : Out :=
  let h := s.core k
  if !h.running then .next s
  else if h.halting && h.noDelay && h.raw.isEmpty then haltCore k s
  else if bundleEnds stop (h.raw ++ [r]) then issueSyls k (h.raw ++ [r]) s
  else .next (s.setCore k { h with raw := h.raw ++ [r] })

/-- One syllable of operation `o` on core `c`. The extension syllable that it carries stands before it, without STOP. -/
def runSyl (c : Core) (o : TOp) (y : Syl) (ext : Option Word) (stop : Bool) (s : State) : Out :=
  match ext with
  | none => nextSyl (coreIdx c) stop (.slot (some o) y) s
  | some w => Out.andThen (nextSyl (coreIdx c) false (.ext w) s) (nextSyl (coreIdx c) stop (.slot (some o) y))

/-- `alNop` (R302). -/
def execAlNop (c : Core) (y : Syl) (ext : Option Word) (stop : Bool) (s : State) : Out :=
  runSyl c .alNop y ext stop s

/-- `mov` (R302). -/
def execMov (c : Core) (y : Syl) (ext : Option Word) (stop : Bool) (s : State) : Out :=
  runSyl c .mov y ext stop s

/-- `add` (R302). -/
def execAdd (c : Core) (y : Syl) (ext : Option Word) (stop : Bool) (s : State) : Out :=
  runSyl c .add y ext stop s

/-- `sub` (R302). -/
def execSub (c : Core) (y : Syl) (ext : Option Word) (stop : Bool) (s : State) : Out :=
  runSyl c .sub y ext stop s

/-- `neg` (R302). -/
def execNeg (c : Core) (y : Syl) (ext : Option Word) (stop : Bool) (s : State) : Out :=
  runSyl c .neg y ext stop s

/-- `abs` (R302). -/
def execAbs (c : Core) (y : Syl) (ext : Option Word) (stop : Bool) (s : State) : Out :=
  runSyl c .abs y ext stop s

/-- `addc` (R302). -/
def execAddc (c : Core) (y : Syl) (ext : Option Word) (stop : Bool) (s : State) : Out :=
  runSyl c .addc y ext stop s

/-- `subc` (R302). -/
def execSubc (c : Core) (y : Syl) (ext : Option Word) (stop : Bool) (s : State) : Out :=
  runSyl c .subc y ext stop s

/-- `and` (R302). -/
def execAnd (c : Core) (y : Syl) (ext : Option Word) (stop : Bool) (s : State) : Out :=
  runSyl c .and y ext stop s

/-- `or` (R302). -/
def execOr (c : Core) (y : Syl) (ext : Option Word) (stop : Bool) (s : State) : Out :=
  runSyl c .or y ext stop s

/-- `xor` (R302). -/
def execXor (c : Core) (y : Syl) (ext : Option Word) (stop : Bool) (s : State) : Out :=
  runSyl c .xor y ext stop s

/-- `andn` (R302). -/
def execAndn (c : Core) (y : Syl) (ext : Option Word) (stop : Bool) (s : State) : Out :=
  runSyl c .andn y ext stop s

/-- `not` (R302). -/
def execNot (c : Core) (y : Syl) (ext : Option Word) (stop : Bool) (s : State) : Out :=
  runSyl c .not y ext stop s

/-- `cmp` (R302). -/
def execCmp (c : Core) (y : Syl) (ext : Option Word) (stop : Bool) (s : State) : Out :=
  runSyl c .cmp y ext stop s

/-- `tst` (R302). -/
def execTst (c : Core) (y : Syl) (ext : Option Word) (stop : Bool) (s : State) : Out :=
  runSyl c .tst y ext stop s

/-- `min` (R302). -/
def execMin (c : Core) (y : Syl) (ext : Option Word) (stop : Bool) (s : State) : Out :=
  runSyl c .min y ext stop s

/-- `max` (R302). -/
def execMax (c : Core) (y : Syl) (ext : Option Word) (stop : Bool) (s : State) : Out :=
  runSyl c .max y ext stop s

/-- `minu` (R302). -/
def execMinu (c : Core) (y : Syl) (ext : Option Word) (stop : Bool) (s : State) : Out :=
  runSyl c .minu y ext stop s

/-- `maxu` (R302). -/
def execMaxu (c : Core) (y : Syl) (ext : Option Word) (stop : Bool) (s : State) : Out :=
  runSyl c .maxu y ext stop s

/-- `shl` (R302, R314). -/
def execShl (c : Core) (y : Syl) (ext : Option Word) (stop : Bool) (s : State) : Out :=
  runSyl c .shl y ext stop s

/-- `shr` (R302, R314). -/
def execShr (c : Core) (y : Syl) (ext : Option Word) (stop : Bool) (s : State) : Out :=
  runSyl c .shr y ext stop s

/-- `sar` (R302, R314). -/
def execSar (c : Core) (y : Syl) (ext : Option Word) (stop : Bool) (s : State) : Out :=
  runSyl c .sar y ext stop s

/-- `rol` (R302, R314). -/
def execRol (c : Core) (y : Syl) (ext : Option Word) (stop : Bool) (s : State) : Out :=
  runSyl c .rol y ext stop s

/-- `clz` (R302, R315). -/
def execClz (c : Core) (y : Syl) (ext : Option Word) (stop : Bool) (s : State) : Out :=
  runSyl c .clz y ext stop s

/-- `crcs` (R302, R315). -/
def execCrcs (c : Core) (y : Syl) (ext : Option Word) (stop : Bool) (s : State) : Out :=
  runSyl c .crcs y ext stop s

/-- `par` (R302, R315). -/
def execPar (c : Core) (y : Syl) (ext : Option Word) (stop : Bool) (s : State) : Out :=
  runSyl c .par y ext stop s

/-- `brev` (R302, R315). -/
def execBrev (c : Core) (y : Syl) (ext : Option Word) (stop : Bool) (s : State) : Out :=
  runSyl c .brev y ext stop s

/-- `dadd` (R302, R322). -/
def execDadd (c : Core) (y : Syl) (ext : Option Word) (stop : Bool) (s : State) : Out :=
  runSyl c .dadd y ext stop s

/-- `dadc` (R302, R322). -/
def execDadc (c : Core) (y : Syl) (ext : Option Word) (stop : Bool) (s : State) : Out :=
  runSyl c .dadc y ext stop s

/-- `dsub` (R302, R322). -/
def execDsub (c : Core) (y : Syl) (ext : Option Word) (stop : Bool) (s : State) : Out :=
  runSyl c .dsub y ext stop s

/-- `dsbc` (R302, R322). -/
def execDsbc (c : Core) (y : Syl) (ext : Option Word) (stop : Bool) (s : State) : Out :=
  runSyl c .dsbc y ext stop s

/-- `dsl` (R302, R323). -/
def execDsl (c : Core) (y : Syl) (ext : Option Word) (stop : Bool) (s : State) : Out :=
  runSyl c .dsl y ext stop s

/-- `dsr` (R302, R323). -/
def execDsr (c : Core) (y : Syl) (ext : Option Word) (stop : Bool) (s : State) : Out :=
  runSyl c .dsr y ext stop s

/-- `d2b` (R302, R324). -/
def execD2b (c : Core) (y : Syl) (ext : Option Word) (stop : Bool) (s : State) : Out :=
  runSyl c .d2b y ext stop s

/-- `b2d` (R302, R324). -/
def execB2d (c : Core) (y : Syl) (ext : Option Word) (stop : Bool) (s : State) : Out :=
  runSyl c .b2d y ext stop s

/-- `muNop` (R303). -/
def execMuNop (c : Core) (y : Syl) (ext : Option Word) (stop : Bool) (s : State) : Out :=
  runSyl c .muNop y ext stop s

/-- `mul` (R303, R316). -/
def execMul (c : Core) (y : Syl) (ext : Option Word) (stop : Bool) (s : State) : Out :=
  runSyl c .mul y ext stop s

/-- `mulu` (R303, R316). -/
def execMulu (c : Core) (y : Syl) (ext : Option Word) (stop : Bool) (s : State) : Out :=
  runSyl c .mulu y ext stop s

/-- `fmul` (R303, R316). -/
def execFmul (c : Core) (y : Syl) (ext : Option Word) (stop : Bool) (s : State) : Out :=
  runSyl c .fmul y ext stop s

/-- `mpya` (R303, R317). -/
def execMpya (c : Core) (y : Syl) (ext : Option Word) (stop : Bool) (s : State) : Out :=
  runSyl c .mpya y ext stop s

/-- `fmpya` (R303, R317). -/
def execFmpya (c : Core) (y : Syl) (ext : Option Word) (stop : Bool) (s : State) : Out :=
  runSyl c .fmpya y ext stop s

/-- `mac` (R303, R317). -/
def execMac (c : Core) (y : Syl) (ext : Option Word) (stop : Bool) (s : State) : Out :=
  runSyl c .mac y ext stop s

/-- `msu` (R303, R317). -/
def execMsu (c : Core) (y : Syl) (ext : Option Word) (stop : Bool) (s : State) : Out :=
  runSyl c .msu y ext stop s

/-- `fmac` (R303, R317). -/
def execFmac (c : Core) (y : Syl) (ext : Option Word) (stop : Bool) (s : State) : Out :=
  runSyl c .fmac y ext stop s

/-- `fmsu` (R303, R317). -/
def execFmsu (c : Core) (y : Syl) (ext : Option Word) (stop : Bool) (s : State) : Out :=
  runSyl c .fmsu y ext stop s

/-- `clra` (R303, R317). -/
def execClra (c : Core) (y : Syl) (ext : Option Word) (stop : Bool) (s : State) : Out :=
  runSyl c .clra y ext stop s

/-- `movta` (R303, R317). -/
def execMovta (c : Core) (y : Syl) (ext : Option Word) (stop : Bool) (s : State) : Out :=
  runSyl c .movta y ext stop s

/-- `ext` (R303, R320). -/
def execExt (c : Core) (y : Syl) (ext : Option Word) (stop : Bool) (s : State) : Out :=
  runSyl c .ext y ext stop s

/-- `divq` (R303, R321). -/
def execDivq (c : Core) (y : Syl) (ext : Option Word) (stop : Bool) (s : State) : Out :=
  runSyl c .divq y ext stop s

/-- `divr` (R303, R321). -/
def execDivr (c : Core) (y : Syl) (ext : Option Word) (stop : Bool) (s : State) : Out :=
  runSyl c .divr y ext stop s

/-- `fdiv` (R303, R321). -/
def execFdiv (c : Core) (y : Syl) (ext : Option Word) (stop : Bool) (s : State) : Out :=
  runSyl c .fdiv y ext stop s

/-- `muCrcs` (R303, R315). -/
def execMuCrcs (c : Core) (y : Syl) (ext : Option Word) (stop : Bool) (s : State) : Out :=
  runSyl c .muCrcs y ext stop s

/-- `muPar` (R303, R315). -/
def execMuPar (c : Core) (y : Syl) (ext : Option Word) (stop : Bool) (s : State) : Out :=
  runSyl c .muPar y ext stop s

/-- `muBrev` (R303, R315). -/
def execMuBrev (c : Core) (y : Syl) (ext : Option Word) (stop : Bool) (s : State) : Out :=
  runSyl c .muBrev y ext stop s

/-- `lsNop` (R304). -/
def execLsNop (c : Core) (y : Syl) (ext : Option Word) (stop : Bool) (s : State) : Out :=
  runSyl c .lsNop y ext stop s

/-- `ld` (R304, R325). -/
def execLd (c : Core) (y : Syl) (ext : Option Word) (stop : Bool) (s : State) : Out :=
  runSyl c .ld y ext stop s

/-- `st` (R304, R325). -/
def execSt (c : Core) (y : Syl) (ext : Option Word) (stop : Bool) (s : State) : Out :=
  runSyl c .st y ext stop s

/-- `brNop` (R305). -/
def execBrNop (c : Core) (y : Syl) (ext : Option Word) (stop : Bool) (s : State) : Out :=
  runSyl c .brNop y ext stop s

/-- `b` (R305, R326). -/
def execB (c : Core) (y : Syl) (ext : Option Word) (stop : Bool) (s : State) : Out :=
  runSyl c .b y ext stop s

/-- `call` (R305, R326). -/
def execCall (c : Core) (y : Syl) (ext : Option Word) (stop : Bool) (s : State) : Out :=
  runSyl c .call y ext stop s

/-- `jr` (R305, R326). -/
def execJr (c : Core) (y : Syl) (ext : Option Word) (stop : Bool) (s : State) : Out :=
  runSyl c .jr y ext stop s

/-- `loop` (R305, R329). -/
def execLoop (c : Core) (y : Syl) (ext : Option Word) (stop : Bool) (s : State) : Out :=
  runSyl c .loop y ext stop s

/-- `loopi` (R305, R329). -/
def execLoopi (c : Core) (y : Syl) (ext : Option Word) (stop : Bool) (s : State) : Out :=
  runSyl c .loopi y ext stop s

/-- `halt` (R305). -/
def execHalt (c : Core) (y : Syl) (ext : Option Word) (stop : Bool) (s : State) : Out :=
  runSyl c .halt y ext stop s

/-- `LOOP_END` (R330, R331): the bundle at hand is issued, a nop where no syllable is at hand, and a loop that ends
there goes round or is over. -/
def execLoopEnd (c : Core) (s : State) : Out :=
  let k := coreIdx c
  let h := s.core k
  if h.running && !h.raw.isEmpty then issueSyls k h.raw s else nextSyl k true (.slot (some .brNop) { slot := .br }) s

/-- `UNDEFINED_SYLLABLE` (R297): an undefined syllable of a slot, or one of no slot (R292), acts as nothing and is
recorded. -/
def execUndefinedSyllable (c : Core) (slot : Option Slot) (stop : Bool) (s : State) : Out :=
  nextSyl (coreIdx c) stop (match slot with
    | some sl => .slot none { slot := sl }
    | none => .reserved) s

end Sys2Proof.Machine
end

