-- ==== Sys2Proof/Machine/Dispatch.lean ====
section
/-!
DEFINITION. The meaning of each command: one arm per constructor of `Instr`.
-/
namespace Sys2Proof.Machine

def exec (i : Instr) (s : State) : Host.Outcome State Fault Refusal :=
  match i with
  | .registerWrite ag addr v => Sys2Proof.Machine.execRegisterWrite ag addr v s
  | .rcFieldRead ag addr => Sys2Proof.Machine.execRcFieldRead ag addr s
  | .latchingRead ag addr => Sys2Proof.Machine.execLatchingRead ag addr s
  | .standbyInputValid => Sys2Proof.Machine.execStandbyInputValid s
  | .standbyInputLost => Sys2Proof.Machine.execStandbyInputLost s
  | .mainInputValid => Sys2Proof.Machine.execMainInputValid s
  | .mainInputUndervoltage mv => Sys2Proof.Machine.execMainInputUndervoltage mv s
  | .resetBallAsserted => Sys2Proof.Machine.execResetBallAsserted s
  | .resetRelease => Sys2Proof.Machine.execResetRelease s
  | .runEntry => Sys2Proof.Machine.execRunEntry s
  | .temperatureSample n v => Sys2Proof.Machine.execTemperatureSample n v s
  | .throttleRelease => Sys2Proof.Machine.execThrottleRelease s
  | .currentLimitTrip pd ma => Sys2Proof.Machine.execCurrentLimitTrip pd ma s
  | .wakeEvent src => Sys2Proof.Machine.execWakeEvent src s
  | .standbyDrainEnd => Sys2Proof.Machine.execStandbyDrainEnd s
  | .standbyDrainTimeout => Sys2Proof.Machine.execStandbyDrainTimeout s
  | .standbyEntryComplete => Sys2Proof.Machine.execStandbyEntryComplete s
  | .refLoss => Sys2Proof.Machine.execRefLoss s
  | .refRestore lost => Sys2Proof.Machine.execRefRestore lost s
  | .pcieLinkUp width speed => Sys2Proof.Machine.execPcieLinkUp width speed s
  | .linkDown => Sys2Proof.Machine.execLinkDown s
  | .perstAssert => Sys2Proof.Machine.execPerstAssert s
  | .busMasterDisable d3 => Sys2Proof.Machine.execBusMasterDisable d3 s
  | .hostWriteResume => Sys2Proof.Machine.execHostWriteResume s
  | .configRequest wr reg be v => Sys2Proof.Machine.execConfigRequest wr reg be v s
  | .bar0Request wr off len be v => Sys2Proof.Machine.execBar0Request wr off len be v s
  | .bar2Request wr off data ue => Sys2Proof.Machine.execBar2Request wr off data ue s
  | .encCandidateEdge e a b bLevel => Sys2Proof.Machine.execEncCandidateEdge e a b bLevel s
  | .speedWindowClose e bLevel => Sys2Proof.Machine.execSpeedWindowClose e bLevel s
  | .standstill e => Sys2Proof.Machine.execStandstill e s
  | .indexEdge e rise => Sys2Proof.Machine.execIndexEdge e rise s
  | .encPreset ag e => Sys2Proof.Machine.execEncPreset ag e s
  | .scheduleEnable ag c => Sys2Proof.Machine.execScheduleEnable ag c s
  | .scheduleDisable ag c => Sys2Proof.Machine.execScheduleDisable ag c s
  | .headTriggerEnable ag h => Sys2Proof.Machine.execHeadTriggerEnable ag h s
  | .headTriggerDisable ag h => Sys2Proof.Machine.execHeadTriggerDisable ag h s
  | .syncLock ag => Sys2Proof.Machine.execSyncLock ag s
  | .syncLoopReturn w err => Sys2Proof.Machine.execSyncLoopReturn w err s
  | .syncLoopTimeout => Sys2Proof.Machine.execSyncLoopTimeout s
  | .syncIdleTimer => Sys2Proof.Machine.execSyncIdleTimer s
  | .syncRestateTimer => Sys2Proof.Machine.execSyncRestateTimer s
  | .syncLatencyReceived hop => Sys2Proof.Machine.execSyncLatencyReceived hop s
  | .syncStateReceived cnt k tm since => Sys2Proof.Machine.execSyncStateReceived cnt k tm since s
  | .syncTickReceived step k7 => Sys2Proof.Machine.execSyncTickReceived step k7 s
  | .syncIdleReceived => Sys2Proof.Machine.execSyncIdleReceived s
  | .syncWordError bad => Sys2Proof.Machine.execSyncWordError bad s
  | .syncSilence => Sys2Proof.Machine.execSyncSilence s
  | .gpioEvPush ag => Sys2Proof.Machine.execGpioEvPush ag s
  | .gpioEvFlush ag => Sys2Proof.Machine.execGpioEvFlush ag s
  | .gpioPulseEnd pin => Sys2Proof.Machine.execGpioPulseEnd pin s
  | .exposureEnd h => Sys2Proof.Machine.execExposureEnd h s
  | .seqEnable ag q => Sys2Proof.Machine.execSeqEnable ag q s
  | .seqDisable ag q => Sys2Proof.Machine.execSeqDisable ag q s
  | .seqBankWrite ag q bank => Sys2Proof.Machine.execSeqBankWrite ag q bank s
  | .seqChanWrite ag q chan => Sys2Proof.Machine.execSeqChanWrite ag q chan s
  | .frameStart p vc => Sys2Proof.Machine.execFrameStart p vc s
  | .embeddedLine p vc dt bytes crcBad eccCor => Sys2Proof.Machine.execEmbeddedLine p vc dt bytes crcBad eccCor s
  | .imageLine p vc dt bytes crcBad eccCor => Sys2Proof.Machine.execImageLine p vc dt bytes crcBad eccCor s
  | .frameEnd p vc => Sys2Proof.Machine.execFrameEnd p vc s
  | .frameEndWatchdog p st => Sys2Proof.Machine.execFrameEndWatchdog p st s
  | .frameStartWatchdog p st => Sys2Proof.Machine.execFrameStartWatchdog p st s
  | .linkError p k => Sys2Proof.Machine.execLinkError p k s
  | .packetUnmatched p vc dt => Sys2Proof.Machine.execPacketUnmatched p vc dt s
  | .skewCalibration p => Sys2Proof.Machine.execSkewCalibration p s
  | .ulpsEntry p => Sys2Proof.Machine.execUlpsEntry p s
  | .ulpsExit p => Sys2Proof.Machine.execUlpsExit p s
  | .portEnable ag p => Sys2Proof.Machine.execPortEnable ag p s
  | .portDisable ag p => Sys2Proof.Machine.execPortDisable ag p s
  | .portLearn ag p => Sys2Proof.Machine.execPortLearn ag p s
  | .i2cGo ag p v => Sys2Proof.Machine.execI2cGo ag p v s
  | .i2cDone p r => Sys2Proof.Machine.execI2cDone p r s
  | .i2cStretchTimeout p => Sys2Proof.Machine.execI2cStretchTimeout p s
  | .i2cRecover ag p => Sys2Proof.Machine.execI2cRecover ag p s
  | .lineBoundary f late ue => Sys2Proof.Machine.execLineBoundary f late ue s
  | .faceLineOut f => Sys2Proof.Machine.execFaceLineOut f s
  | .streamLineWrite => Sys2Proof.Machine.execStreamLineWrite s
  | .contextEnable ag f c => Sys2Proof.Machine.execContextEnable ag f c s
  | .contextDisable ag f c => Sys2Proof.Machine.execContextDisable ag f c s
  | .tblSelWrite ag f v => Sys2Proof.Machine.execTblSelWrite ag f v s
  | .tblDataAccess ag f wr => Sys2Proof.Machine.execTblDataAccess ag f wr s
  | .seamEnable ag n => Sys2Proof.Machine.execSeamEnable ag n s
  | .seamDisable ag n => Sys2Proof.Machine.execSeamDisable ag n s
  | .stockEnable ag h p => Sys2Proof.Machine.execStockEnable ag h p s
  | .candidateArrival => Sys2Proof.Machine.execCandidateArrival s
  | .joinTimeout entry => Sys2Proof.Machine.execJoinTimeout entry s
  | .dispatch => Sys2Proof.Machine.execDispatch s
  | .kerfCutDone k => Sys2Proof.Machine.execKerfCutDone k s
  | .deadlineExpiry entry => Sys2Proof.Machine.execDeadlineExpiry entry s
  | .riddleDoneWrite ag entry result => Sys2Proof.Machine.execRiddleDoneWrite ag entry result s
  | .resultRelease entry => Sys2Proof.Machine.execResultRelease entry s
  | .ashlarPost => Sys2Proof.Machine.execAshlarPost s
  | .geometryCommit ag => Sys2Proof.Machine.execGeometryCommit ag s
  | .heldCommitApply => Sys2Proof.Machine.execHeldCommitApply s
  | .benchesWrite ag v => Sys2Proof.Machine.execBenchesWrite ag v s
  | .decodeTicket b h att => Sys2Proof.Machine.execDecodeTicket b h att s
  | .tqTake ag b => Sys2Proof.Machine.execTqTake ag b s
  | .tqFree ag b v => Sys2Proof.Machine.execTqFree ag b v s
  | .eccClaim ag b => Sys2Proof.Machine.execEccClaim ag b s
  | .eccRelease ag b => Sys2Proof.Machine.execEccRelease ag b s
  | .eccGo ag b => Sys2Proof.Machine.execEccGo ag b s
  | .eccJobDone b => Sys2Proof.Machine.execEccJobDone b s
  | .dmaGo ag b c => Sys2Proof.Machine.execDmaGo ag b c s
  | .dmaDone b c ue => Sys2Proof.Machine.execDmaDone b c ue s
  | .cmpGo ag b h v => Sys2Proof.Machine.execCmpGo ag b h v s
  | .cmpCopyDone b h => Sys2Proof.Machine.execCmpCopyDone b h s
  | .hewerRun ag b h => Sys2Proof.Machine.execHewerRun ag b h s
  | .hewerStop ag b h => Sys2Proof.Machine.execHewerStop ag b h s
  | .hewerHalt c => Sys2Proof.Machine.execHewerHalt c s
  | .hewerReset ag b h => Sys2Proof.Machine.execHewerReset ag b h s
  | .clrstk ag b h => Sys2Proof.Machine.execClrstk ag b h s
  | .maDataAccess ag b wr => Sys2Proof.Machine.execMaDataAccess ag b wr s
  | .maDatahWrite ag b v => Sys2Proof.Machine.execMaDatahWrite ag b v s
  | .swRead => Sys2Proof.Machine.execSwRead s
  | .swWrite => Sys2Proof.Machine.execSwWrite s
  | .swRequestDone => Sys2Proof.Machine.execSwRequestDone s
  | .alNop c y ext stop => Sys2Proof.Machine.execAlNop c y ext stop s
  | .mov c y ext stop => Sys2Proof.Machine.execMov c y ext stop s
  | .add c y ext stop => Sys2Proof.Machine.execAdd c y ext stop s
  | .sub c y ext stop => Sys2Proof.Machine.execSub c y ext stop s
  | .neg c y ext stop => Sys2Proof.Machine.execNeg c y ext stop s
  | .abs c y ext stop => Sys2Proof.Machine.execAbs c y ext stop s
  | .addc c y ext stop => Sys2Proof.Machine.execAddc c y ext stop s
  | .subc c y ext stop => Sys2Proof.Machine.execSubc c y ext stop s
  | .and c y ext stop => Sys2Proof.Machine.execAnd c y ext stop s
  | .or c y ext stop => Sys2Proof.Machine.execOr c y ext stop s
  | .xor c y ext stop => Sys2Proof.Machine.execXor c y ext stop s
  | .andn c y ext stop => Sys2Proof.Machine.execAndn c y ext stop s
  | .not c y ext stop => Sys2Proof.Machine.execNot c y ext stop s
  | .cmp c y ext stop => Sys2Proof.Machine.execCmp c y ext stop s
  | .tst c y ext stop => Sys2Proof.Machine.execTst c y ext stop s
  | .min c y ext stop => Sys2Proof.Machine.execMin c y ext stop s
  | .max c y ext stop => Sys2Proof.Machine.execMax c y ext stop s
  | .minu c y ext stop => Sys2Proof.Machine.execMinu c y ext stop s
  | .maxu c y ext stop => Sys2Proof.Machine.execMaxu c y ext stop s
  | .shl c y ext stop => Sys2Proof.Machine.execShl c y ext stop s
  | .shr c y ext stop => Sys2Proof.Machine.execShr c y ext stop s
  | .sar c y ext stop => Sys2Proof.Machine.execSar c y ext stop s
  | .rol c y ext stop => Sys2Proof.Machine.execRol c y ext stop s
  | .clz c y ext stop => Sys2Proof.Machine.execClz c y ext stop s
  | .crcs c y ext stop => Sys2Proof.Machine.execCrcs c y ext stop s
  | .par c y ext stop => Sys2Proof.Machine.execPar c y ext stop s
  | .brev c y ext stop => Sys2Proof.Machine.execBrev c y ext stop s
  | .dadd c y ext stop => Sys2Proof.Machine.execDadd c y ext stop s
  | .dadc c y ext stop => Sys2Proof.Machine.execDadc c y ext stop s
  | .dsub c y ext stop => Sys2Proof.Machine.execDsub c y ext stop s
  | .dsbc c y ext stop => Sys2Proof.Machine.execDsbc c y ext stop s
  | .dsl c y ext stop => Sys2Proof.Machine.execDsl c y ext stop s
  | .dsr c y ext stop => Sys2Proof.Machine.execDsr c y ext stop s
  | .d2b c y ext stop => Sys2Proof.Machine.execD2b c y ext stop s
  | .b2d c y ext stop => Sys2Proof.Machine.execB2d c y ext stop s
  | .muNop c y ext stop => Sys2Proof.Machine.execMuNop c y ext stop s
  | .mul c y ext stop => Sys2Proof.Machine.execMul c y ext stop s
  | .mulu c y ext stop => Sys2Proof.Machine.execMulu c y ext stop s
  | .fmul c y ext stop => Sys2Proof.Machine.execFmul c y ext stop s
  | .mpya c y ext stop => Sys2Proof.Machine.execMpya c y ext stop s
  | .fmpya c y ext stop => Sys2Proof.Machine.execFmpya c y ext stop s
  | .mac c y ext stop => Sys2Proof.Machine.execMac c y ext stop s
  | .msu c y ext stop => Sys2Proof.Machine.execMsu c y ext stop s
  | .fmac c y ext stop => Sys2Proof.Machine.execFmac c y ext stop s
  | .fmsu c y ext stop => Sys2Proof.Machine.execFmsu c y ext stop s
  | .clra c y ext stop => Sys2Proof.Machine.execClra c y ext stop s
  | .movta c y ext stop => Sys2Proof.Machine.execMovta c y ext stop s
  | .ext c y ext stop => Sys2Proof.Machine.execExt c y ext stop s
  | .divq c y ext stop => Sys2Proof.Machine.execDivq c y ext stop s
  | .divr c y ext stop => Sys2Proof.Machine.execDivr c y ext stop s
  | .fdiv c y ext stop => Sys2Proof.Machine.execFdiv c y ext stop s
  | .muCrcs c y ext stop => Sys2Proof.Machine.execMuCrcs c y ext stop s
  | .muPar c y ext stop => Sys2Proof.Machine.execMuPar c y ext stop s
  | .muBrev c y ext stop => Sys2Proof.Machine.execMuBrev c y ext stop s
  | .lsNop c y ext stop => Sys2Proof.Machine.execLsNop c y ext stop s
  | .ld c y ext stop => Sys2Proof.Machine.execLd c y ext stop s
  | .st c y ext stop => Sys2Proof.Machine.execSt c y ext stop s
  | .brNop c y ext stop => Sys2Proof.Machine.execBrNop c y ext stop s
  | .b c y ext stop => Sys2Proof.Machine.execB c y ext stop s
  | .call c y ext stop => Sys2Proof.Machine.execCall c y ext stop s
  | .jr c y ext stop => Sys2Proof.Machine.execJr c y ext stop s
  | .loop c y ext stop => Sys2Proof.Machine.execLoop c y ext stop s
  | .loopi c y ext stop => Sys2Proof.Machine.execLoopi c y ext stop s
  | .halt c y ext stop => Sys2Proof.Machine.execHalt c y ext stop s
  | .loopEnd c => Sys2Proof.Machine.execLoopEnd c s
  | .undefinedSyllable c slot stop => Sys2Proof.Machine.execUndefinedSyllable c slot stop s
  | .mbxTx ag box far v => Sys2Proof.Machine.execMbxTx ag box far v s
  | .mbxTxl ag box far v => Sys2Proof.Machine.execMbxTxl ag box far v s
  | .mbxRx ag box far => Sys2Proof.Machine.execMbxRx ag box far s
  | .wedgeClaim ag box far als => Sys2Proof.Machine.execWedgeClaim ag box far als s
  | .wedgeRelease ag box far als v => Sys2Proof.Machine.execWedgeRelease ag box far als v s
  | .mbxFlush ag box => Sys2Proof.Machine.execMbxFlush ag box s
  | .mbxForce ag box => Sys2Proof.Machine.execMbxForce ag box s
  | .consolePoll => Sys2Proof.Machine.execConsolePoll s
  | .uartCharReceived u samples => Sys2Proof.Machine.execUartCharReceived u samples s
  | .uartTxWrite ag u v => Sys2Proof.Machine.execUartTxWrite ag u v s
  | .uartRxRead ag u => Sys2Proof.Machine.execUartRxRead ag u s
  | .uartCharSent u => Sys2Proof.Machine.execUartCharSent u s
  | .uartDeTailEnd => Sys2Proof.Machine.execUartDeTailEnd s
  | .uartServicePoll u => Sys2Proof.Machine.execUartServicePoll u s
  | .spoilReport cls unit out detail => Sys2Proof.Machine.execSpoilReport cls unit out detail s
  | .spoilHandle retryOk => Sys2Proof.Machine.execSpoilHandle retryOk s
  | .benchRestartDone b pass => Sys2Proof.Machine.execBenchRestartDone b pass s
  | .hangDetect b h => Sys2Proof.Machine.execHangDetect b h s
  | .sysRecovGo ag v => Sys2Proof.Machine.execSysRecovGo ag v s
  | .mirrorEnable ag => Sys2Proof.Machine.execMirrorEnable ag s
  | .resultRingEnable ag en => Sys2Proof.Machine.execResultRingEnable ag en s
  | .streamRingEnable ag r en => Sys2Proof.Machine.execStreamRingEnable ag r en s
  | .resConsWrite ag v => Sys2Proof.Machine.execResConsWrite ag v s
  | .payConsWrite ag v => Sys2Proof.Machine.execPayConsWrite ag v s
  | .streamConsWrite ag r v => Sys2Proof.Machine.execStreamConsWrite ag r v s
  | .commandLineReceived ch => Sys2Proof.Machine.execCommandLineReceived ch s
  | .cmdEncMode ch e updown edge invert => Sys2Proof.Machine.execCmdEncMode ch e updown edge invert s
  | .cmdEncFilter ch e minedge glitchlim => Sys2Proof.Machine.execCmdEncFilter ch e minedge glitchlim s
  | .cmdEncSpeed ch e window standstill => Sys2Proof.Machine.execCmdEncSpeed ch e window standstill s
  | .cmdEncIndex ch e period tol snap fall => Sys2Proof.Machine.execCmdEncIndex ch e period tol snap fall s
  | .cmdEncPreset ch e counts => Sys2Proof.Machine.execCmdEncPreset ch e counts s
  | .cmdEncWake ch e on => Sys2Proof.Machine.execCmdEncWake ch e on s
  | .cmdEncReport ch e => Sys2Proof.Machine.execCmdEncReport ch e s
  | .cmdTrgSchedule ch c pitch origin rev => Sys2Proof.Machine.execCmdTrgSchedule ch c pitch origin rev s
  | .cmdTrgScheduleOnOff ch c on => Sys2Proof.Machine.execCmdTrgScheduleOnOff ch c on s
  | .cmdTrgHead ch h chan delay minint slab => Sys2Proof.Machine.execCmdTrgHead ch h chan delay minint slab s
  | .cmdTrgHeadOnOff ch h on => Sys2Proof.Machine.execCmdTrgHeadOnOff ch h on s
  | .cmdTrgStopatslab ch h => Sys2Proof.Machine.execCmdTrgStopatslab ch h s
  | .cmdTrgEvent ch pin c pos act lateFire => Sys2Proof.Machine.execCmdTrgEvent ch pin c pos act lateFire s
  | .cmdTrgEventFlush ch => Sys2Proof.Machine.execCmdTrgEventFlush ch s
  | .cmdTrgSync ch role chan lat restate => Sys2Proof.Machine.execCmdTrgSync ch role chan lat restate s
  | .cmdTrgSyncLock ch => Sys2Proof.Machine.execCmdTrgSyncLock ch s
  | .cmdTrgSyncReport ch => Sys2Proof.Machine.execCmdTrgSyncReport ch s
  | .cmdSeqChan ch q e => Sys2Proof.Machine.execCmdSeqChan ch q e s
  | .cmdSeqOnOff ch q on => Sys2Proof.Machine.execCmdSeqOnOff ch q on s
  | .cmdSeqStep ch q n l => Sys2Proof.Machine.execCmdSeqStep ch q n l s
  | .cmdSeqLen ch q l => Sys2Proof.Machine.execCmdSeqLen ch q l s
  | .cmdSeqCopy ch q => Sys2Proof.Machine.execCmdSeqCopy ch q s
  | .cmdSeqSwap ch q at_ => Sys2Proof.Machine.execCmdSeqSwap ch q at_ s
  | .cmdSeqFixed ch q l => Sys2Proof.Machine.execCmdSeqFixed ch q l s
  | .cmdSeqTally ch q h on => Sys2Proof.Machine.execCmdSeqTally ch q h on s
  | .cmdSeqReport ch q => Sys2Proof.Machine.execCmdSeqReport ch q s
  | .cmdPortLanes ch p lanes rate => Sys2Proof.Machine.execCmdPortLanes ch p lanes rate s
  | .cmdPortImg ch p st vc dt width on => Sys2Proof.Machine.execCmdPortImg ch p st vc dt width on s
  | .cmdPortEmb ch p vc dt on => Sys2Proof.Machine.execCmdPortEmb ch p vc dt on s
  | .cmdPortAlign ch p on counter lsb ofs => Sys2Proof.Machine.execCmdPortAlign ch p on counter lsb ofs s
  | .cmdPortFillTmo ch p fill tmoFs tmoFe => Sys2Proof.Machine.execCmdPortFillTmo ch p fill tmoFs tmoFe s
  | .cmdPortOnOff ch p on => Sys2Proof.Machine.execCmdPortOnOff ch p on s
  | .cmdPortI2c ch p addr write read speed stretch => Sys2Proof.Machine.execCmdPortI2c ch p addr write read speed stretch s
  | .cmdPortI2cRecover ch p => Sys2Proof.Machine.execCmdPortI2cRecover ch p s
  | .cmdPortReport ch p => Sys2Proof.Machine.execCmdPortReport ch p s
  | .cmdFaceMode ch f c mode planes align => Sys2Proof.Machine.execCmdFaceMode ch f c mode planes align s
  | .cmdFaceBlackOffset ch f c p ofs => Sys2Proof.Machine.execCmdFaceBlackOffset ch f c p ofs s
  | .cmdFaceBlackLoad ch f c src => Sys2Proof.Machine.execCmdFaceBlackLoad ch f c src s
  | .cmdFaceBlackSwap ch f c => Sys2Proof.Machine.execCmdFaceBlackSwap ch f c s
  | .cmdFaceDefectLoad ch f src => Sys2Proof.Machine.execCmdFaceDefectLoad ch f src s
  | .cmdFaceDefectAdd ch f c col m => Sys2Proof.Machine.execCmdFaceDefectAdd ch f c col m s
  | .cmdFaceDefectSwap ch f => Sys2Proof.Machine.execCmdFaceDefectSwap ch f s
  | .cmdFaceDynamic ch f c on hi lo => Sys2Proof.Machine.execCmdFaceDynamic ch f c on hi lo s
  | .cmdFaceFlatLoad ch f c p src => Sys2Proof.Machine.execCmdFaceFlatLoad ch f c p src s
  | .cmdFaceFlatSwap ch f c => Sys2Proof.Machine.execCmdFaceFlatSwap ch f c s
  | .cmdFaceWb ch f c p r g b => Sys2Proof.Machine.execCmdFaceWb ch f c p r g b s
  | .cmdFaceMatrix ch f c m => Sys2Proof.Machine.execCmdFaceMatrix ch f c m s
  | .cmdFaceToneLoad ch f c chn src => Sys2Proof.Machine.execCmdFaceToneLoad ch f c chn src s
  | .cmdFaceToneSwap ch f c => Sys2Proof.Machine.execCmdFaceToneSwap ch f c s
  | .cmdFaceBypass ch f c st => Sys2Proof.Machine.execCmdFaceBypass ch f c st s
  | .cmdFaceReport ch f => Sys2Proof.Machine.execCmdFaceReport ch f s
  | .cmdFaceSource ch f c p img1 inline slabs lines stock => Sys2Proof.Machine.execCmdFaceSource ch f c p img1 inline slabs lines stock s
  | .cmdFaceCtxOnOff ch f c on => Sys2Proof.Machine.execCmdFaceCtxOnOff ch f c on s
  | .cmdFaceMv ch f c planes bits16 => Sys2Proof.Machine.execCmdFaceMv ch f c planes bits16 s
  | .cmdFaceDisp ch f c plane scale overlay delay off => Sys2Proof.Machine.execCmdFaceDisp ch f c plane scale overlay delay off s
  | .cmdFaceCode ch f c plane scale off => Sys2Proof.Machine.execCmdFaceCode ch f c plane scale off s
  | .cmdFaceOverlay ch f cls r g b => Sys2Proof.Machine.execCmdFaceOverlay ch f cls r g b s
  | .cmdFaceCtxReport ch f c => Sys2Proof.Machine.execCmdFaceCtxReport ch f c s
  | .cmdSeamCtrl ch n on margin hmax => Sys2Proof.Machine.execCmdSeamCtrl ch n on margin hmax s
  | .cmdSeamSrc ch n c pl on => Sys2Proof.Machine.execCmdSeamSrc ch n c pl on s
  | .cmdSeamVote ch n mag count mass => Sys2Proof.Machine.execCmdSeamVote ch n mag count mass s
  | .cmdSeamDot ch n con mn pol => Sys2Proof.Machine.execCmdSeamDot ch n con mn pol s
  | .cmdSeamLinear ch n conc bal => Sys2Proof.Machine.execCmdSeamLinear ch n conc bal s
  | .cmdSeamGrid ch n conc orth => Sys2Proof.Machine.execCmdSeamGrid ch n conc orth s
  | .cmdSeamTol ch n tol mint => Sys2Proof.Machine.execCmdSeamTol ch n tol mint s
  | .cmdSeamReport ch n c => Sys2Proof.Machine.execCmdSeamReport ch n c s
  | .cmdStock ch h p depth on => Sys2Proof.Machine.execCmdStock ch h p depth on s
  | .cmdStockReport ch h => Sys2Proof.Machine.execCmdStockReport ch h s
  | .cmdRiddleOnOff ch on => Sys2Proof.Machine.execCmdRiddleOnOff ch on s
  | .cmdRiddleCommit ch => Sys2Proof.Machine.execCmdRiddleCommit ch s
  | .cmdRiddleHead ch h geo right => Sys2Proof.Machine.execCmdRiddleHead ch h geo right s
  | .cmdRiddleChan ch e upc => Sys2Proof.Machine.execCmdRiddleChan ch e upc s
  | .cmdRiddleCalibrate ch heads ref => Sys2Proof.Machine.execCmdRiddleCalibrate ch heads ref s
  | .cmdRiddleJoin ch edge angle lead timeout => Sys2Proof.Machine.execCmdRiddleJoin ch edge angle lead timeout s
  | .cmdRiddleDup ch dist angle window => Sys2Proof.Machine.execCmdRiddleDup ch dist angle window s
  | .cmdRiddleClass ch cls scale margin deadline bicubic benches => Sys2Proof.Machine.execCmdRiddleClass ch cls scale margin deadline bicubic benches s
  | .cmdRiddleBenchArea ch b area slots size => Sys2Proof.Machine.execCmdRiddleBenchArea ch b area slots size s
  | .cmdRiddleBenchOnOff ch b on => Sys2Proof.Machine.execCmdRiddleBenchOnOff ch b on s
  | .cmdKerf ch k on fill => Sys2Proof.Machine.execCmdKerf ch k on fill s
  | .cmdRiddleReport ch => Sys2Proof.Machine.execCmdRiddleReport ch s
  | .cmdKerfReport ch k => Sys2Proof.Machine.execCmdKerfReport ch k s
  | .cmdSymEnable ch sym on => Sys2Proof.Machine.execCmdSymEnable ch sym on s
  | .cmdSymOrder ch cls order => Sys2Proof.Machine.execCmdSymOrder ch cls order s
  | .cmdSymPolarity ch sym pol mirror => Sys2Proof.Machine.execCmdSymPolarity ch sym pol mirror s
  | .cmdSymErase ch sym conf mx => Sys2Proof.Machine.execCmdSymErase ch sym conf mx s
  | .cmdSymReserve ch sym n => Sys2Proof.Machine.execCmdSymReserve ch sym n s
  | .cmdSymScans ch sym scans agree qz => Sys2Proof.Machine.execCmdSymScans ch sym scans agree qz s
  | .cmdSymCode39 ch check fullascii len => Sys2Proof.Machine.execCmdSymCode39 ch check fullascii len s
  | .cmdSymI2of5 ch check range lens => Sys2Proof.Machine.execCmdSymI2of5 ch check range lens s
  | .cmdSymGs1 ch on => Sys2Proof.Machine.execCmdSymGs1 ch on s
  | .cmdSymReport ch sym => Sys2Proof.Machine.execCmdSymReport ch sym s
  | .cmdGradeEnable ch sym on => Sys2Proof.Machine.execCmdGradeEnable ch sym on s
  | .cmdGradeAperture ch pc => Sys2Proof.Machine.execCmdGradeAperture ch pc s
  | .cmdGradeRefl ch h p y8 pc => Sys2Proof.Machine.execCmdGradeRefl ch h p y8 pc s
  | .cmdGradeTrend ch t off sym heads planes param window below above countNoread => Sys2Proof.Machine.execCmdGradeTrend ch t off sym heads planes param window below above countNoread s
  | .cmdGradeReport ch => Sys2Proof.Machine.execCmdGradeReport ch s
  | .cmdResultText ch port detail => Sys2Proof.Machine.execCmdResultText ch port detail s
  | .cmdResult ch n => Sys2Proof.Machine.execCmdResult ch n s
  | .cmdBenchLease ch b => Sys2Proof.Machine.execCmdBenchLease ch b s
  | .cmdBenchReturn ch b => Sys2Proof.Machine.execCmdBenchReturn ch b s
  | .cmdBenchReport ch b => Sys2Proof.Machine.execCmdBenchReport ch b s
  | .cmdHewerStart ch b h addr => Sys2Proof.Machine.execCmdHewerStart ch b h addr s
  | .cmdHewerHalt ch b h => Sys2Proof.Machine.execCmdHewerHalt ch b h s
  | .cmdHewerRun ch b h => Sys2Proof.Machine.execCmdHewerRun ch b h s
  | .cmdHewerReset ch b h => Sys2Proof.Machine.execCmdHewerReset ch b h s
  | .cmdHewerClear ch b h => Sys2Proof.Machine.execCmdHewerClear ch b h s
  | .cmdMbxReport ch => Sys2Proof.Machine.execCmdMbxReport ch s
  | .cmdMbxRelease ch box => Sys2Proof.Machine.execCmdMbxRelease ch box s
  | .cmdMbxFlush ch box => Sys2Proof.Machine.execCmdMbxFlush ch box s
  | .cmdSession ch echo events check => Sys2Proof.Machine.execCmdSession ch echo events check s
  | .cmdId ch => Sys2Proof.Machine.execCmdId ch s
  | .cmdIdCl ch n => Sys2Proof.Machine.execCmdIdCl ch n s
  | .cmdOwnRelease ch u => Sys2Proof.Machine.execCmdOwnRelease ch u s
  | .cmdOwnTake ch u => Sys2Proof.Machine.execCmdOwnTake ch u s
  | .cmdOwnReport ch => Sys2Proof.Machine.execCmdOwnReport ch s
  | .cmdSave ch n name => Sys2Proof.Machine.execCmdSave ch n name s
  | .cmdSaveReport ch => Sys2Proof.Machine.execCmdSaveReport ch s
  | .cmdSaveShow ch n => Sys2Proof.Machine.execCmdSaveShow ch n s
  | .cmdLoad ch n => Sys2Proof.Machine.execCmdLoad ch n s
  | .cmdLoadReset ch => Sys2Proof.Machine.execCmdLoadReset ch s
  | .cmdBootSet ch n => Sys2Proof.Machine.execCmdBootSet ch n s
  | .cmdReset ch => Sys2Proof.Machine.execCmdReset ch s
  | .cmdEvent ch n => Sys2Proof.Machine.execCmdEvent ch n s
  | .cmdHelp ch verb => Sys2Proof.Machine.execCmdHelp ch verb s
  | .cmdUartFormat ch u baud div bits parity stop => Sys2Proof.Machine.execCmdUartFormat ch u baud div bits parity stop s
  | .cmdUartAddr ch u addr node mute lead tail low => Sys2Proof.Machine.execCmdUartAddr ch u addr node mute lead tail low s
  | .cmdUartWake ch u on => Sys2Proof.Machine.execCmdUartWake ch u on s
  | .cmdUartReport ch u => Sys2Proof.Machine.execCmdUartReport ch u s
  | .cmdPwrPd ch pd on => Sys2Proof.Machine.execCmdPwrPd ch pd on s
  | .cmdPwrStandby ch => Sys2Proof.Machine.execCmdPwrStandby ch s
  | .cmdPwrWake ch sync gpio fall => Sys2Proof.Machine.execCmdPwrWake ch sync gpio fall s
  | .cmdPwrThrottle ch deg => Sys2Proof.Machine.execCmdPwrThrottle ch deg s
  | .cmdPwrReport ch => Sys2Proof.Machine.execCmdPwrReport ch s
  | .cmdBootImageWrite ch imgB addr len => Sys2Proof.Machine.execCmdBootImageWrite ch imgB addr len s
  | .cmdBootImageCheck ch imgB => Sys2Proof.Machine.execCmdBootImageCheck ch imgB s
  | .cmdBootImagePrefer ch imgB => Sys2Proof.Machine.execCmdBootImagePrefer ch imgB s
  | .cmdBootImageReport ch => Sys2Proof.Machine.execCmdBootImageReport ch s
  | .cmdCalDark ch f c lines tol save => Sys2Proof.Machine.execCmdCalDark ch f c lines tol save s
  | .cmdCalFlat ch f c p target lines tol save => Sys2Proof.Machine.execCmdCalFlat ch f c p target lines tol save s
  | .cmdCalDefect ch f c dark flat darkmax flatdev save => Sys2Proof.Machine.execCmdCalDefect ch f c dark flat darkmax flatdev save s
  | .cmdCalImport ch name kind src => Sys2Proof.Machine.execCmdCalImport ch name kind src s
  | .cmdCalExport ch name dst => Sys2Proof.Machine.execCmdCalExport ch name dst s
  | .cmdCalRecords ch => Sys2Proof.Machine.execCmdCalRecords ch s
  | .cmdCalDelete ch name => Sys2Proof.Machine.execCmdCalDelete ch name s
  | .cmdSpoil ch => Sys2Proof.Machine.execCmdSpoil ch s
  | .cmdSpoilClear ch => Sys2Proof.Machine.execCmdSpoilClear ch s
  | .cmdSpoilUnits ch => Sys2Proof.Machine.execCmdSpoilUnits ch s
  | .cmdHostMirror ch base on => Sys2Proof.Machine.execCmdHostMirror ch base on s
  | .cmdHostResult ch base entries pbase psize on => Sys2Proof.Machine.execCmdHostResult ch base entries pbase psize on s
  | .cmdHostStream ch f c k base size on => Sys2Proof.Machine.execCmdHostStream ch f c k base size on s
  | .cmdHostReport ch => Sys2Proof.Machine.execCmdHostReport ch s
  | .uartReceiverRearm u => Sys2Proof.Machine.execUartReceiverRearm u s
  | .syncLoopReceived seq => Sys2Proof.Machine.execSyncLoopReceived seq s
  | .clockLaneHsEntry p => Sys2Proof.Machine.execClockLaneHsEntry p s
  | .clockLaneHsExit p => Sys2Proof.Machine.execClockLaneHsExit p s
  | .calNoLineTimeout f c => Sys2Proof.Machine.execCalNoLineTimeout f c s
  | .jtagTckEdge tms tdi => Sys2Proof.Machine.execJtagTckEdge tms tdi s

end Sys2Proof.Machine
end

