-- ==== Sys2Proof/Machine/Tick.lean ====
section
/-!
DEFINITION. What one cycle of the AON clock (5 ns) does by itself when no command waits: TIME counts (R45), the hewers run
(R262, R418), the DMA engines move units (R277), and long commands are answered (R364). Every other effect of time is a command of the table.
-/
namespace Sys2Proof.Machine

/-- Bench cycles in a cycle of the AON clock: 1.2 GHz, throttled 600 MHz (R418). -/
def State.benchRate (s : State) : Nat := if s.pw.throttled then 3 else 6

/-- One bench cycle of hewers 0 to n − 1, in their order. (DESIGN CHOICE, log 140) -/
def hewersCycle : Nat → State → Out
  | 0, s => .next s
  | n + 1, s => Out.andThen (hewersCycle n s) (hewerCycle n)

/-- The cycle counters of the powered benches. -/
def State.countCycles (s : State) : State :=
  upTo 8 (fun b s => if s.on (benchPd b) then s.setBench b { s.bench b with cyc := (s.bench b).cyc + 1 } else s) s

/-- One bench cycle of the DMA engines of the powered benches. -/
def State.dmaCycles (s : State) : State := upTo 8 (fun b s => if s.on (benchPd b) then s.dmaCycle b else s) s

/-- The foreman's accesses and results that are due once it has halted. -/
def foremanRests (s : State) : Out := if (s.core 64).running then .next s else issue 64 s

/-- n bench cycles: the hewers before the DMA engines (R263). -/
def benchCycles : Nat → State → Out
  | 0, s => .next s
  | n + 1, s => Out.andThen (Out.andThen (hewersCycle 64 s.countCycles) foremanRests) (fun s => benchCycles n s.dmaCycles)

/-- A tick of the AON clock. -/
def tick (s : State) : Out :=
  if s.powered then benchCycles s.benchRate (s.finishLong.setTime (s.time + 1)) else .next s

end Sys2Proof.Machine
end

