-- ==== Sys2Proof/Machine/Step.lean ====
section
/-!
DEFINITION. One step: the command at the front of the queue, or the tick of the clock where none waits.
-/
namespace Sys2Proof.Machine

/-- The step: `exec` of the front command on the state with the queue's rest; with nothing waiting, a tick (log 3).
(DESIGN CHOICE, log 3) -/
def step (s : State) : Host.Outcome State Fault Refusal :=
  match s.pending with
  | c :: rest => exec c { s with pending := rest }
  | [] => tick s

/-- The state with the command a table word spells at the front of its queue; the table's rows give no bits, so no
word spells one. -/
def State.withFetchWord (s : State) (nbits w : Nat) : State :=
  match decodeTableWord nbits w with
  | some c => { s with pending := c :: s.pending }
  | none => s

end Sys2Proof.Machine
end

