-- ==== Sys2Proof/Laws/SMap.lean ====
section
/-!
SUPPORT. The laws of sparse maps: reading after writing, and that every write keeps the canonical form.
-/
namespace Sys2Proof

variable {α : Type}

theorem SMap.get_insert (d : Nat → α) (m : SMap α) (k j : Nat) (v : α) :
    SMap.get d (SMap.insert k v m) j = if j = k then v else SMap.get d m j := by
  induction m with
  | nil => simp [SMap.insert, SMap.get]
  | cons e m ih =>
    obtain ⟨i, w⟩ := e
    simp only [SMap.insert]
    split
    · simp [SMap.get]
    · split
      · next h => subst h; simp only [SMap.get]; split <;> rfl
      · next h1 h2 =>
        simp only [SMap.get, ih]
        split
        · next h => subst h; rw [if_neg (fun h => h2 h.symm)]
        · rfl

theorem SMap.get_erase (d : Nat → α) (m : SMap α) (k j : Nat) :
    SMap.get d (SMap.erase k m) j = if j = k then d j else SMap.get d m j := by
  induction m with
  | nil => simp [SMap.erase, SMap.get]
  | cons e m ih =>
    obtain ⟨i, w⟩ := e
    simp only [SMap.erase, List.filter_cons] at ih ⊢
    by_cases h : i = k
    · subst h; simp only [ne_eq, not_true_eq_false, decide_false, Bool.false_eq_true, ↓reduceIte, ih, SMap.get]
      by_cases hj : j = i <;> simp [hj]
    · simp only [ne_eq, h, not_false_eq_true, decide_true, ↓reduceIte, SMap.get, ih]
      by_cases hj : j = i
      · subst hj; simp [h]
      · simp [hj]

/-- Reading after writing one key: the value at that key, the old value elsewhere. -/
theorem SMap.get_set [DecidableEq α] (d : Nat → α) (m : SMap α) (k j : Nat) (v : α) :
    SMap.get d (SMap.set d m k v) j = if j = k then v else SMap.get d m j := by
  unfold SMap.set
  split
  · next h => rw [SMap.get_erase]; split
              · next hj => rw [hj, h]
              · rfl
  · exact SMap.get_insert d m k j v

/-- Every key of a map lies above `b`. -/
def SMap.above (b : Nat) (m : SMap α) : Prop := ∀ e ∈ m, b < e.1

/-- The canonical form, one entry at a time. -/
theorem SMap.wf_cons [DecidableEq α] (d : Nat → α) (k : Nat) (v : α) (m : SMap α) :
    SMap.wf d ((k, v) :: m) = true ↔ v ≠ d k ∧ SMap.above k m ∧ SMap.wf d m = true := by
  induction m generalizing k v with
  | nil => simp [SMap.wf, SMap.above]
  | cons e m ih =>
    obtain ⟨j, w⟩ := e
    rw [SMap.wf, Bool.and_eq_true, Bool.and_eq_true, decide_eq_true_eq, decide_eq_true_eq, ih]
    constructor
    · rintro ⟨⟨hk, hv⟩, hw, ha, hm⟩
      refine ⟨hv, ?_, hw, ha, hm⟩
      intro e he
      rcases List.mem_cons.mp he with rfl | he
      · exact hk
      · exact Nat.lt_trans hk (ha e he)
    · rintro ⟨hv, ha, hw, hb, hm⟩
      exact ⟨⟨ha _ (List.mem_cons_self ..), hv⟩, hw, hb, hm⟩

theorem SMap.above_insert (b k : Nat) (v : α) (m : SMap α) (h : b < k) (hm : SMap.above b m) :
    SMap.above b (SMap.insert k v m) := by
  induction m with
  | nil => intro e he; simp [SMap.insert] at he; subst he; exact h
  | cons e m ih =>
    obtain ⟨j, w⟩ := e
    have hj : b < j := hm _ (List.mem_cons_self ..)
    have hm' : SMap.above b m := fun e he => hm e (List.mem_cons_of_mem _ he)
    simp only [SMap.insert]
    split
    · intro e he
      rcases List.mem_cons.mp he with rfl | he
      · exact h
      · exact hm e he
    · split
      · intro e he
        rcases List.mem_cons.mp he with rfl | he
        · exact h
        · exact hm' e he
      · intro e he
        rcases List.mem_cons.mp he with rfl | he
        · exact hj
        · exact ih hm' e he

/-- Putting a value that is not its key's default in its place keeps the canonical form. -/
theorem SMap.wf_insert [DecidableEq α] (d : Nat → α) (m : SMap α) (k : Nat) (v : α) (hv : v ≠ d k)
    (h : SMap.wf d m = true) : SMap.wf d (SMap.insert k v m) = true := by
  induction m with
  | nil => simp [SMap.insert, SMap.wf, hv]
  | cons e m ih =>
    obtain ⟨j, w⟩ := e
    obtain ⟨hw, ha, hm⟩ := (SMap.wf_cons d j w m).mp h
    simp only [SMap.insert]
    split
    · next hk =>
      refine (SMap.wf_cons ..).mpr ⟨hv, ?_, h⟩
      intro e he
      rcases List.mem_cons.mp he with rfl | he
      · exact hk
      · exact Nat.lt_trans hk (ha e he)
    · split
      · next hk => subst hk; exact (SMap.wf_cons ..).mpr ⟨hv, ha, hm⟩
      · exact (SMap.wf_cons ..).mpr ⟨hw, SMap.above_insert _ _ _ _ (by omega) ha, ih hm⟩

/-- Removing a key keeps the canonical form. -/
theorem SMap.wf_erase [DecidableEq α] (d : Nat → α) (m : SMap α) (k : Nat) (h : SMap.wf d m = true) :
    SMap.wf d (SMap.erase k m) = true := by
  induction m with
  | nil => rfl
  | cons e m ih =>
    obtain ⟨j, w⟩ := e
    obtain ⟨hw, ha, hm⟩ := (SMap.wf_cons d j w m).mp h
    simp only [SMap.erase, List.filter_cons] at ih ⊢
    split
    · exact (SMap.wf_cons ..).mpr ⟨hw, fun e he => ha e ((List.mem_filter.mp he).1), ih hm⟩
    · exact ih hm

/-- Every write keeps the canonical form. -/
theorem SMap.wf_set [DecidableEq α] (d : Nat → α) (m : SMap α) (k : Nat) (v : α) (h : SMap.wf d m = true) :
    SMap.wf d (SMap.set d m k v) = true := by
  unfold SMap.set
  split
  · exact SMap.wf_erase d m k h
  · next hv => exact SMap.wf_insert d m k v hv h

/-- Writing a run of keys keeps the canonical form. -/
theorem SMap.wf_setRun [DecidableEq α] (d : Nat → α) (vs : List α) : ∀ (m : SMap α) (k : Nat),
    SMap.wf d m = true → SMap.wf d (SMap.setRun d m k vs) = true := by
  induction vs with
  | nil => intro m k h; exact h
  | cons v vs ih => intro m k h; exact ih _ _ (SMap.wf_set d m k v h)

/-- Reading a key outside a written run gives what it gave before. -/
theorem SMap.get_setRun_out [DecidableEq α] (d : Nat → α) (vs : List α) : ∀ (m : SMap α) (k j : Nat),
    (j < k ∨ k + vs.length ≤ j) → SMap.get d (SMap.setRun d m k vs) j = SMap.get d m j := by
  induction vs with
  | nil => intro m k j _; rfl
  | cons v vs ih =>
    intro m k j h
    simp only [List.length_cons] at h
    rw [SMap.setRun, ih _ _ _ (by omega), SMap.get_set, if_neg (by omega)]

/-- The key of an entry that reads other than its default is listed. -/
theorem SMap.get_nil (d : Nat → α) (k : Nat) : SMap.get d ([] : SMap α) k = d k := rfl

end Sys2Proof
end

