-- ==== Sys2Proof/Safety.lean ====
section
/-!
DEFINITION. What statements are said in: the canonical form of the memories, a channel that serves commands, a step that
neither faults nor is refused.
-/
namespace Sys2Proof

/-- The bytes that a transaction cut off has transferred: received where it was reading, acknowledged before (R118, R119). -/
def I2cCut.xfer (c : I2cCut) (j : Machine.I2cJob) : Nat :=
  match c.rx with
  | none => min c.acked j.wlen
  | some rx => min rx.length j.rlen

namespace Machine

/-- DRAM and host memory are in their canonical form: addresses strictly rising, no byte equal to what an unlisted address
reads as. -/
def State.memWf (s : State) : Bool := SMap.wf (fun _ => (0 : Byte)) s.dram && SMap.wf (fun _ => (0 : Byte)) s.hostMem

/-- A channel serves commands: Run, no drain, no long command on the channel, room for its responses (R348, R362, R364,
R409), and no undefined result in force (R433). -/
def State.serves (s : State) (ch : Chan) : Prop := s.pw.st = .run ∧ (s.chan ch).ready = true ∧ s.undef = []

/-- A write of a register is ordinary (R33, R377, R433, R489): its domain is on, the agent may write the block, no undefined
result is in force there, and the value changes no live-unsafe field of an enabled block. -/
def State.writable (s : State) (ag : Agent) (a : Nat) (w : Word) : Bool :=
  match RegMap.find a with
  | some h => s.on h.domain && s.mayWrite ag h && !s.isUndef h && !s.liveUnsafe h a w
  | none => false

/-- Bytes of host memory from an address. -/
def State.hostRun (s : State) (a n : Nat) : List Byte := SMap.getRun (fun _ => (0 : Byte)) s.hostMem a n

/-- The word at offset 4i of the mirror block (R481). -/
def State.mirrorWord (s : State) (i : Nat) : Word :=
  if i = 0 then s.reg Adr.pcieResProd
  else if i = 1 then s.reg Adr.pciePayProd
  else if i < 16 then 0
  else s.reg (Adr.pcieStreamProd (i - 16))

/-- The edges that move the count of a STATE whose start bit arrived `since` ago, oldest first: those within the slave's
latency before it, and the later ones (R76 step 5). -/
def State.stateEdges (s : State) (since : Nat) : List Bool :=
  let c := s.syncChan
  let start := s.time - BitVec.ofNat 64 since
  (((s.enc c).hist.filter (fun e => decide (0 < (e.1 - start).toInt))) ++ s.edgesBefore c start s.syncLatency).reverse.map Prod.snd

/-- An agent on the fabric: the foreman or the host (R283, R284). -/
def onFabric : Agent → Bool
  | .hewer _ _ => false
  | _ => true

/-- An agent reaches the registers of a bench that hewers reach (R274, R287): the bench is powered, and the agent is the
foreman, a hewer of the bench, or the host while the bench is leased. -/
def State.reachesBench (s : State) (ag : Agent) (b : Fin 8) : Bool :=
  s.on (benchPd b) && match ag with
    | .foreman => true
    | .hewer c _ => c == b
    | .host => (s.bench b).leased

/-- A completion window's job (R279). -/
def State.cmpJob (s : State) (b h : Nat) : Option CmpJob := SMap.get (fun _ => (none : Option CmpJob)) (s.bench b).cmp h

/-- The result slot of an entry (R279). -/
def State.slotOf (s : State) (i : Nat) : Option ReadRes := SMap.get (fun _ => (none : Option ReadRes)) s.riddle.slots i

/-- A safe step: it neither faults nor is refused. -/
def State.safe (s : State) : Prop := ∃ t, step s = .next t

/-! ### Tsumante -/

/-- A command of a syllable, without its operands. -/
abbrev SylCmd := Core → Syl → Option Word → Bool → Instr

/-- The AL syllables with their commands (R302). -/
def alSyls : List (TOp × SylCmd) :=
  [(.alNop, .alNop), (.mov, .mov), (.add, .add), (.sub, .sub), (.neg, .neg), (.abs, .abs), (.addc, .addc),
   (.subc, .subc), (.and, .and), (.or, .or), (.xor, .xor), (.andn, .andn), (.not, .not), (.cmp, .cmp), (.tst, .tst),
   (.min, .min), (.max, .max), (.minu, .minu), (.maxu, .maxu), (.shl, .shl), (.shr, .shr), (.sar, .sar),
   (.rol, .rol), (.clz, .clz), (.crcs, .crcs), (.par, .par), (.brev, .brev), (.dadd, .dadd), (.dadc, .dadc),
   (.dsub, .dsub), (.dsbc, .dsbc), (.dsl, .dsl), (.dsr, .dsr), (.d2b, .d2b), (.b2d, .b2d)]

/-- The MU syllables with a word result and a latency of 3 (R303, R316). -/
def mulSyls : List (TOp × SylCmd) :=
  [(.mul, .mul), (.mulu, .mulu), (.fmul, .fmul), (.muCrcs, .muCrcs), (.muPar, .muPar), (.muBrev, .muBrev)]

/-- The syllables of the DIVQ group (R303, R321, R322). -/
def divSyls : List (TOp × SylCmd) :=
  [(.divq, .divq), (.divr, .divr), (.fdiv, .fdiv)]

/-- The accumulator syllables (R317). -/
def accSyls : List (TOp × SylCmd) :=
  [(.mpya, .mpya), (.fmpya, .fmpya), (.mac, .mac), (.msu, .msu), (.fmac, .fmac), (.fmsu, .fmsu), (.clra, .clra),
   (.movta, .movta)]

/-- The nops of the other slots (R303 to R305). -/
def nopSyls : List (TOp × SylCmd) :=
  [(.muNop, .muNop), (.lsNop, .lsNop), (.brNop, .brNop)]

/-- The syllables that leave their result elsewhere: `ext`, the LS and the BR operations (R303 to R305). -/
def lsBrSyls : List (TOp × SylCmd) :=
  [(.ext, .ext), (.ld, .ld), (.st, .st), (.b, .b), (.jr, .jr), (.call, .call), (.loop, .loop), (.loopi, .loopi), (.halt, .halt)]

/-- Every syllable. -/
def allSyls : List (TOp × SylCmd) := alSyls ++ (mulSyls ++ (divSyls ++ (accSyls ++ (nopSyls ++ lsBrSyls))))

/-- A load or store syllable (R304). -/
def RawSyl.access : RawSyl → Bool
  | .slot (some .ld) _ | .slot (some .st) _ => true
  | _ => false

/-- A nop of AL0. -/
def nopSyl : Syl := { slot := .al0 }

/-- A core in no bundle, running or not, with no access, no result in flight and no delay bundle pending (R264, R269, R282,
R305). -/
def Hewer.resting (h : Hewer) : Prop := h.ports = [] ∧ h.flight = [] ∧ h.raw = [] ∧ h.noDelay = true

/-- A core at the start of a bundle, running, with no access, branch, halt or loop pending. -/
def Hewer.calm (h : Hewer) : Prop :=
  h.running = true ∧ h.halting = false ∧ h.cur = {} ∧ h.raw = [] ∧ h.ports = [] ∧ h.branch = [] ∧ h.haltIn = none ∧ h.loops = []

/-- A calm core with no result in flight. -/
def Hewer.fresh (h : Hewer) : Prop := h.calm ∧ h.flight = []

/-- A syllable with what it carries: a defined cell, and an extension exactly where it claims one (R297, R298). -/
def TOp.formed (o : TOp) (y : Syl) (ext : Option Word) : Prop := o.defined y = true ∧ ext.isSome = o.claims y

/-- Syllables of a command: itself and the extension it carries. -/
def sylLen (ext : Option Word) : Nat := if ext.isSome then 2 else 1

/-- A core after one bundle of `n` syllables that only moves on: everything but the fields that the statement gives. -/
def Hewer.moved (g h : Hewer) (ck : CoreKind) (n : Nat) : Prop :=
  g.pc.toNat = (h.pc.toNat + n) % ck.imem ∧ g.cyc = h.cyc + 1 ∧ g.cur = {} ∧ g.raw = [] ∧ g.running = true ∧ g.halting = false
    ∧ g.imem = h.imem ∧ g.ports = h.ports ∧ g.branch = h.branch ∧ g.haltIn = none ∧ g.loops = h.loops

/-- The flags and sticky bits that a syllable's result leaves (R309, R310). -/
def Hewer.marked (g h : Hewer) (y : Syl) (r : Res) : Prop :=
  g.fl = (if nfOf y then h.fl else r.fl.getD h.fl) ∧ g.sat = (h.sat || r.sat) ∧ g.dz = (h.dz || r.dz) ∧ g.illop = h.illop
    ∧ g.illadr = h.illadr

/-! ### Commands of the command line -/

/-- No long command works on what a command would write (R359, R364). -/
abbrev State.idle (s : State) (r : CmdRes) : Prop := s.clear r = .ok ()

/-- A command of channel `ch` on a unit of a power domain may act: the channel serves commands, the domain is on, the unit is
not released and no long command works on it (R348, R359, R364, R377). -/
def State.ready (s : State) (ch : Chan) (u : OwnUnit) (d : Nat) : Prop :=
  s.serves ch ∧ s.on d = true ∧ s.isReleased u = false ∧ s.idle (.unit u)

/-- The command is accepted: it leaves `u`, and its channel gets report lines and `ok` (R358). -/
def answers (i : Instr) (ch : Chan) (s u : State) : Prop := ∃ rep, exec i s = .next (u.respondOk ch rep)

/-- A long command is accepted (R364): it leaves `u`, and its channel is held until it is answered with report lines and
`ok`. -/
def answersLater (i : Instr) (ch : Chan) (s u : State) : Prop :=
  ∃ w rep undo, exec i s = .next (u.setChan ch { u.chan ch with long := some (.work w (rep ++ [bytesOf "ok"]) false undo) })

/-- A time in units of `ns` nanoseconds within a range (R355). -/
def timeIn (lo hi : Int) (ns : Nat) (q : Qty) : CmdM Nat := do within lo hi (← q.time ns)

/-- A number without unit, in units of `1 / num`, within a range (R355). -/
def plainIn (lo hi : Int) (num : Nat) (q : Qty) : CmdM Nat := do within lo hi (← q.plain num 1)

/-- A lane rate in Mb/s within a range (R355). -/
def rateIn (lo hi : Int) (q : Qty) : CmdM Nat := do within lo hi (← q.rate)

/-- The pool has room for a region (R160): at the base of usable DRAM or after an allocation. -/
def State.room (s : State) (n : Nat) : Prop :=
  ∃ o ∈ 0 :: (bootRegions ++ s.pool).map (fun p => poolSize (p.1 + p.2)), poolFits s.pool (o, poolSize n) = true

/-- A table is loaded or filled (R147, R364): a load from a record is a long command. -/
def answersFill (i : Instr) (fl : TblFill) (ch : Chan) (s u : State) : Prop :=
  match fl with
  | .record _ => answersLater i ch s u
  | _ => answers i ch s u

/-- Enabled image streams on the ports of a Face that are enabled, port p's Face (R106). -/
def State.imgCount (s : State) (p : Nat) : Nat :=
  ((List.range 8).filter (fun i => s.flag (Adr.portCtrl (p / 4 * 4 + i / 2)) 0 && s.imgEn (p / 4 * 4 + i / 2) (i % 2))).length

/-- A field has the value that an optional setting gives; without one nothing is said. -/
def State.hasFld (s : State) (a hi lo : Nat) (v : Option Nat) : Prop := ∀ x, v = some x → s.fld a hi lo = x

/-- A flag has the value that an optional setting gives. -/
def State.hasFlag (s : State) (a i : Nat) (v : Option Bool) : Prop := ∀ x, v = some x → s.flag a i = x

/-- A register has the value that an optional setting gives. -/
def State.hasReg (s : State) (a : Nat) (v : Option Nat) : Prop := ∀ x, v = some x → (s.reg a).toNat = x


/-- The settings of a symbology are `x`, those of every other are as before (R240). -/
def State.symIs (u s : State) (i : Nat) (x : SymSet) : Prop := u.fw.sym i = x ∧ ∀ j : Nat, j ≠ i → u.fw.sym j = s.fw.sym j

/-- The geometry shadows of a head hold A0, A1 and A2 in their units (R44, R196). -/
def State.hasShape (s : State) (h : Nat) (g : Int × Int × Int) : Prop :=
  ((s.fld (Adr.riddleGeoA0L h) 15 0 + 65536 * s.fld (Adr.riddleGeoA0H h) 7 0 : Nat) : Int) = g.1 % 2 ^ 24
    ∧ ((s.fld (Adr.riddleGeoA1L h) 15 0 + 65536 * s.fld (Adr.riddleGeoA1H h) 7 0 : Nat) : Int) = g.2.1 % 2 ^ 24
    ∧ (s.reg (Adr.riddleGeoA2 h)).toInt = g.2.2

/-- The RC counters of the Riddle (R221). -/
def riddleCounters : List Nat :=
  [Adr.riddleInqOvf, Adr.riddleNostock, Adr.riddleJoined, Adr.riddleSolo, Adr.riddleDup, Adr.riddleShadow, Adr.riddleRetry,
   Adr.riddleEvict, Adr.riddleExpired, Adr.riddleClipped, Adr.riddleRedo]

/-- Commands that change firmware settings at most, or only report what the foreman keeps (R240, R261, R366, R374). -/
def onlyFirmware : Instr → Bool
  | .cmdSymEnable .. | .cmdSymOrder .. | .cmdSymPolarity .. | .cmdSymErase .. | .cmdSymReserve .. | .cmdSymScans ..
  | .cmdSymCode39 .. | .cmdSymI2of5 .. | .cmdSymGs1 .. | .cmdSymReport .. | .cmdGradeEnable .. | .cmdGradeAperture ..
  | .cmdGradeRefl .. | .cmdGradeTrend .. | .cmdGradeReport .. | .cmdResultText .. | .cmdResult .. | .cmdSession ..
  | .cmdId .. | .cmdIdCl .. | .cmdHelp .. | .cmdEvent .. | .cmdOwnReport .. | .cmdSaveReport .. | .cmdSaveShow ..
  | .cmdCalRecords .. | .cmdSpoilUnits .. | .cmdBootImageCheck .. => true
  | _ => false

/-- The commands that hand units over (R376). -/
def onlyOwn : Instr → Bool
  | .cmdOwnRelease .. | .cmdOwnTake .. => true
  | _ => false

/-- The commands that change the flash (R378, R380, R439, R444). -/
def onlyFlash : Instr → Bool
  | .cmdSave .. | .cmdBootSet .. | .cmdBootImageWrite .. | .cmdBootImagePrefer .. | .cmdCalImport .. | .cmdCalDelete .. => true
  | _ => false

end Machine
end Sys2Proof
end

