-- ==== Sys2Proof/Certificates/Slice0/Obligations.lean ====
section
/-!
DEFINITION. The statements for the provers.
-/
open Sys2Proof Sys2Proof.Machine

/-- With a command waiting, a step is `exec` of the front command on the state with the queue's rest (the model's queue, log 2). -/
def Obligations.StepRunsFront : Prop :=
  ∀ (c : Instr) (rest : List Instr) (s : State), s.pending = c :: rest → step s = exec c { s with pending := rest }

/-- With no command waiting, a step is one tick of the AON clock (the model's choice, log 3): nothing in an unpowered engine, else the long commands whose work is done are answered (log 160), TIME advances by one cycle and the bench cycles of the tick follow, three where the engine is throttled, six otherwise. -/
def Obligations.StepIdleTicks : Prop :=
  ∀ s : State, s.pending = [] →
    (s.powered = false → step s = .next s)
    ∧ (s.powered = true → step s = benchCycles (if s.pw.throttled then 3 else 6) (s.finishLong.setTime (s.time + 1)))

/-- Right after the standby input has become valid: the state is Reset with only PD0 on and cause power-on, every register holds its reset value, DRAM, host memory, the Spoil log and the queue of commands are empty, no unit is released; the invariant of StepKeepsMemoryCanonical holds. The empty memories are the model's choice (log 4), the contents of DRAM and host memory being given nowhere. -/
def Obligations.ResetLeaves : Prop :=
  State.reset.pw.st = .reset ∧ (∀ d, State.reset.on d = decide (d = 0)) ∧ State.reset.pw.cause = 0
    ∧ (∀ a, State.reset.reg a = RegMap.reset a ∧ State.reset.eff a = RegMap.reset a)
    ∧ (∀ o, State.reset.dramByte o = 0 ∧ State.reset.hostByte o = 0)
    ∧ State.reset.spoil.ents = [] ∧ State.reset.pending = [] ∧ State.reset.released = [] ∧ State.reset.memWf = true

/-- From every state in which DRAM and host memory are in their canonical form, a step that answers a next state leaves them so: whatever command runs, and whatever the running hewers do in a tick, equal memories stay equal data. -/
def Obligations.StepKeepsMemoryCanonical : Prop :=
  ∀ s t : State, s.memWf = true → step s = .next t → t.memWf = true


/-- In a domain that is off every register reads 0 to every agent, every write is ignored, and neither changes the engine (the read is remembered as what its reader got): no Spoil entry is written. -/
def Obligations.DomainOffRegisters : Prop :=
  ∀ (ag : Agent) (a : Nat) (v : BitVec 32) (s : State),
    ((isPrivate a = true ∧ s.on (privatePd a) = false)
      ∨ (isPrivate a = false ∧ isDram a = false ∧ ∃ h, RegMap.find a = some h ∧ s.on h.domain = false)) →
    s.busRead ag a = (0, s)
      ∧ exec (.registerWrite ag a v) s = .next s
      ∧ exec (.rcFieldRead ag a) s = .next (s.retW ag 0)
      ∧ exec (.latchingRead ag a) s = .next (s.retW ag 0)

/-- Completion of REGISTER_WRITE: a write by the foreman, or by the host to a released unit, that changes no live-unsafe field of an enabled block reaches a register of a Kerf, a Seam, an encoder, a schedule, a head or GPIO that has no effect of its own, in a block whose values are not undefined; the next state is the one with the register's fields stored from bits 19 to 0. A write by the foreman to the FILL register of a Kerf takes its low eight bits and changes no other register. -/
def Obligations.RegisterWriteStores : Prop :=
  (∀ (ag : Agent) (a : Nat) (v : BitVec 32) (s : State) (h : Hit),
    RegMap.find a = some h → isPrivate a = false → isDram a = false →
    h.blk ∈ [BlockId.kerf, .seam, .enc, .trgc, .trgh, .gpio] →
    a ∉ [Adr.seamCtrl h.i, Adr.encCtrl h.i, Adr.trgcCtrl h.i, Adr.trghCtrl h.i, Adr.gpioEvPush] →
    s.on h.domain = true → (ag = .foreman ∨ (ag = .host ∧ s.mayWrite ag h = true)) →
    s.isUndef h = false → s.liveUnsafe h a (v.setWidth 20) = false →
    exec (.registerWrite ag a v) s = .next (s.store h a (v.setWidth 20)))
  ∧ (∀ (k : Fin 8) (v : BitVec 32) (s : State), s.on 4 = true → s.undefAt (Adr.kerfFill k) = false →
    ∃ (t : State), exec (.registerWrite .foreman (Adr.kerfFill k) v) s = .next t
      ∧ t.fld (Adr.kerfFill k) 7 0 = v.toNat % 256 ∧ ∀ b, b ≠ Adr.kerfFill k → t.reg b = s.reg b)

/-- Completion of RC_FIELD_READ: a read of a register of a port, whose values are not undefined, by the host or the foreman returns what the register shows, and its RC fields then hold their reset values; a register without RC fields is left as it is. -/
def Obligations.ReadClearsRcFields : Prop :=
  ∀ (ag : Agent) (a : Nat) (s : State) (h : Hit),
    RegMap.find a = some h → isPrivate a = false → isDram a = false → h.blk = .port → s.on h.domain = true → s.isUndef h = false →
    (ag = .host ∨ ag = .foreman) →
    exec (.rcFieldRead ag a) s
      = .next ((if h.desc.flds.any (fun f => f.acc == .rc) then s.setReg a (h.desc.clearRc (s.reg a)) else s).retW ag (s.shown h a))

/-- Completion of LATCHING_READ: a read of ENC.e.POS_L by the host or the foreman returns bits 15 to 0 of the count and latches bits 31 to 16 and 47 to 32 for its reader; whatever the channel counts meanwhile, the reader's next reads of POS_M and POS_H return the latched bits. -/
def Obligations.PositionReadLatches : Prop :=
  ∀ (ag : Agent) (e : Fin 4) (s : State), (ag = .host ∨ ag = .foreman) → s.on 0 = true → s.undefAt (Adr.encPosL e) = false →
    ∃ (t : State), exec (.latchingRead ag (Adr.encPosL e)) s = .next t
      ∧ t.rdVal (readerOf ag) = ((s.enc e).count.setWidth 16).setWidth 32
      ∧ (∀ x : Enc,
          ((t.setEnc e x).busRead ag (Adr.encPosM e)).1 = (((s.enc e).count >>> 16).setWidth 16).setWidth 20
          ∧ ((t.setEnc e x).busRead ag (Adr.encPosH e)).1 = (((s.enc e).count >>> 32).setWidth 16).setWidth 20)
      ∧ t.encs = s.encs ∧ t.regs = s.regs

/-- Completion of the supply, reset and release commands (R26, R27, R399 to R403). The standby input leads from unpowered to Reset; losing it leaves the engine unpowered with registers, counts, TIME and the Spoil log lost, and flash as it was where no long command was writing it. Undervoltage outside Reset and Standby, and the reset ball, enter Reset with their cause, PD0 alone on, TIME and the counts kept. A release enters Boot where the main input is valid and is held where it is not; the main input then enters Boot. A trip of PD2 to PD6 sets TRIP and switches the domain off; one of PD1 or PD7 enters Reset with cause 7. -/
def Obligations.SuppliesMoveTheState : Prop :=
  ∀ s : State,
    (s.pw.st = .unpowered → ∃ (t : State), exec .standbyInputValid s = .next t
        ∧ t.pw.st = .reset ∧ t.pw.cause = 0 ∧ t.pw.on = 1 ∧ t.time = s.time ∧ t.encs = s.encs)
    ∧ (∃ (t : State), exec .standbyInputLost s = .next t
        ∧ t.pw.st = .unpowered ∧ t.spoil = {} ∧ t.time = 0 ∧ t.encs = [] ∧ t.regs = []
        ∧ ((∀ ch, (s.chan ch).long = none) → t.flash = s.flash))
    ∧ (∀ mv, s.pw.st ∉ [PState.unpowered, .reset, .standby] → ∃ (t : State), exec (.mainInputUndervoltage mv) s = .next t
        ∧ t.pw.st = .reset ∧ t.pw.cause = 3 ∧ t.pw.on = 1 ∧ t.pw.mainOk = false ∧ t.time = s.time ∧ t.encs = s.encs)
    ∧ (s.powered = true → ∃ (t : State), exec .resetBallAsserted s = .next t
        ∧ t.pw.st = .reset ∧ t.pw.cause = 1 ∧ t.pw.on = 1 ∧ t.time = s.time ∧ t.encs = s.encs ∧ t.spoil.ents = s.spoil.ents)
    ∧ (s.pw.st = .reset → s.pw.mainOk = true → ∃ (t : State), exec .resetRelease s = .next t
        ∧ t.pw.st = .boot ∧ t.pw.on = s.pw.on ||| 0x82 ∧ t.time = s.time)
    ∧ (s.pw.st = .reset → s.pw.mainOk = false → ∃ (t : State), exec .resetRelease s = .next t
        ∧ t.pw.st = .reset ∧ t.pw.on = s.pw.on ∧ ∃ (u : State), exec .mainInputValid t = .next u ∧ u.pw.st = .boot ∧ u.pw.mainOk = true)
    ∧ (∀ (d : Fin 8) (ma : BitVec 16), s.on d = true → 2 ≤ d.val → d.val ≤ 6 → ∃ (t : State), exec (.currentLimitTrip d ma) s = .next t
        ∧ t.on d = false ∧ t.flag Adr.pwrDom (8 + d) = true ∧ t.pw.st = s.pw.st ∧ (∀ a, domainOf a = some d.val → t.reg a = RegMap.reset a))
    ∧ (∀ (d : Fin 8) (ma : BitVec 16), s.on d = true → d = 1 ∨ d = 7 → ∃ (t : State), exec (.currentLimitTrip d ma) s = .next t
        ∧ t.pw.st = .reset ∧ t.pw.cause = 7 ∧ t.pw.on = 1)

/-- A wake event of an enabled source (of an encoder channel, the first edge accepted since the entry began, R57) that arrives while the engine is entering Standby is held: the engine is entering still. When the entry is complete the engine is in Boot, with no step in Standby, where the main input is valid and no sensor reads above 100 °C; otherwise it is in Standby and still holds the event (R401, R411). -/
def Obligations.WakeHeldDuringEntry : Prop :=
  ∀ (src : WakeSrc) (s : State), s.pw.st = .entering → s.wakeEnabled src = true → s.wakeSeen src = true → s.pw.wakeHeld = none →
    ∃ (t : State), exec (.wakeEvent src) s = .next t ∧ t.pw.st = .entering ∧ t.pw.wakeHeld = some (wakeCode src)
      ∧ ∃ (u : State), exec .standbyEntryComplete t = .next u
        ∧ (s.pw.mainOk = true → s.allBelow 100 = true → u.pw.st = .boot)
        ∧ (s.pw.mainOk = false ∨ s.allBelow 100 = false → u.pw.st = .standby ∧ u.pw.wakeHeld = some (wakeCode src))

/-- Completion of the commands of Run, Standby, temperature and reference (R26, R28, R408 to R411, R414, R417, R418). Boot with a usable image and no boot set ends in Run with PD2 to PD6 on and every Spoil entry handled. A drain ends, when nothing is open or after 30 s, entering Standby with cause 5 and PD0 alone on; the entry ends in Standby. An enabled wake event in Standby leads to Boot and stands in WAKESRC, where the main input is valid and no sensor reads above 100 °C. A sample stands in THERM.T.i; the second one above 110 °C enters Standby with cause 4. Throttling ends after 100 ms below the threshold less 5 °C. A lost reference sets REFLOSS and starts the backup clock, a restored one ends the backup clock. -/
def Obligations.RunStandbyAndClocks : Prop :=
  ∀ s : State,
    (s.pw.st = .boot → s.flag Adr.sysBoot 2 = false → s.flash.bootSet = none → ∃ (t : State), exec .runEntry s = .next t
        ∧ t.pw.st = .run ∧ (∀ d, 2 ≤ d → d ≤ 6 → t.on d = true) ∧ ∀ e ∈ t.spoil.ents, e.st = .handled)
    ∧ (s.pw.st = .drain → s.slabOpen = false → s.riddle.table = [] → s.res.staging = [] → ∃ (t : State), exec .standbyDrainEnd s = .next t
        ∧ t.pw.st = .entering ∧ t.pw.cause = 5 ∧ t.pw.on = 1 ∧ t.time = s.time ∧ t.encs = s.encs)
    ∧ (s.pw.st = .drain → 30000 * msT ≤ s.since s.pw.drainAt → ∃ (t : State), exec .standbyDrainTimeout s = .next t
        ∧ t.pw.st = .entering ∧ t.pw.cause = 5 ∧ t.pw.on = 1 ∧ t.res.staging = [])
    ∧ (s.pw.st = .entering → s.pw.wakeHeld = none → exec .standbyEntryComplete s = .next (s.setPw { s.pw with st := .standby }))
    ∧ (∀ src, s.pw.st = .standby → s.wakeEnabled src = true → s.wakeSeen src = true → s.pw.wakeHeld = none → s.pw.mainOk = true → s.allBelow 100 = true →
        ∃ (t : State), exec (.wakeEvent src) s = .next t ∧ t.pw.st = .boot ∧ t.fld Adr.pwrWakesrc 7 0 = (wakeCode src).toNat)
    ∧ (∀ i v, s.powered = true → ∃ (t : State), exec (.temperatureSample i v) s = .next t ∧ t.temp i = v.toInt)
    ∧ (∀ (i : Fin 8) v, s.pw.st = .run → 440 < v.toInt → 1 ≤ SMap.get (fun _ => 0) s.pw.hot i → ∃ (t : State),
        exec (.temperatureSample i v) s = .next t ∧ t.pw.st = .entering ∧ t.pw.cause = 4 ∧ t.pw.on = 1)
    ∧ (∀ t0, s.pw.throttled = true → s.pw.coolSince = some t0 → 100 * msT ≤ s.since t0 →
        exec .throttleRelease s = .next (s.setPw { s.pw with throttled := false }))
    ∧ (s.powered = true → s.pw.refOk = true → ∃ (t : State), exec .refLoss s = .next t
        ∧ t.pw.refOk = false ∧ t.pw.backup = true ∧ t.flag Adr.clkStatus 2 = true ∧ t.time = s.time)
    ∧ (∀ lost, s.powered = true → s.pw.refOk = false → ∃ (t : State), exec (.refRestore lost) s = .next t
        ∧ t.pw = { s.pw with refOk := true, backup := false } ∧ t.regs = s.regs)

/-- Of the supply, reset, standby, wake, temperature and clock commands listed, none moves the engine between states otherwise than R26 and R401 allow: from unpowered only into Reset, from Reset only into Boot, from Boot only into Reset, from Run only into Reset or the entry into Standby, from the entry only into Standby, Boot or Reset, from Standby only into Boot or Reset. A drain counts as Run. -/
def Obligations.StatesMoveAsTabled : Prop :=
  ∀ (c : Instr) (s t : State),
    ((c ∈ [Instr.standbyInputValid, .mainInputValid, .resetBallAsserted, .resetRelease, .throttleRelease, .standbyDrainEnd,
          .standbyDrainTimeout, .standbyEntryComplete, .refLoss])
      ∨ (∃ mv, c = .mainInputUndervoltage mv) ∨ (∃ i v, c = .temperatureSample i v) ∨ (∃ d ma, c = .currentLimitTrip d ma)
      ∨ (∃ w, c = .wakeEvent w) ∨ ∃ l, c = .refRestore l) →
    exec c s = .next t →
    s.pw.st = t.pw.st
      ∨ (s.pw.st, t.pw.st) ∈ [(PState.unpowered, PState.reset), (.reset, .boot), (.boot, .reset), (.run, .reset), (.drain, .reset),
          (.run, .entering), (.drain, .entering), (.entering, .standby), (.entering, .boot), (.entering, .reset), (.standby, .boot),
          (.standby, .reset)]

/-- Completion of the PCI Express commands (R469 to R475). Link-up sets width and speed; link-down, PERST_N, D3hot and a cleared Bus Master Enable stop writes to host memory, the first two reset the configuration space, and none changes a register but LINKDN, which counts link-downs. A configuration write of Command takes Memory Space and Bus Master; identity registers read as R470 says. -/
def Obligations.HostLinkEvents : Prop :=
  (∀ (s : State) (w sp : Nat), s.on 1 = true → w ∈ [1, 2, 4, 8] → 1 ≤ sp → sp ≤ 5 → ∃ (t : State), exec (.pcieLinkUp w sp) s = .next t
      ∧ t.pcie.up = true ∧ t.pcie.width = w ∧ t.pcie.speed = sp ∧ t.regs = s.regs)
  ∧ (∀ s : State, s.on 1 = true → s.pcie.up = true →
      (∃ (t : State), exec .linkDown s = .next t ∧ t.hostCan = false ∧ t.pcie.cfg = [] ∧ t.pcie.bme = false
        ∧ (t.reg Adr.pcieLinkdn).toNat = min ((s.reg Adr.pcieLinkdn).toNat + 1) 0xFFFFF
        ∧ (∀ a, a ≠ Adr.pcieLinkdn → t.reg a = s.reg a) ∧ t.hostMem = s.hostMem)
      ∧ (∃ (t : State), exec .perstAssert s = .next t ∧ t.hostCan = false ∧ t.pcie.cfg = [] ∧ t.pw = s.pw ∧ t.regs = s.regs)
      ∧ (∀ d3, ∃ (t : State), exec (.busMasterDisable d3) s = .next t ∧ t.hostCan = false ∧ t.pcie.cfg = s.pcie.cfg ∧ t.regs = s.regs)
      ∧ (∀ v : BitVec 32, ∃ (t : State), exec (.configRequest true 1 0xF v) s = .next t
        ∧ t.pcie.mse = v.toNat.testBit 1 ∧ t.pcie.bme = v.toNat.testBit 2 ∧ t.pcie.up = true ∧ t.regs = s.regs)
      ∧ (∀ r be v, s.pcie.cfg = [] → ∃ (t : State), exec (.configRequest false r be v) s = .next t ∧ t.pcie.ur = false
        ∧ t.pcie.data.length = 4 ∧ t.regs = s.regs
        ∧ (r = 0 → leNat t.pcie.data = 0x16201E73) ∧ (r = 2 → leNat t.pcie.data = 0x11800000)
        ∧ (r = 11 → leNat t.pcie.data = 0x00011E73)))

/-- Completion of BAR0_REQUEST and BAR2_REQUEST (R471 to R473). An aligned doubleword write of BAR0 with all byte enables is the host's REGISTER_WRITE at that address, such a read completes with what the host's register read returns; any other form is discarded, or completed with Unsupported Request, and reaches no register. A BAR2 write stores its bytes to DRAM and to nothing else, a BAR2 read returns the bytes stored there; beyond usable DRAM a write is discarded and a read completes with Unsupported Request; a read that fails twice is poisoned and counted. -/
def Obligations.HostWindows : Prop :=
  ∀ s : State, s.on 1 = true → s.pcie.up = true → s.pcie.mse = true → s.pcie.d3 = false →
    (∀ (a : Nat) (v : BitVec 32), a % 4 = 0 → a < 0x10000000 →
        exec (.bar0Request true a 4 0xF v) s = exec (.registerWrite .host a v) s
        ∧ ∃ (t : State), exec (.bar0Request false a 4 0xF v) s = .next t ∧ t.pcie.ur = false
          ∧ t.pcie.data = leBytes ((s.busRead .host a).1).toNat 4 ∧ t.regs = (s.busRead .host a).2.regs)
    ∧ (∀ (a n : Nat) (be : BitVec 4) (v : BitVec 32), (a % 4 ≠ 0 ∨ n ≠ 4 ∨ be ≠ 0xF) →
        exec (.bar0Request true a n be v) s = .next s ∧ exec (.bar0Request false a n be v) s = .next s.completeUr)
    ∧ (∀ (o : Nat) (d : List Byte) (ue : Bool), s.on 7 = true → o + d.length ≤ dramSize →
        ∃ (t : State), exec (.bar2Request true o d ue) s = .next t ∧ t.dramRun o d.length = d ∧ t.regs = s.regs ∧ t.pcie = s.pcie
          ∧ ∀ b, (b < o ∨ o + d.length ≤ b) → t.dramByte b = s.dramByte b)
    ∧ (∀ (o : Nat) (d : List Byte), o < dramSize → o + d.length ≤ dramSize →
        (∃ (t : State), exec (.bar2Request false o d false) s = .next t ∧ t.pcie.data = s.dramRun o d.length ∧ t.pcie.ep = false ∧ t.dram = s.dram)
        ∧ ∃ (t : State), exec (.bar2Request false o d true) s = .next t ∧ t.pcie.ep = true
          ∧ (t.reg Adr.pciePoison).toNat = min ((s.reg Adr.pciePoison).toNat + 1) 0xFFFFF)
    ∧ (∀ (o : Nat) (d : List Byte) (ue : Bool), dramSize ≤ o →
        exec (.bar2Request true o d ue) s = .next s ∧ exec (.bar2Request false o d ue) s = .next s.completeUr)

/-- Completion of the ring commands (R475, R480 to R482). When writing host memory becomes possible again, and when the foreman enables the mirror block while it is possible, every word of the mirror block holds its current value: the result ring's producer at offset 0, the payload ring's at 4, zero from 8 to 0x3C, stream ring r's producer at 0x40 + 4r. A foreman's write that takes RES_EN, or a stream ring's EN, from 0 to 1 sets the producers and consumers to 0, and one that clears the enable leaves them. A host's write of a consumer register is taken unless it would leave more outstanding than the ring holds (for the payload ring: unless it is the ring's size or more); then it sets CFGERR and leaves the register as it was. -/
def Obligations.RingsEnabledAndConsumed : Prop :=
  ∀ s : State, s.on 1 = true →
    (s.pcie.up = true → s.pcie.bme = true → s.pcie.stale = true → s.flag Adr.pcieCtrl 1 = true →
      ∃ (t : State), exec .hostWriteResume s = .next t ∧ t.pcie.stale = false ∧ t.hostCan = true ∧ t.regs = s.regs
        ∧ ∀ i : Fin 64, t.hostRun (t.hostBase Adr.pcieMirBaseL Adr.pcieMirBaseH + 4 * i) 4 = leBytes (s.mirrorWord i).toNat 4)
    ∧ (s.flag Adr.pcieCtrl 1 = false → s.hostCan = true → s.undefAt Adr.pcieCtrl = false →
      ∃ (t : State), exec (.mirrorEnable .foreman) s = .next t ∧ t.flag Adr.pcieCtrl 1 = true
        ∧ ∀ i : Fin 64, t.hostRun (t.hostBase Adr.pcieMirBaseL Adr.pcieMirBaseH + 4 * i) 4 = leBytes (s.mirrorWord i).toNat 4)
    ∧ (s.undefAt Adr.pcieCtrl = false →
      (s.flag Adr.pcieCtrl 0 = false → ∃ (t : State), exec (.resultRingEnable .foreman true) s = .next t
        ∧ t.flag Adr.pcieCtrl 0 = true ∧ t.reg Adr.pcieResProd = 0 ∧ t.reg Adr.pcieResCons = 0
        ∧ t.reg Adr.pciePayProd = 0 ∧ t.reg Adr.pciePayCons = 0)
      ∧ ∃ (t : State), exec (.resultRingEnable .foreman false) s = .next t
        ∧ t.flag Adr.pcieCtrl 0 = false ∧ ∀ a, a ≠ Adr.pcieCtrl → t.reg a = s.reg a)
    ∧ (∀ r : Fin 48, s.undefAt (Adr.pcieStreamCtrlEn r) = false →
      (s.ringEn r = false → ∃ (t : State), exec (.streamRingEnable .foreman r true) s = .next t
        ∧ t.ringEn r = true ∧ t.reg (Adr.pcieStreamProd r) = 0 ∧ t.reg (Adr.pcieStreamCons r) = 0)
      ∧ ∃ (t : State), exec (.streamRingEnable .foreman r false) s = .next t
        ∧ t.ringEn r = false ∧ ∀ a, a ≠ Adr.pcieStreamCtrlEn r → t.reg a = s.reg a)
    ∧ (∀ v : Word, ((s.reg Adr.pcieResProd - v).toNat ≤ s.resN → exec (.resConsWrite .host v) s = .next (s.setReg Adr.pcieResCons v))
        ∧ (s.resN < (s.reg Adr.pcieResProd - v).toNat →
            exec (.resConsWrite .host v) s = .next (s.setFlag Adr.pcieStatus 11 true)))
    ∧ (∀ v : Word, (v.toNat < s.payUnits → exec (.payConsWrite .host v) s = .next (s.setReg Adr.pciePayCons v))
        ∧ (s.payUnits ≤ v.toNat → exec (.payConsWrite .host v) s = .next (s.setFlag Adr.pcieStatus 11 true)))
    ∧ (∀ (r : Fin 48) (v : Word),
        ((s.reg (Adr.pcieStreamProd r) - v).toNat ≤ s.ringUnits r →
          exec (.streamConsWrite .host r v) s = .next (s.setReg (Adr.pcieStreamCons r) v))
        ∧ (s.ringUnits r < (s.reg (Adr.pcieStreamProd r) - v).toNat →
          exec (.streamConsWrite .host r v) s = .next (s.setFlag Adr.pcieStatus 11 true)))

/-- Completion of ENC_CANDIDATE_EDGE (R52, R54, R55). In step/direction mode an edge of ENCe_A that EDGE selects, MIN_EDGE after the last accepted one, moves the count by one, up where the level of ENCe_B is high, swapped by INV. In up/down mode an edge of A counts up and one of B down. The edge sets MOVING and is the last accepted one. An edge too soon, and two edges in one sample, are rejected: the count stays, GLITCH_CNT counts them. An edge that the mode or EDGE does not select changes nothing. -/
def Obligations.CountEdges : Prop :=
  ∀ (e : Fin 4) (a b : Option Bool) (lvl : Bool) (s : State), s.powered = true → s.encEn e = true →
    let sel := s.fld (Adr.encCtrl e) 4 3
    let mode := s.fld (Adr.encCtrl e) 2 1
    let inv := s.flag (Adr.encCtrl e) 5
    (mode = 0 → a.any (edgeSelected sel) = true → s.edgeOk e (s.enc e).lastEdge = true →
      ∃ (t : State), exec (.encCandidateEdge e a b lvl) s = .next t
        ∧ (t.enc e).count = (if lvl != inv then (s.enc e).count + 1 else (s.enc e).count - 1)
        ∧ (t.enc e).lastEdge = some s.time ∧ t.flag (Adr.encStatus e) 0 = true ∧ ∀ j, j ≠ e.val → t.enc j = s.enc j)
    ∧ (mode = 1 → a.any (edgeSelected sel) = true → b.any (edgeSelected sel) = false → s.edgeOk e (s.enc e).lastEdge = true →
      ∃ (t : State), exec (.encCandidateEdge e a b lvl) s = .next t
        ∧ (t.enc e).count = if inv then (s.enc e).count - 1 else (s.enc e).count + 1)
    ∧ (mode = 1 → a.any (edgeSelected sel) = false → b.any (edgeSelected sel) = true → s.edgeOk e (s.enc e).lastEdge = true →
      ∃ (t : State), exec (.encCandidateEdge e a b lvl) s = .next t
        ∧ (t.enc e).count = if inv then (s.enc e).count + 1 else (s.enc e).count - 1)
    ∧ ((a.any (edgeSelected sel) != (decide (mode = 1) && b.any (edgeSelected sel))) = true → s.edgeOk e (s.enc e).lastEdge = false →
      ∃ (t : State), exec (.encCandidateEdge e a b lvl) s = .next t ∧ (t.enc e).count = (s.enc e).count
        ∧ (t.enc e).lastEdge = (s.enc e).lastEdge
        ∧ (t.reg (Adr.encGlitchCnt e)).toNat = min ((s.reg (Adr.encGlitchCnt e)).toNat + 1) 0xFFFFF)
    ∧ (mode = 1 → a.any (edgeSelected sel) = true → b.any (edgeSelected sel) = true →
      ∃ (t : State), exec (.encCandidateEdge e a b lvl) s = .next t ∧ (t.enc e).count = (s.enc e).count
        ∧ (t.enc e).lastEdge = (s.enc e).lastEdge
        ∧ (t.reg (Adr.encGlitchCnt e)).toNat = min ((s.reg (Adr.encGlitchCnt e)).toNat + 2) 0xFFFFF)
    ∧ (a.any (edgeSelected sel) = false → (mode = 1 → b.any (edgeSelected sel) = false) →
      exec (.encCandidateEdge e a b lvl) s = .next s)

/-- Completion of SPEED_WINDOW_CLOSE, STANDSTILL and ENC_PRESET (R58, R59, R65). A window that has lasted WINDOW µs closes: SPEED.MAG takes the edges accepted in it, saturated, or 0 in standstill; WINSEQ advances; the next window opens with none. Standstill clears MOVING and SPEED. A preset loads the count and clears REF, or, with the channel's schedule on or a locked engine's SYNC channel, is refused with CFGERR. None of them moves another channel's count. -/
def Obligations.WindowsStandstillPresets : Prop :=
  ∀ (e : Fin 4) (s : State),
    (∀ lvl, s.powered = true → (s.eff (Adr.encWindow e)).toNat * usT ≤ s.since (s.enc e).winStart →
      ∃ (t : State), exec (.speedWindowClose e lvl) s = .next t
        ∧ t.fld (Adr.encSpeed e) 18 0 = (if s.flag (Adr.encStatus e) 0 then min (s.enc e).accepted 524287 else 0)
        ∧ t.fld (Adr.encStatus e) 15 8 = (s.fld (Adr.encStatus e) 15 8 + 1) % 256
        ∧ (t.enc e).accepted = 0 ∧ (t.enc e).rejected = 0 ∧ (t.enc e).count = (s.enc e).count
        ∧ (t.enc e).winStart = (s.enc e).winStart + BitVec.ofNat 64 ((s.eff (Adr.encWindow e)).toNat * usT)
        ∧ t.eff (Adr.encWindow e) = s.reg (Adr.encWindow e) ∧ ∀ j, j ≠ e.val → t.enc j = s.enc j)
    ∧ (∀ t0, s.powered = true → s.flag (Adr.encStatus e) 0 = true → (s.enc e).lastEdge = some t0 →
        (s.reg (Adr.encStandstill e)).toNat * usT ≤ s.since t0 →
      ∃ (t : State), exec (.standstill e) s = .next t
        ∧ t.flag (Adr.encStatus e) 0 = false ∧ t.reg (Adr.encSpeed e) = 0 ∧ t.encs = s.encs)
    ∧ (∀ ag, s.writable ag (Adr.encCtrl e) (putBits (s.reg (Adr.encCtrl e)) 9 9 1) = true →
      ∃ (t : State), exec (.encPreset ag e) s = .next t
        ∧ (s.presetBarred e = false →
            (t.enc e).count = s.reg48 (Adr.encPresetL e) (Adr.encPresetM e) (Adr.encPresetH e) ∧ t.flag (Adr.encStatus e) 2 = false)
        ∧ (s.presetBarred e = true → t.encs = s.encs ∧ t.flag (Adr.encStatus e) 4 = true)
        ∧ ∀ j, j ≠ e.val → t.enc j = s.enc j)

/-- Completion of INDEX_EDGE (R61, R62). An index edge of the selected polarity, far enough from the one before, captures the count. Without a period or a reference the capture becomes the reference. Otherwise the deviation from the expected count is reported in IDX_DEV, saturated; the count moves, by the deviation, only where it is within the tolerance and the mode is SNAP; the reference is then the expected count, else the capture; slips, snaps and faults are counted. -/
def Obligations.IndexEdges : Prop :=
  ∀ (e : Fin 4) (s : State), s.powered = true → s.encEn e = true → s.edgeOk e (s.enc e).lastIdx = true →
    let c := (s.enc e).count
    let period := (s.eff (Adr.encIndexPeriod e)).setWidth 48
    let expect := if s.flag (Adr.encStatus e) 1 then (s.enc e).ref - period else (s.enc e).ref + period
    let dev := diff48 c expect
    let tol := (s.eff (Adr.encIndexTol e)).toNat % 65536
    ∃ (t : State), exec (.indexEdge e (!s.flag (Adr.encCtrl e) 6)) s = .next t
      ∧ (t.enc e).idx = c ∧ (t.enc e).lastIdx = some s.time
      ∧ (period = 0 ∨ s.flag (Adr.encStatus e) 2 = false →
          (t.enc e).count = c ∧ (t.enc e).ref = c ∧ t.flag (Adr.encStatus e) 2 = true)
      ∧ (period ≠ 0 → s.flag (Adr.encStatus e) 2 = true →
          t.reg (Adr.encIdxDev e) = BitVec.ofInt 20 (satInt dev (-524287) 524287)
          ∧ (dev = 0 → (t.enc e).count = c ∧ (t.enc e).ref = c)
          ∧ (dev ≠ 0 → dev.natAbs ≤ tol → s.flag (Adr.encCtrl e) 7 = false → (t.enc e).count = c ∧ (t.enc e).ref = c
              ∧ (t.reg (Adr.encSlipCnt e)).toNat = min ((s.reg (Adr.encSlipCnt e)).toNat + 1) 0xFFFFF)
          ∧ (dev ≠ 0 → dev.natAbs ≤ tol → s.flag (Adr.encCtrl e) 7 = true → (t.enc e).count = expect ∧ (t.enc e).ref = expect
              ∧ (t.reg (Adr.encSnapCnt e)).toNat = min ((s.reg (Adr.encSnapCnt e)).toNat + 1) 0xFFFFF
              ∧ ∀ h : Fin 16, s.headChan h = e → (t.head h).snap = true)
          ∧ (tol < dev.natAbs → (t.enc e).count = c ∧ (t.enc e).ref = c
              ∧ (t.reg (Adr.encIfaultCnt e)).toNat = min ((s.reg (Adr.encIfaultCnt e)).toNat + 1) 0xFFFFF))

/-- Completion of the schedule, head and GPIO commands (R68, R73, R80, R81). A schedule enabled starts at X0, with the last reached point one before the starting k, and its heads keep their place in their slab; disabled, it leaves every head's slab as it was. A head enabled starts a slab at INDEX 0; disabled, its EN is 0 and every head keeps its place. A pulse of TRIG ends when its width has passed (R88). A push of a staged event ahead of its channel's count waits behind the others; with 32 waiting it is refused and counted; late, it is counted and discarded with LATE 0 and changes its pin at once with LATE 1, the queue as before. A flush empties the queue and changes no pin. A pulse whose width has passed returns the output latch to what it was. -/
def Obligations.SchedulesHeadsAndGpio : Prop :=
  ∀ s : State,
    (∀ (ag : Agent) (c : Fin 4), s.schedOn c = false →
      s.writable ag (Adr.trgcCtrl c) (putBits (s.reg (Adr.trgcCtrl c)) 0 0 1) = true →
      ∃ (t : State), exec (.scheduleEnable ag c) s = .next t ∧ t.schedOn c = true
        ∧ (t.sched c).k = (t.sched c).k0 - 1 ∧ (t.sched c).any = false
        ∧ (s.flag (Adr.trgcCtrl c) 2 = true → (t.sched c).x0 = fix48 ((s.enc c).count + 1) ∧ (t.sched c).k0 = 0)
        ∧ (∀ h, (t.head h).index = (s.head h).index ∧ (t.head h).slabLen = (s.head h).slabLen) ∧ t.encs = s.encs)
    ∧ (∀ (ag : Agent) (c : Fin 4), s.writable ag (Adr.trgcCtrl c) (putBits (s.reg (Adr.trgcCtrl c)) 0 0 0) = true →
      ∃ (t : State), exec (.scheduleDisable ag c) s = .next t ∧ t.schedOn c = false ∧ t.heads = s.heads ∧ t.encs = s.encs)
    ∧ (∀ (ag : Agent) (h : Fin 16), s.headEn h = false →
      s.writable ag (Adr.trghCtrl h) (putBits (s.reg (Adr.trghCtrl h)) 0 0 1) = true →
      ∃ (t : State), exec (.headTriggerEnable ag h) s = .next t ∧ t.headEn h = true ∧ (t.head h).index = 0
        ∧ (t.head h).tags = (s.head h).tags ∧ t.encs = s.encs)
    ∧ (∀ (ag : Agent) (h : Fin 16), s.writable ag (Adr.trghCtrl h) (putBits (s.reg (Adr.trghCtrl h)) 0 0 0) = true →
      ∃ (t : State), exec (.headTriggerDisable ag h) s = .next t ∧ t.headEn h = false ∧ t.heads = s.heads)
    ∧ (∀ h : Fin 16, (s.head h).trig = true → ((s.head h).fall - s.time).toInt ≤ 0 →
      ∃ (t : State), exec (.exposureEnd h) s = .next t ∧ t.head h = { s.head h with trig := false } ∧ t.regs = s.regs)
    ∧ (∀ ag, s.writable ag Adr.gpioEvPush 1 = true →
      (s.gpio.pend.length < 32 → 0 < diff48 s.gpioStaged.pos (s.enc s.gpioStaged.chan.toNat).count →
        exec (.gpioEvPush ag) s = .next (s.setGpio { s.gpio with pend := s.gpio.pend ++ [s.gpioStaged] }))
      ∧ (32 ≤ s.gpio.pend.length → exec (.gpioEvPush ag) s = .next (s.incr Adr.gpioEvDrop))
      ∧ (s.gpio.pend.length < 32 → diff48 s.gpioStaged.pos (s.enc s.gpioStaged.chan.toNat).count ≤ 0 →
          s.flag Adr.gpioEvCtrl 7 = false → exec (.gpioEvPush ag) s = .next (s.incr Adr.gpioEvDrop))
      ∧ (s.gpio.pend.length < 32 → diff48 s.gpioStaged.pos (s.enc s.gpioStaged.chan.toNat).count ≤ 0 →
          s.flag Adr.gpioEvCtrl 7 = true → ∃ (t : State), exec (.gpioEvPush ag) s = .next t ∧ t.gpio.pend = s.gpio.pend
            ∧ t.flag Adr.gpioOut s.gpioStaged.pin.toNat = decide (s.gpioStaged.action ≠ 1)
            ∧ t.reg Adr.gpioEvDrop = s.reg Adr.gpioEvDrop))
    ∧ (∀ ag, s.writable ag Adr.gpioEvPush 2 = true →
      exec (.gpioEvFlush ag) s = .next (s.setGpio { s.gpio with pend := [] }))
    ∧ (∀ (pin : Fin 8) stop prev, SMap.get noPulse s.gpio.pulses pin = some (stop, prev) → (stop - s.time).toInt ≤ 0 →
      ∃ (t : State), exec (.gpioPulseEnd pin) s = .next t ∧ t.flag Adr.gpioOut pin = prev
        ∧ SMap.get noPulse t.gpio.pulses pin = none ∧ t.gpio.pend = s.gpio.pend)

/-- Completion of the master's SYNC commands (R75 to R77). On LOCK a master with no LOOP outstanding sends a LOOP with the next number; its return in less than 20 µs stores T_ring in RING and sends LATENCY and STATE; a word with an error, or 20 µs without the return, sets LOSS with cause RING, leaves RING and sends nothing. IDLE is sent after 100 µs in which nothing was sent; with RESTATE, once a sequence has completed, STATE follows 100 ms after the last. -/
def Obligations.SyncMaster : Prop :=
  ∀ s : State, s.syncMaster = true →
    (∀ ag, s.writable ag Adr.syncCtrl (putBits (s.reg Adr.syncCtrl) 6 6 1) = true → s.sync.loop = none →
      ∃ (t : State), exec (.syncLock ag) s = .next t
        ∧ t.sync.out = s.sync.out ++ [0x6000 ||| s.sync.seq.setWidth 16] ∧ t.sync.loop = some (s.sync.seq, s.time)
        ∧ t.sync.seq = s.sync.seq + 1)
    ∧ (∀ n t0, s.sync.loop = some (n, t0) → s.since t0 < 4000 →
        ∃ (t : State), exec (.syncLoopReturn (0x6000 ||| n.setWidth 16) false) s = .next t
          ∧ t.fld Adr.syncStatus 15 4 = s.since t0 ∧ t.sync.loop = none ∧ t.sync.done = true
          ∧ t.sync.out = s.sync.out ++ [0x8000 ||| BitVec.ofNat 16 (hopOf (s.since t0) (s.fld Adr.syncCtrl 5 4))] ++ s.stateWords)
    ∧ (∀ n t0 w, s.sync.loop = some (n, t0) → ∃ (t : State), exec (.syncLoopReturn w true) s = .next t
          ∧ t.flag Adr.syncStatus 1 = true ∧ t.fld Adr.syncStatus 19 16 = 6 ∧ t.sync.loop = none ∧ t.sync.out = s.sync.out
          ∧ t.fld Adr.syncStatus 15 4 = s.fld Adr.syncStatus 15 4)
    ∧ (∀ n t0, s.sync.loop = some (n, t0) → 4000 ≤ s.since t0 → ∃ (t : State), exec .syncLoopTimeout s = .next t
          ∧ t.flag Adr.syncStatus 1 = true ∧ t.fld Adr.syncStatus 19 16 = 6 ∧ t.sync.loop = none ∧ t.sync.out = s.sync.out
          ∧ t.fld Adr.syncStatus 15 4 = s.fld Adr.syncStatus 15 4)
    ∧ (20000 ≤ s.since s.sync.lastSent → exec .syncIdleTimer s = .next (s.syncSend [0]))
    ∧ (s.flag Adr.syncCtrl 10 = true → s.sync.done = true → 20000000 ≤ s.since s.sync.lastState →
        ∃ (t : State), exec .syncRestateTimer s = .next t ∧ t.sync.out = s.sync.out ++ s.stateWords ∧ t.sync.lastState = s.time)

/-- Completion of the slave's SYNC commands (R75, R76, R79). A slave repeats every word. LATENCY sets its hop. A STATE with at most 63 edges within the slave's latency before its start bit sets the count to the master's, moved by those edges and by the later ones, and TIME to the master's advanced by the latency and by the time since; without such edges it sets k. With more than 63 edges it leaves count and TIME and records EDGES. An agreeing TICK after the STATE locks the slave: the first one, where no sequencer is enabled on the channel, or a later one. A word error or a reserved type, and 200 µs of silence, end its lock with LOSS and the cause. -/
def Obligations.SyncSlave : Prop :=
  ∀ s : State, s.syncSlave = true →
    (∀ hop, ∃ (t : State), exec (.syncLatencyReceived hop) s = .next t ∧ t.sync.hop = hop
        ∧ t.sync.out = s.sync.out ++ [0x8000 ||| hop.setWidth 16])
    ∧ exec .syncIdleReceived s = .next (s.syncHeard [0])
    ∧ (∀ n : BitVec 13, exec (.syncLoopReceived n) s = .next (s.syncHeard [0x6000 ||| n.setWidth 16]))
    ∧ (∀ cnt k tm n,
        ((s.edgesBefore s.syncChan (s.time - BitVec.ofNat 64 n) s.syncLatency).length ≤ 63 →
          ∃ (t : State), exec (.syncStateReceived cnt k tm n) s = .next t
            ∧ (t.enc s.syncChan).count = (s.stateEdges n).foldl (fun c fwd => if fwd then c + 1 else c - 1) cnt
            ∧ (s.stateEdges n = [] → (t.sched s.syncChan).k = k)
            ∧ t.tm = tm + BitVec.ofNat 64 (s.syncLatency + n) ∧ t.sync.await = true)
        ∧ (63 < (s.edgesBefore s.syncChan (s.time - BitVec.ofNat 64 n) s.syncLatency).length →
          ∃ (t : State), exec (.syncStateReceived cnt k tm n) s = .next t ∧ t.encs = s.encs ∧ t.tm = s.tm
            ∧ t.fld Adr.syncStatus 19 16 = 5 ∧ t.syncLocked = s.syncLocked))
    ∧ (∀ step k7, s.sync.await = true → s.tickAgrees step.toNat k7 = true → s.seqsFit step.toNat = true →
        (s.sync.fresh = false ∨ ∀ q : Fin 4, s.seqEn q = true → s.seqChan q ≠ s.syncChan) →
        ∃ (t : State), exec (.syncTickReceived step k7) s = .next t ∧ t.syncLocked = true ∧ t.sync.await = false)
    ∧ (∀ bad, bad.err = true ∨ 5 ≤ bad.w.toNat / 2 ^ 13 →
        ∃ (t : State), exec (.syncWordError bad) s = .next t ∧ t.sync.out = s.sync.out ++ [bad.w] ∧ t.syncLocked = false
          ∧ (s.syncLocked = true → t.flag Adr.syncStatus 1 = true ∧ t.fld Adr.syncStatus 19 16 = if bad.err then 1 else 2))
    ∧ (s.syncLocked = true → 40000 ≤ s.since s.sync.lastRecv → ∃ (t : State), exec .syncSilence s = .next t
        ∧ t.syncLocked = false ∧ t.flag Adr.syncStatus 1 = true ∧ t.fld Adr.syncStatus 19 16 = 4)

/-- Completion of the sequencer commands (R92, R93, R98). While the schedule of its channel does not run and no change waits, enabling a sequencer puts a record of the bank in BANK in force with that bank's length, disabling it the fixed state, a bank written while it is enabled that bank's record, and no change waits afterwards. While the schedule runs, the same records hold from the change point on: for EN the least index ahead of every pointer, for BANK the change point that AT and the cycle give. While a change waits, a write of EN or BANK is held and changes no record. A new channel, written while EN is 0, drops the records. -/
def Obligations.SequencerWrites : Prop :=
  ∀ (ag : Agent) (q : Fin 4) (s : State),
    (s.seqEn q = false → s.writable ag (Adr.seqCtrl q) (putBits (s.reg (Adr.seqCtrl q)) 0 0 1) = true →
      ∃ (t : State), exec (.seqEnable ag q) s = .next t ∧ t.seqEn q = true
        ∧ ((s.seq q).swap = true → (t.seq q).newer = (s.seq q).newer ∧ (t.seq q).older = (s.seq q).older ∧ (t.seq q).held.isSome = true)
        ∧ ((s.seq q).swap = false → (s.seq q).held = none → ∃ k, (t.seq q).newer = some (.table k (s.seqBank q) (s.seqLen q (s.seqBank q)))
            ∧ (s.schedOn (s.seqChan q) = true → k = s.seqFloor q ∧ (t.seq q).kc = k)
            ∧ (s.schedOn (s.seqChan q) = false → (t.seq q).swap = false ∧ (t.seq q).older = none)))
    ∧ (s.seqEn q = true → s.writable ag (Adr.seqCtrl q) (putBits (s.reg (Adr.seqCtrl q)) 0 0 0) = true →
      ∃ (t : State), exec (.seqDisable ag q) s = .next t ∧ t.seqEn q = false
        ∧ ((s.seq q).swap = true → (t.seq q).newer = (s.seq q).newer ∧ (t.seq q).older = (s.seq q).older ∧ (t.seq q).held.isSome = true)
        ∧ ((s.seq q).swap = false → (s.seq q).held = none → (t.seq q).newer = some .fixed
            ∧ (s.schedOn (s.seqChan q) = true → (t.seq q).kc = s.seqFloor q)
            ∧ (s.schedOn (s.seqChan q) = false → (t.seq q).swap = false ∧ (t.seq q).older = none)))
    ∧ (∀ b, s.seqEn q = true → s.seqBank q ≠ b →
      s.writable ag (Adr.seqCtrl q) (putBits (s.reg (Adr.seqCtrl q)) 3 3 (b2n b)) = true →
      ∃ (t : State), exec (.seqBankWrite ag q b) s = .next t ∧ t.seqBank q = b
        ∧ ((s.seq q).swap = true → (t.seq q).newer = (s.seq q).newer ∧ (t.seq q).older = (s.seq q).older ∧ (t.seq q).held.isSome = true)
        ∧ ((s.seq q).swap = false → (s.seq q).held = none → ∃ k, (t.seq q).newer = some (.table k b (s.seqLen q b))
            ∧ (s.schedOn (s.seqChan q) = true → k = s.seqChangePoint q true ∧ (t.seq q).kc = k)
            ∧ (s.schedOn (s.seqChan q) = false → (t.seq q).swap = false ∧ (t.seq q).older = none)))
    ∧ (∀ c : Fin 4, s.seqChan q ≠ c → s.seqEn q = false →
      s.writable ag (Adr.seqCtrl q) (putBits (s.reg (Adr.seqCtrl q)) 2 1 c) = true →
      ∃ (t : State), exec (.seqChanWrite ag q c) s = .next t ∧ t.seqChan q = c ∧ (t.seq q).newer = none ∧ (t.seq q).older = none
        ∧ (t.seq q).swap = false)

/-- Completion of the packet and watchdog commands (R106, R110 to R115, R119). A Frame Start of the channel that the filter of one enabled stream names, where the stream's configuration is not refused, opens a slab of that stream with no line and no anchor at this TIME, with the width and FILL as last written; one that no stream names is counted in PKT_IGN. An image line of an anchored slab that is not full takes the stream's oldest tag where its TRIGNUM is the one expected. An embedded line of an open slab without anchor anchors it by its counter, where the oldest tag has the TRIGNUM that the counter gives. A Frame End, or the watchdog, closes the slab and records lines and outcome in LAST. The Frame Start watchdog passes a tag that is older than TMO_FS, counts it in TAG_DISC, and records TIMEOUT for one with INDEX 0. -/
def Obligations.SlabsOpenAndClose : Prop :=
  ∀ (p : Fin 16) (s : State), s.portOn p = true →
    (∀ (st : Fin 2) (hdr : FsHdr), s.filtVc p st = hdr.vc.toNat → s.filtVc p (1 - st.val) ≠ hdr.vc.toNat →
      s.flag (Adr.portCtrl p) (4 + st) = true → s.imgRefused p st hdr.vc.toNat = false →
      ∃ (t : State), exec (.frameStart p hdr) s = .next t ∧ (t.pst p st).act = true ∧ (t.pst p st).open_ = true ∧ (t.pst p st).r = 0
        ∧ (t.pst p st).anchor = none ∧ (t.pst p st).dead = false ∧ (t.pst p st).tfs = s.tm
        ∧ (t.pst p st).fill = s.reg (Adr.portFill p) ∧ t.actWidth p st = s.fld (Adr.portWidth p st) 13 0 + 1)
    ∧ (∀ hdr : FsHdr, (∀ st : Fin 2, s.filtVc p st ≠ hdr.vc.toNat ∧ (s.strAct p st && s.actVc p st == hdr.vc.toNat) = false) →
      ∃ (t : State), exec (.frameStart p hdr) s = .next t ∧ t.ports = s.ports
        ∧ (t.reg (Adr.portPktIgn p)).toNat = min ((s.reg (Adr.portPktIgn p)).toNat + 1) 0xFFFFF)
    ∧ (∀ (st : Fin 2) (vc : BitVec 4) (dt : BitVec 6) bytes crcBad eccCor (a e : TagEnt),
      (s.embOn p && s.efld (Adr.portEmbFilt p) 3 0 == vc.toNat && s.efld (Adr.portEmbFilt p) 9 4 == dt.toNat) = false →
      (s.strAct p st && s.actVc p st == vc.toNat && s.actDt p st == dt.toNat) = true →
      (s.strAct p (1 - st.val) && s.actVc p (1 - st.val) == vc.toNat && s.actDt p (1 - st.val) == dt.toNat) = false →
      (s.pst p st).open_ = true → (s.pst p st).dead = false → (s.pst p st).anchor = some a → (s.pst p st).r < (s.pst p st).n →
      s.ptrTag p st = some e → e.trignum = a.trignum + BitVec.ofNat 16 (s.pst p st).r →
      ∃ (t : State), exec (.imageLine p vc dt bytes crcBad eccCor) s = .next t ∧ (t.pst p st).r = (s.pst p st).r + 1
        ∧ (t.pst p st).ptr = (s.pst p st).ptr + 1 ∧ (t.pst p st).open_ = true
        ∧ (t.pst p st).crc = ((s.pst p st).crc || crcBad))
    ∧ (∀ (st : Fin 2) (vc : BitVec 4) (dt : BitVec 6) bytes eccCor (e : TagEnt),
      (s.embOn p && s.efld (Adr.portEmbFilt p) 3 0 == vc.toNat && s.efld (Adr.portEmbFilt p) 9 4 == dt.toNat) = true →
      (s.strAct p st && s.actVc p st == vc.toNat) = true → s.actDt p st ≠ dt.toNat → s.strAct p (1 - st.val) = false →
      s.alignOn p st = true → (s.port p).learn = false → (s.pst p st).open_ = true → (s.pst p st).embdone = false →
      (s.pst p st).anchor = none → (s.pst p st).dead = false → bits (s.pst p st).cnt.toNat 9 0 + 2 ≤ bytes.length →
      s.ptrTag p st = some e →
      e.trignum = counterOf (s.pst p st).cnt bytes + (s.reg (Adr.portCntOfs p)).setWidth 16 →
      ∃ (t : State), exec (.embeddedLine p vc dt bytes false eccCor) s = .next t ∧ (t.pst p st).anchor = some e
        ∧ (t.pst p st).n = e.n - e.tag.index.toNat ∧ (t.pst p st).byCounter = true ∧ (t.pst p st).embdone = true)
    ∧ (∀ (st : Fin 2) (hdr : PktHdr), (s.strAct p st && s.actVc p st == hdr.vc.toNat) = true → (s.pst p st).open_ = true →
      ∃ (t : State), exec (.frameEnd p hdr) s = .next t ∧ (t.pst p st).open_ = false
        ∧ t.reg (Adr.portLast p st) = BitVec.ofNat 20 ((s.pst p st).r % 2 ^ 14 * 8 + ((s.pst p st).outcome .frameEnd).code))
    ∧ (∀ st : Fin 2, (s.pst p st).act = true → (s.pst p st).open_ = true →
      (((s.pst p st).tmoFe.toNat * 100 * usT : Nat) : Int) < (s.tm - (s.pst p st).tfs).toInt →
      ∃ (t : State), exec (.frameEndWatchdog p st) s = .next t ∧ (t.pst p st).open_ = false
        ∧ t.reg (Adr.portLast p st) = BitVec.ofNat 20 ((s.pst p st).r % 2 ^ 14 * 8 + ((s.pst p st).outcome .watchdog).code))
    ∧ (∀ (st : Fin 2) (e : TagEnt), (s.pst p st).act = true → (s.pst p st).open_ = false → s.ptrTag p st = some e →
      ((s.pst p st).fsTicks : Int) < (s.tm - e.tag.time).toInt →
      ∃ (t : State), exec (.frameStartWatchdog p st) s = .next t ∧ (t.pst p st).ptr = (s.pst p st).ptr + 1
        ∧ (t.reg (Adr.portTagDisc p)).toNat = min ((s.reg (Adr.portTagDisc p)).toNat + 1) 0xFFFFF
        ∧ (e.tag.index = 0 → t.reg (Adr.portLast p st) = BitVec.ofNat 20 Outc.timeout.code)
        ∧ (e.tag.index ≠ 0 → t.reg (Adr.portLast p st) = s.reg (Adr.portLast p st)))

/-- Completion of the link and enable commands of a port (R101, R104, R105, R107, R112, R115, R119). A link error is counted by its kind and marks every open slab; a packet that no filter matches is counted, and its corrected header too; a skew calibration sets DESKEW, the clock lane's high speed sets and clears LINK, and a lane's entry into ultra-low power and its exit change that lane's state alone, close no slab and show in STATUS for the clock lane. Enabling a port in service sets EN and clears DESKEW; disabling it closes every slab and takes every stream out of effect; LEARN waits for the next alignment. -/
def Obligations.PortLinkAndEnables : Prop :=
  ∀ (p : Fin 16) (s : State),
    (∀ k, s.portOn p = true → ∃ (t : State), exec (.linkError p k) s = .next t
        ∧ (∀ st : Fin 2, (t.pst p st).open_ = (s.pst p st).open_ ∧ (t.pst p st).linkerr = ((s.pst p st).linkerr || (s.pst p st).open_))
        ∧ (k = .header → (t.reg (Adr.portEccErr p)).toNat = min ((s.reg (Adr.portEccErr p)).toNat + 1) 0xFFFFF)
        ∧ (k = .sotSync → (t.reg (Adr.portPhyErr p)).toNat = min ((s.reg (Adr.portPhyErr p)).toNat + 1) 0xFFFFF))
    ∧ (∀ (hdr : PktHdr) (dt : BitVec 6), s.portOn p = true →
        (s.embOn p && s.efld (Adr.portEmbFilt p) 3 0 == hdr.vc.toNat && s.efld (Adr.portEmbFilt p) 9 4 == dt.toNat) = false →
        (∀ st : Fin 2, (s.strAct p st && s.actVc p st == hdr.vc.toNat && s.actDt p st == dt.toNat) = false) →
        exec (.packetUnmatched p hdr dt) s
          = .next ((if hdr.cor then s.incr (Adr.portEccCor p) else s).incr (Adr.portPktIgn p)))
    ∧ (s.portOn p = true → exec (.skewCalibration p) s = .next (s.setFlag (Adr.portStatus p) 2 true))
    ∧ (s.on (portPd p) = true →
        (∀ lane, ∃ (t : State), exec (.ulpsEntry ⟨p, lane⟩) s = .next t ∧ lane ∈ (t.port p).ulps ∧ (t.port p).st = (s.port p).st
            ∧ (∀ l, l ≠ lane → (l ∈ (t.port p).ulps ↔ l ∈ (s.port p).ulps)) ∧ t.regs = s.regs ∧ (lane = none → t.ulpsOn p = true))
        ∧ (∀ lane, ∃ (t : State), exec (.ulpsExit ⟨p, lane⟩) s = .next t ∧ lane ∉ (t.port p).ulps ∧ (t.port p).st = (s.port p).st
            ∧ (∀ l, l ≠ lane → (l ∈ (t.port p).ulps ↔ l ∈ (s.port p).ulps)) ∧ t.regs = s.regs)
        ∧ exec (.clockLaneHsEntry p) s = .next (s.setFlag (Adr.portStatus p) 0 true)
        ∧ exec (.clockLaneHsExit p) s = .next (s.setFlag (Adr.portStatus p) 0 false))
    ∧ (∀ ag, s.flag (Adr.portCtrl p) 0 = false → s.outOfService p = false →
        s.writable ag (Adr.portCtrl p) (putBits (s.reg (Adr.portCtrl p)) 0 0 1) = true →
        ∃ (t : State), exec (.portEnable ag p) s = .next t ∧ t.flag (Adr.portCtrl p) 0 = true ∧ t.flag (Adr.portStatus p) 2 = false)
    ∧ (∀ ag, s.flag (Adr.portCtrl p) 0 = true →
        s.writable ag (Adr.portCtrl p) (putBits (s.reg (Adr.portCtrl p)) 0 0 0) = true →
        ∃ (t : State), exec (.portDisable ag p) s = .next t ∧ t.flag (Adr.portCtrl p) 0 = false
          ∧ ∀ st : Fin 2, (t.pst p st).open_ = false ∧ (t.pst p st).act = false)
    ∧ (∀ ag, s.writable ag (Adr.portCtrl p) (putBits (s.reg (Adr.portCtrl p)) 8 8 1) = true →
        ∃ (t : State), exec (.portLearn ag p) s = .next t ∧ (t.port p).learn = true)

/-- Completion of the I2C commands (R117, R118). GO with at most 32 bytes each way starts a transaction with the bytes of I2C.TX and sets BUSY; while one runs it sets CFGERR and starts none. Its end clears BUSY, sets DONE and the bit of its failure, NACK, BUSERR or TIMEOUT, and XFER holds the bytes acknowledged or received, at most 32. RECOVER, while none runs, is carried out and touches no stream. -/
def Obligations.I2cTransactions : Prop :=
  ∀ (p : Fin 16) (s : State),
    (∀ ag (v : Word), s.writable ag (Adr.portI2cCmd p) v = true →
      (s.i2cBusy p = false → v.toNat.testBit 19 = true → bits v.toNat 12 7 ≤ 32 → bits v.toNat 18 13 ≤ 32 →
        ∃ (t : State), ∃ j, exec (.i2cGo ag p v) s = .next t ∧ (t.port p).i2c = some j ∧ t.flag (Adr.portI2cStatus p) 0 = true
          ∧ j.addr = BitVec.ofNat 7 v.toNat ∧ j.wlen = bits v.toNat 12 7 ∧ j.rlen = bits v.toNat 18 13
          ∧ j.tx = (List.range j.wlen).map (s.i2cTx p))
      ∧ (s.i2cBusy p = true → exec (.i2cGo ag p v) s = .next (s.setFlag (Adr.portI2cStatus p) 5 true)))
    ∧ (∀ j, (s.port p).i2c = some j →
      (∀ rx, ∃ (t : State), exec (.i2cDone p (.ok rx)) s = .next t ∧ (t.port p).i2c = none
        ∧ t.flag (Adr.portI2cStatus p) 0 = false ∧ t.flag (Adr.portI2cStatus p) 1 = true
        ∧ t.fld (Adr.portI2cStatus p) 11 6 = min (if j.rlen = 0 then j.wlen else j.rlen) 32)
      ∧ (∀ n, ∃ (t : State), exec (.i2cDone p (.nack n)) s = .next t ∧ (t.port p).i2c = none
        ∧ t.flag (Adr.portI2cStatus p) 1 = true ∧ t.flag (Adr.portI2cStatus p) 2 = true
        ∧ t.fld (Adr.portI2cStatus p) 11 6 = min (min n j.wlen) 32)
      ∧ (∀ c : I2cCut, ∃ (t : State), exec (.i2cDone p (.busErr c)) s = .next t ∧ (t.port p).i2c = none
        ∧ t.flag (Adr.portI2cStatus p) 0 = false ∧ t.flag (Adr.portI2cStatus p) 1 = true ∧ t.flag (Adr.portI2cStatus p) 4 = true
        ∧ t.fld (Adr.portI2cStatus p) 11 6 = min (c.xfer j) 32)
      ∧ (∀ c : I2cCut, ∃ (t : State), exec (.i2cStretchTimeout ⟨p, c⟩) s = .next t ∧ (t.port p).i2c = none
        ∧ t.flag (Adr.portI2cStatus p) 0 = false ∧ t.flag (Adr.portI2cStatus p) 1 = true ∧ t.flag (Adr.portI2cStatus p) 3 = true
        ∧ t.fld (Adr.portI2cStatus p) 11 6 = min (c.xfer j) 32))
    ∧ (∀ ag, s.writable ag (Adr.portI2cOp p) 1 = true → s.i2cBusy p = false →
      ∃ (t : State), exec (.i2cRecover ag p) s = .next t ∧ (t.port p).recov = (s.port p).recov + 1 ∧ (t.port p).st = (s.port p).st)

/-- Completion of the line and context commands of a Face (R148, R149, R153, R157). Where no line is in the Face, the line that the scheduler chooses leaves its queue and enters, unless its read-back failed, its slab is discarded for its mode, or its slab only begins here. The line in the Face leaves it. A context of a Face in service that R148 does not refuse starts empty, for the head of its port; a refused one stays disabled with CFGERR; a context disabled has no waiting line and no slab that takes lines, and the line in the Face stays there. -/
def Obligations.FaceLinesAndContexts : Prop :=
  ∀ (f : Fin 4) (s : State),
    (∀ (c rr : Nat) (l : RawLine) (rest : List RawLine) (late : Bool), s.on (facePd f) = true → (s.face f).line = none →
      s.nextLine f = some (c, rr) → (s.fctx (4 * f + c)).queue = l :: rest → (s.fctx (4 * f + c)).begun = some l.slab →
      (s.fctx (4 * f + c)).modeBad = false →
      ∃ (t : State), ∃ x, exec (.lineBoundary f late false) s = .next t ∧ (t.face f).line = some (c, x) ∧ x.tag = l.tag ∧ x.fl = l.fl
        ∧ (s.ctxInline f c = true → x = l) ∧ (t.fctx (4 * f + c)).queue = rest ∧ (t.face f).rr = rr
        ∧ ∀ g, g ≠ f.val → t.face g = s.face g)
    ∧ (∀ c l, (s.face f).line = some (c, l) → ∃ (t : State), exec (.faceLineOut f) s = .next t ∧ (t.face f).line = none
        ∧ (t.face f).tbl = (s.face f).tbl ∧ t.encs = s.encs)
    ∧ (∀ (ag : Agent) (c : Fin 4), s.ctxEn f c = false →
      s.writable ag (Adr.fsrcSrc f c) (putBits (s.reg (Adr.fsrcSrc f c)) 0 0 1) = true → s.outOfService (0x10 + f) = false →
      (s.enableRefused f c = false → ∃ (t : State), exec (.contextEnable ag f c) s = .next t ∧ t.ctxEn f c = true
        ∧ (t.fctx (4 * f + c)).queue = [] ∧ (t.fctx (4 * f + c)).slabs = [] ∧ (t.fctx (4 * f + c)).head = s.ctxPort f c
        ∧ (t.fctx (4 * f + c)).stk = s.ctxStock f c ∧ (t.fctx (4 * f + c)).brk = true)
      ∧ (s.enableRefused f c = true → ∃ (t : State), exec (.contextEnable ag f c) s = .next t ∧ t.ctxEn f c = false
        ∧ t.flag (Adr.faceStatusCfgerr f) 0 = true ∧ t.fctxs = s.fctxs))
    ∧ (∀ (ag : Agent) (c : Fin 4), s.ctxEn f c = true →
      s.writable ag (Adr.fsrcSrc f c) (putBits (s.reg (Adr.fsrcSrc f c)) 0 0 0) = true →
      ∃ (t : State), exec (.contextDisable ag f c) s = .next t ∧ t.ctxEn f c = false ∧ (t.fctx (4 * f + c)).queue = []
        ∧ (t.fctx (4 * f + c)).cur = none ∧ (t.face f).line = (s.face f).line)

/-- Completion of TBL_SEL_WRITE, TBL_DATA_ACCESS and STREAM_LINE_WRITE (R143, R479). A select of a table that exists is taken and changes no table. A write of TBL_DATA stores at the selected entry, 16 bits in the black and tone tables, changes no other entry, and moves to the next; a read returns the entry and changes no table. The next waiting line, of an enabled ring, leaves the Face's buffer while the host can be written and the mirror block is up to date: where the ring has room PROD advances by the line's units of 64 bytes, without room the line is lost and counted. -/
def Obligations.FaceTablesAndStreams : Prop :=
  (∀ (ag : Agent) (f : Fin 4) (v : Word) (s : State), s.writable ag (Adr.faceTblSel f) v = true →
    bits v.toNat 2 0 ≤ 3 → (bits v.toNat 2 0 = 3 → bits v.toNat 6 5 ≠ 3) →
    ∃ (t : State), exec (.tblSelWrite ag f v) s = .next t ∧ t.fld (Adr.faceTblSel f) 7 0 = v.toNat % 256 ∧ t.faces = s.faces
      ∧ t.fld (Adr.faceTblAddr f) 13 0 < tblLen (bits v.toNat 2 0))
  ∧ (∀ (ag : Agent) (f : Fin 4) (v : Word) (s : State), s.writable ag (Adr.faceTblData f) v = true → s.selKind f ≤ 3 →
    let e := s.fld (Adr.faceTblAddr f) 13 0
    ∃ (t : State), exec (.tblDataAccess ag f (some v)) s = .next t
      ∧ SMap.get tblBoot (t.face f).tbl (s.selKey f e) = (if s.selKind f = 0 ∨ s.selKind f = 3 then v &&& 0x0FFFF else v)
      ∧ (∀ k, k ≠ s.selKey f e → SMap.get tblBoot (t.face f).tbl k = SMap.get tblBoot (s.face f).tbl k)
      ∧ t.fld (Adr.faceTblAddr f) 13 0 = (if tblLen (s.selKind f) ≤ e + 1 then 0 else e + 1))
  ∧ (∀ (ag : Agent) (f : Fin 4) (s : State), s.on (facePd f) = true → s.undefAt (Adr.faceTblData f) = false →
    ∃ (t : State), exec (.tblDataAccess ag f none) s = .next t ∧ t.faces = s.faces
      ∧ t.rdVal (readerOf ag) = (SMap.get tblBoot (s.face f).tbl (s.selKey f (s.fld (Adr.faceTblAddr f) 13 0))).setWidth 32)
  ∧ (∀ (s : State) (r : Nat) (bs : List Byte) (rest : List (Nat × List Byte)),
    s.nextRing = some r → takeRing r (s.face (r / 12)).wait = some (bs, rest) → s.ringEn r = true → s.hostCan = true →
    s.pcie.stale = false →
    ∃ (t : State), exec .streamLineWrite s = .next t ∧ (t.face (r / 12)).wait = rest ∧ t.pcie.lastRing = r
      ∧ (s.ringUsed r + bs.length / 64 ≤ s.ringUnits r →
          (t.reg (Adr.pcieStreamProd r)).toNat = ((s.reg (Adr.pcieStreamProd r)).toNat + bs.length / 64) % 2 ^ 20
          ∧ t.reg (Adr.pcieStreamLost r) = s.reg (Adr.pcieStreamLost r))
      ∧ (s.ringUnits r < s.ringUsed r + bs.length / 64 →
          t.reg (Adr.pcieStreamProd r) = s.reg (Adr.pcieStreamProd r) ∧ t.hostMem = s.hostMem
          ∧ (t.reg (Adr.pcieStreamLost r)).toNat = min ((s.reg (Adr.pcieStreamLost r)).toNat + 1) 0xFFFFF))

/-- Completion of SEAM_ENABLE, SEAM_DISABLE, STOCK_ENABLE, CANDIDATE_ARRIVAL and JOIN_TIMEOUT (R171, R188, R193, R198 to R204). A write of a Seam's EN sets or clears it and touches no Face; enabling a stockpile opens a new epoch with no line. The oldest candidate leaves the queue; one whose lines are not resident is counted in NOSTOCK and enters no table; the first of an empty table that awaits no partner, with DUP_WIN 0, becomes READY in entry 0, mapped to the web. A fragment whose time is over goes on alone, counted in SOLO, and is PENDING no more. -/
def Obligations.CandidatesAndEnables : Prop :=
  ∀ s : State,
    (∀ (ag : Agent) (f : Fin 4), s.writable ag (Adr.seamCtrl f) (putBits (s.reg (Adr.seamCtrl f)) 0 0 1) = true →
      ∃ (t : State), exec (.seamEnable ag f) s = .next t ∧ t.flag (Adr.seamCtrl f) 0 = true ∧ t.faces = s.faces ∧ t.fctxs = s.fctxs)
    ∧ (∀ (ag : Agent) (f : Fin 4), s.writable ag (Adr.seamCtrl f) (putBits (s.reg (Adr.seamCtrl f)) 0 0 0) = true →
      ∃ (t : State), exec (.seamDisable ag f) s = .next t ∧ t.flag (Adr.seamCtrl f) 0 = false ∧ t.faces = s.faces ∧ t.fctxs = s.fctxs
        ∧ t.riddle = s.riddle)
    ∧ (∀ (ag : Agent) (h : Fin 16) (p : Fin 4), s.stockEn h p = false →
      s.writable ag (Adr.stockCtrl h p) (putBits (s.reg (Adr.stockCtrl h p)) 0 0 1) = true →
      ∃ (t : State), exec (.stockEnable ag h p) s = .next t ∧ t.stockEn h p = true
        ∧ (t.stock (4 * h + p)).epoch = (s.stock (4 * h + p)).epoch + 1 ∧ (t.stock (4 * h + p)).any = false)
    ∧ (∀ k q, s.riddle.queue = k :: q → s.riddleOn = true →
      (s.inStock k = false → ∃ (t : State), exec .candidateArrival s = .next t ∧ t.riddle = { s.riddle with queue := q }
        ∧ (t.reg Adr.riddleNostock).toNat = min ((s.reg Adr.riddleNostock).toNat + 1) 0xFFFFF)
      ∧ (s.inStock k = true → s.riddle.table = [] → (s.mapCand k).waits = false → s.reg Adr.riddleDupWin = 0 →
        ∃ (t : State), exec .candidateArrival s = .next t ∧ t.riddle.queue = q ∧ t.riddle.order = s.riddle.order + 1
          ∧ t.ent 0 = some { s.mapCand k with st := .ready } ∧ ∀ i, i ≠ 0 → t.ent i = none))
    ∧ (∀ (n : BitVec 12) e, s.ent n.toNat = some e → e.st = .pending →
      (s.reg Adr.riddleJoinTmo).toNat % 65536 * msT ≤ s.since e.arrived →
      ∃ (t : State), exec (.joinTimeout n) s = .next t
        ∧ (t.reg Adr.riddleSolo).toNat = min ((s.reg Adr.riddleSolo).toNat + 1) 0xFFFFF
        ∧ ∀ x, t.ent n.toNat = some x → x.st = .ready ∨ x.st = .shadow)

/-- Completion of DISPATCH, KERF_CUT_DONE, DEADLINE_EXPIRY, RIDDLE_DONE_WRITE and RESULT_RELEASE (R209, R210, R215 to R220). An idle Kerf takes the entry and the bench that R210 chooses; the entry is in CUT. At the end of the cut it is in DECODE and one more ticket waits at its bench, or, where the bench has left, READY again and counted in REDO. DONE with 01 or 10 holds an entry in DECODE for its release, with 00 or 11 sets CFGERR. A held entry leaves the table for staging with the next sequence number; so does, at its deadline, one that no bench has. -/
def Obligations.CutsAndReleases : Prop :=
  ∀ s : State,
    (∀ k i e b, s.idleKerf = some k →
      s.pickEntry (s.entries.filter (fun p => s.dispatchable p.2)).length (s.entries.filter (fun p => s.dispatchable p.2)) = some (i, e, b) →
      ∃ (t : State), ∃ x, exec .dispatch s = .next t ∧ t.ent i = some x ∧ x.st = .cut ∧ x.bench = b ∧ x.box = e.box
        ∧ (t.kerf k).job.map Prod.fst = some i ∧ t.riddle.lastBench = b)
    ∧ (∀ (k : Fin 8) i st e, (s.kerf k).job = some (i, st) → s.ent i = some e →
      ((s.reg Adr.riddleBenches).toNat.testBit e.bench = true → ∃ (t : State), ∃ x, exec (.kerfCutDone k) s = .next t ∧ t.ent i = some x
        ∧ x.st = .decode ∧ x.box = e.box ∧ (t.kerf k).job = none
        ∧ (s.on (benchPd e.bench) = true → s.tqOccupied e.bench < 16 →
            (t.bench e.bench).order.length = (s.bench e.bench).order.length + 1))
      ∧ ((s.reg Adr.riddleBenches).toNat.testBit e.bench = false → ∃ (t : State), exec (.kerfCutDone k) s = .next t
        ∧ t.ent i = some { e with st := .ready } ∧ (t.kerf k).job = none ∧ t.benches = s.benches
        ∧ (t.reg Adr.riddleRedo).toNat = min ((s.reg Adr.riddleRedo).toNat + 1) 0xFFFFF))
    ∧ (∀ (n : BitVec 12) e, s.ent n.toNat = some e → s.expired e = true → (e.st = .pending ∨ e.st = .ready) → e.shadow = none →
      s.res.staging.length < stagingMax → ∃ (t : State), exec (.deadlineExpiry n) s = .next t ∧ t.ent n.toNat = none
        ∧ t.res.staging.length = s.res.staging.length + 1 ∧ t.res.nextSeq = s.res.nextSeq + 1
        ∧ (t.reg Adr.riddleExpired).toNat = min ((s.reg Adr.riddleExpired).toNat + 1) 0xFFFFF)
    ∧ (∀ (ag : Agent) (n : BitVec 12) (r : BitVec 2), s.writable ag Adr.riddleDone (BitVec.ofNat 20 (n.toNat + 4096 * r.toNat)) = true →
      (r = 0 ∨ r = 3 → exec (.riddleDoneWrite ag n r) s = .next (s.setFlag Adr.riddleStatus 0 true))
      ∧ (∀ e, r = 1 ∨ r = 2 → s.ent n.toNat = some e → e.st = .decode → e.shadow = none →
        ∃ (t : State), exec (.riddleDoneWrite ag n r) s = .next t
          ∧ t.ent n.toNat = some { e with st := .held, done := r.toNat, shadow := none }))
    ∧ (∀ (n : BitVec 12) e, s.on 4 = true → s.ent n.toNat = some e → e.st = .held → s.slabsClosed e = true ∨ s.expired e = true →
      s.res.staging.length < stagingMax → ∃ (t : State), ∃ x, exec (.resultRelease n) s = .next t ∧ t.ent n.toNat = none
        ∧ t.res.staging = s.res.staging ++ [x] ∧ x.seq = s.res.nextSeq ∧ x.time = e.edgeTime ∧ t.res.nextSeq = s.res.nextSeq + 1)

/-- Completion of ASHLAR_POST, GEOMETRY_COMMIT, HELD_COMMIT_APPLY and BENCHES_WRITE (R196, R220, R256, R477, R478). With the mirror off, the oldest staged result leaves staging for the next entry of the result ring, whose first word is the ashlar's unless the copy in DRAM is undefined, and both producer indices advance, the payload's from the place of R478. A commit changes the set in force at once where no entry refers to the older one, otherwise it is held and applied later; a second one sets CFGERR. Benches written stand in BENCHES, and a bench that leaves has no waiting ticket. -/
def Obligations.PostsCommitsBenches : Prop :=
  ∀ s : State,
    (∀ r rest u, s.res.staging = r :: rest → s.mayPost = true → s.flag Adr.pcieCtrl 1 = false → r.ashlar.length = 64 →
      place (s.reg Adr.pciePayProd).toNat (s.reg Adr.pciePayCons).toNat s.payUnits ((r.payload.length + 63) / 64) = some u →
      ∃ (t : State), exec .ashlarPost s = .next t ∧ t.res.staging = rest ∧ t.res.lastPost = some s.time
        ∧ (t.reg Adr.pcieResProd).toNat = ((s.reg Adr.pcieResProd).toNat + 1) % 2 ^ 20
        ∧ (t.reg Adr.pciePayProd).toNat = (u + (r.payload.length + 63) / 64) % s.payUnits % 2 ^ 20
        ∧ (r.undef = false →
            t.hostRun (s.hostBase Adr.pcieResBaseL Adr.pcieResBaseH + (s.reg Adr.pcieResProd).toNat % s.resN * 64) 4 = r.ashlar.take 4))
    ∧ (∀ ag, s.writable ag Adr.riddleGcommitCommit 1 = true →
      (s.riddle.gpend = false → s.geoHeld = false → ∃ (t : State), exec (.geometryCommit ag) s = .next t
        ∧ t.riddle.gset = !s.riddle.gset ∧ t.riddle.gpend = false ∧ t.riddle.table = s.riddle.table)
      ∧ (s.riddle.gpend = false → s.geoHeld = true → ∃ (t : State), exec (.geometryCommit ag) s = .next t
        ∧ t.riddle = { s.riddle with gpend := true })
      ∧ (s.riddle.gpend = true → exec (.geometryCommit ag) s = .next (s.setFlag Adr.riddleStatus 0 true)))
    ∧ (s.riddle.gpend = true → s.geoHeld = false → ∃ (t : State), exec .heldCommitApply s = .next t
        ∧ t.riddle.gset = !s.riddle.gset ∧ t.riddle.gpend = false ∧ t.riddle.table = s.riddle.table)
    ∧ (∀ ag (v : BitVec 8), s.writable ag Adr.riddleBenches (v.setWidth 20) = true →
      ∃ (t : State), exec (.benchesWrite ag v) s = .next t ∧ t.fld Adr.riddleBenches 7 0 = v.toNat
        ∧ ∀ b : Fin 8, (s.reg Adr.riddleBenches).toNat.testBit b = true → v.toNat.testBit b = false → (t.bench b).order = [])

/-- Completion of TQ_TAKE, TQ_FREE, DECODE_TICKET, ECC_CLAIM, ECC_RELEASE, ECC_GO and ECC_JOB_DONE (R219, R227, R229 to R234, R272, R273). A read of TQ.TAKE takes the oldest waiting ticket and returns its entry with VALID; an agent that may not take gets 0. FREE frees a taken entry; naming a waiting or a free one sets CFGERR. A hewer that runs the symbology firmware, with the ECC unit free where an attempt needs it, takes the oldest ticket and frees it, writes what decoding gives to the candidate's result slot and holds the candidate, in DECODE on this bench without an entry in its shadow, for its release. CLAIM gives a free unit to its reader and takes it back at the owner's 0; GO by the owner starts a job on the registers and the codeword as they stand, and the job's end leaves DONE, the counts and, where the generator is primitive, codeword and erasure list have not been changed and it decodes, ERRS, ERAS, SPARE and the corrected codeword; a refused job fails with REFUSED. The clauses on TAKE, FREE, CLAIM and GO are about registers whose values are defined (R433). -/
def Obligations.TicketsAndEcc : Prop :=
  ∀ (s : State) (b : Fin 8),
    (∀ ag, s.on (benchPd b) = true → s.undefAt (Adr.benchTqTake b) = false →
      (∀ i q, takesFrom ag b = true → (s.bench b).order = i :: q → i < 16 → ∃ (t : State), exec (.tqTake ag b) s = .next t
        ∧ t.rdVal (readerOf ag) = BitVec.ofNat 32 (16 + i) ∧ (t.bench b).order = q ∧ (t.tqEnt b i).st = .taken
        ∧ (t.tqEnt b i).words = (s.tqEnt b i).words ∧ t.regs = s.regs)
      ∧ (takesFrom ag b = false ∨ (s.bench b).order = [] → exec (.tqTake ag b) s = .next (s.ret ag 0)))
    ∧ (∀ ag (v : Word), s.reachesBench ag b = true → s.undefAt (Adr.benchTqFree b) = false → v.toNat.testBit 4 = true →
      ((s.tqEnt b (v.toNat % 16)).st = .taken → ∃ (t : State), exec (.tqFree ag b v) s = .next t
        ∧ (t.tqEnt b (v.toNat % 16)).st = .free ∧ (t.bench b).order = (s.bench b).order ∧ t.regs = s.regs)
      ∧ ((s.tqEnt b (v.toNat % 16)).st ≠ .taken → ∃ (t : State), exec (.tqFree ag b v) s = .next t
        ∧ t.flag (Adr.benchTqStatusCfgerr b) 0 = true ∧ t.benches = s.benches))
    ∧ (∀ (h : Fin 8) att n q i e u r, s.fwRuns b = true → (s.core (8 * b.val + h.val)).fwOff = false →
      s.eccFreeFor b att = true → (s.bench b).order = n :: q → n < 16 →
      i = ((s.tqEnt b n).words.getD 0 0).toNat % 4096 → s.ent i = some e → e.st = .decode → e.bench = b.val → e.shadow = none →
      (s.reg Adr.riddleBenches).toNat.testBit b = true →
      u = ((s.tqTake (.hewer b h) b).2).tqFree b (BitVec.ofNat 20 (16 + n)) →
      r = (u.decode b { e with hewer := 8 * b.val + h.val } att).1 →
      ∃ (t : State), ∃ x, exec (.decodeTicket b h att) s = .next t ∧ (t.bench b).order = q ∧ (t.tqEnt b n).st = .free
        ∧ t.slotOf i = some r.2 ∧ t.ent i = some x ∧ x.st = .held ∧ x.hewer = 8 * b.val + h.val
        ∧ x.done = (if r.1 then 1 else 2))
    ∧ (∀ ag, s.on (benchPd b) = true → s.undefAt (Adr.benchEccClaimOwner b) = false → eccEntitled ag b = true → (s.bench b).eccOwner = 0 →
      ∃ (t : State), exec (.eccClaim ag b) s = .next t ∧ t.rdVal (readerOf ag) = 0 ∧ (t.bench b).eccOwner = readerOf ag
        ∧ t.eccOwns ag b = true)
    ∧ (∀ ag, s.on (benchPd b) = true → s.eccOwns ag b = true →
      exec (.eccRelease ag b) s = .next (s.setBench b { s.bench b with eccOwner := 0 }))
    ∧ (∀ ag, s.on (benchPd b) = true → s.eccOwns ag b = true → s.undefAt (Adr.benchEccGo b) = false →
      s.flag (Adr.benchEccStatus b) 0 = false →
      ∃ (t : State), ∃ j, exec (.eccGo ag b) s = .next t ∧ (t.bench b).ecc = some j ∧ t.fld (Adr.benchEccStatus b) 6 0 = 1
        ∧ (j.refused = false → j.n = s.fld (Adr.benchEccLen b) 7 0 ∧ j.r = s.fld (Adr.benchEccLen b) 14 8
            ∧ 2 ≤ j.n ∧ 1 ≤ j.r ∧ j.r ≤ 80 ∧ j.r < j.n ∧ j.nera ≤ j.r
            ∧ j.cwWords = s.sharedRun b (s.reg (Adr.benchEccCw b)).toNat j.n))
    ∧ (∀ j, s.on (benchPd b) = true → (s.bench b).ecc = some j →
      ∃ (t : State), exec (.eccJobDone b) s = .next t ∧ (t.bench b).ecc = none ∧ t.flag (Adr.benchEccStatus b) 0 = false
        ∧ t.flag (Adr.benchEccStatus b) 1 = true
        ∧ (t.reg (Adr.benchEccJobs b)).toNat = min ((s.reg (Adr.benchEccJobs b)).toNat + 1) 0xFFFFF
        ∧ (j.refused = true → t.fld (Adr.benchEccStatus b) 6 0 = 26 ∧ (t.bench b).shared = (s.bench b).shared
            ∧ (t.reg (Adr.benchEccFails b)).toNat = min ((s.reg (Adr.benchEccFails b)).toNat + 1) 0xFFFFF)
        ∧ ∀ g c r, g = ({ prime := j.gf113, poly := j.poly, alpha := j.alpha } : Gf) → j.refused = false →
            g.primitive = true → j.dirty = false → s.undefAt (Adr.benchEccCfg b) = false →
            c = readCodeword j.gf113 (j.cwWords.map (·.toNat)) (j.eraWords.map (·.toNat)) → r = g.decode j.fcr j.r c.1 c.2.1 →
            r.ok = true → t.fld (Adr.benchEccStatus b) 4 2 = 1
              ∧ (t.reg (Adr.benchEccRes0 b)).toNat = (r.errs + 256 * r.eras) % 65536
              ∧ (t.reg (Adr.benchEccRes1Spare b)).toNat = r.spare % 256
              ∧ (t.bench b).shared = ((s.eccFix b j.cw r.fix).bench b).shared
              ∧ t.reg (Adr.benchEccFails b) = s.reg (Adr.benchEccFails b))

/-- Completion of DMA_GO, DMA_DONE, CMP_GO and CMP_COPY_DONE (R275, R276, R279). GO on an idle channel starts a transfer within usable DRAM and its local space, of one unit or more and with the named hewer halted where it is a hewer's memory; one of no unit or outside usable DRAM is refused; at its end XFER counts every unit, and those that XFER did not count before have moved, converted by PACK, between DRAM and the local space. GO of an idle window with a result of 01 or 10 and a block and payload inside shared memory makes the window busy; at the end of the copy the result slot holds the block's fields, and for a bench in RIDDLE.BENCHES the entry in DECODE, with no entry in its shadow, is held for its release, for another bench it stays. -/
def Obligations.DmaAndCompletion : Prop :=
  ∀ (s : State) (b : Fin 8),
    (∀ ag (c : Fin 9) (space n loc u da : Nat), s.reachesBench ag b = true → ownChannel ag c = true →
      s.undefAt (Adr.benchDmaGo b c) = false → s.flag (Adr.benchDmaStat b c) 0 = false → space = s.fld (Adr.benchDmaCfg b c) 2 1 →
      n = (s.reg (Adr.benchDmaCount b c)).toNat → loc = (s.reg (Adr.benchDmaLocal b c)).toNat →
      u = unitBytes space (s.fld (Adr.benchDmaCfg b c) 7 6) →
      da = ((s.reg (Adr.benchDmaDaddrL b c)).toNat + 2 ^ 20 * (s.reg (Adr.benchDmaDaddrH b c)).toNat) / u * u →
      (dramBase ≤ da → da + n * u ≤ dramBase + dramSize → (spaceEnd space).1 ≤ loc → loc + n ≤ (spaceEnd space).2 → n ≠ 0 →
        (space = 0 ∨ s.hewerRuns (8 * b.val + s.fld (Adr.benchDmaCfg b c) 5 3) = false) →
        ∃ (t : State), exec (.dmaGo ag b c) s = .next t ∧ t.fld (Adr.benchDmaStat b c) 3 0 = 1 ∧ t.reg (Adr.benchDmaXfer b c) = 0
          ∧ t.dram = s.dram ∧ t.benches = s.benches)
      ∧ (n = 0 ∨ da < dramBase ∨ dramBase + dramSize < da + n * u →
        ∃ (t : State), exec (.dmaGo ag b c) s = .next t ∧ t.fld (Adr.benchDmaStat b c) 3 0 = 10 ∧ t.dram = s.dram
          ∧ t.benches = s.benches ∧ t.cores = s.cores))
    ∧ (∀ (c : Fin 9) (space pack hw n loc u da : Nat), s.on (benchPd b) = true → s.flag (Adr.benchDmaStat b c) 0 = true →
      space = s.fld (Adr.benchDmaCfg b c) 2 1 → pack = s.fld (Adr.benchDmaCfg b c) 7 6 →
      hw = s.fld (Adr.benchDmaCfg b c) 5 3 → n = (s.reg (Adr.benchDmaCount b c)).toNat →
      loc = (s.reg (Adr.benchDmaLocal b c)).toNat → u = unitBytes space pack →
      da = ((s.reg (Adr.benchDmaDaddrL b c)).toNat + 2 ^ 20 * (s.reg (Adr.benchDmaDaddrH b c)).toNat) / u * u →
      dramBase ≤ da → da + n * u ≤ dramBase + dramSize → (spaceEnd space).1 ≤ loc → loc + n ≤ (spaceEnd space).2 →
      (s.reg (Adr.benchDmaXfer b c)).toNat ≤ n →
      ∃ (t : State), exec (.dmaDone b c none) s = .next t ∧ t.fld (Adr.benchDmaStat b c) 3 0 = 2
        ∧ (t.reg (Adr.benchDmaXfer b c)).toNat = n
        ∧ (s.flag (Adr.benchDmaCfg b c) 0 = true → t.benches = s.benches ∧ t.cores = s.cores
            ∧ ∀ i < n, (s.reg (Adr.benchDmaXfer b c)).toNat ≤ i → t.dramRun (da + i * u - dramBase) u
                = leBytes (s.localGet b space hw (loc + i) % unitMask space pack) u)
        ∧ (s.flag (Adr.benchDmaCfg b c) 0 = false → t.dram = s.dram
            ∧ ∀ i < n, (s.reg (Adr.benchDmaXfer b c)).toNat ≤ i → t.localGet b space hw (loc + i) = leNat (s.dramRun (da + i * u - dramBase) u) % unitMask space pack))
    ∧ (∀ ag (h : Fin 8) (v : Word) (a plen : Nat), s.reachesBench ag b = true → ownChannel ag h = true → v.toNat.testBit 14 = true →
      s.undefAt (Adr.benchCmpGo b h) = false → s.flag (Adr.benchCmpStat b h) 0 = false → (bits v.toNat 13 12 = 1 ∨ bits v.toNat 13 12 = 2) →
      a = (s.reg (Adr.benchCmpBlock b h)).toNat →
      plen = (if bits v.toNat 13 12 = 1 then bits ((s.sharedRun b a 20).getD 19 0).toNat 12 0 else 0) →
      plen ≤ 4096 → a + 20 + plen ≤ 0x100000 →
      ∃ (t : State), ∃ j, exec (.cmpGo ag b h v) s = .next t ∧ t.fld (Adr.benchCmpStat b h) 2 0 = 1 ∧ t.cmpJob b h = some j
        ∧ j.entry = v.toNat % 4096 ∧ j.result = bits v.toNat 13 12 ∧ j.block = s.sharedRun b a 20
        ∧ j.payload = s.sharedRun b (a + 20) plen)
    ∧ (∀ (h : Fin 8) j e, s.cmpJob b h = some j → (j.result = 1 ∨ j.result = 2) → s.ent j.entry = some e → e.st = .decode →
      e.shadow = none →
      ∃ (t : State), exec (.cmpCopyDone b h) s = .next t ∧ t.fld (Adr.benchCmpStat b h) 2 0 = 2 ∧ t.cmpJob b h = none
        ∧ t.slotOf j.entry = some (resOfBlock j.block j.payload)
        ∧ ((s.reg Adr.riddleBenches).toNat.testBit b = true →
            t.ent j.entry = some { e with st := .held, done := j.result, shadow := none })
        ∧ ((s.reg Adr.riddleBenches).toNat.testBit b = false → t.ent j.entry = some e))

/-- Completion of HEWER_RUN, HEWER_STOP, HEWER_HALT, HEWER_RESET, CLRSTK, MA_DATA_ACCESS, MA_DATAH_WRITE, SW_READ, SW_WRITE and SW_REQUEST_DONE (R282 to R286). RUN 1 makes a hewer issue, one of a bench that runs the symbology firmware go on with it; RUN 0 makes it halt, at a bundle boundary with no delay bundle pending and no bundle begun, where it stops with everything else as it is. RESET of a halted hewer clears its D, A and accumulator registers, its flags and ILLOP (Hewer.reset says the rest) and sets PC to START, leaving its memories; CLRSTK clears the sticky bits and leaves PC, the D registers and RUN. With the named hewer halted where it is a hewer's memory, MA_DATA writes or returns the entry at MA_ADDR and steps it, wrapping past the end; a read of instruction memory latches the upper bits for its reader. A request of the system window waits with its place, at most 8; done, it is counted in DONE and has read or written the four bytes of DRAM it names. -/
def Obligations.HewerControl : Prop :=
  ∀ (s : State) (b h : Fin 8),
    (∀ ag : Agent, onFabric ag = true → s.writable ag (Adr.benchHctrl b h) 1 = true →
      ∃ (t : State), exec (.hewerRun ag b h) s = .next t ∧ t.flag (Adr.benchHctrl b h) 0 = true
        ∧ (s.fwRuns b = false →
            t.core (8 * b.val + h.val) = { s.core (8 * b.val + h.val) with running := true, halting := false })
        ∧ (s.fwRuns b = true → t.core (8 * b.val + h.val) = { s.core (8 * b.val + h.val) with fwOff := false }
            ∧ t.hewerRuns (8 * b.val + h.val) = true))
    ∧ (∀ ag : Agent, onFabric ag = true → s.writable ag (Adr.benchHctrl b h) 0 = true →
      ∃ (t : State), exec (.hewerStop ag b h) s = .next t ∧ t.flag (Adr.benchHctrl b h) 0 = false
        ∧ (s.fwRuns b = false → t.core (8 * b.val + h.val)
            = { s.core (8 * b.val + h.val) with halting := (s.core (8 * b.val + h.val)).running })
        ∧ (s.fwRuns b = true → t.core (8 * b.val + h.val) = { s.core (8 * b.val + h.val) with fwOff := true }))
    ∧ (∀ c : Core, (s.core (coreIdx c)).running = true → (s.core (coreIdx c)).halting = true → (s.core (coreIdx c)).branch = [] → (s.core (coreIdx c)).haltIn = none →
      (s.core (coreIdx c)).raw = [] →
      ∃ (t : State), exec (.hewerHalt c) s = .next t ∧ t.core (coreIdx c)
          = { s.core (coreIdx c) with running := false, halting := false })
    ∧ (∀ ag : Agent, onFabric ag = true → s.writable ag (Adr.benchHctrl b h) (s.hctrlWord b h 2) = true →
      s.runBit (8 * b.val + h.val) = false → (s.core (8 * b.val + h.val)).running = false →
      ∃ (t : State), exec (.hewerReset ag b h) s = .next t
        ∧ t.core (8 * b.val + h.val) = (s.core (8 * b.val + h.val)).reset (s.fld (Adr.benchStart b h) 14 0)
        ∧ (t.core (8 * b.val + h.val)).d = [] ∧ (t.core (8 * b.val + h.val)).a = [] ∧ (t.core (8 * b.val + h.val)).acc = []
        ∧ (t.core (8 * b.val + h.val)).fl = {} ∧ (t.core (8 * b.val + h.val)).illop = false
        ∧ (t.core (8 * b.val + h.val)).dmem = (s.core (8 * b.val + h.val)).dmem
        ∧ (t.core (8 * b.val + h.val)).imem = (s.core (8 * b.val + h.val)).imem
        ∧ (t.core (8 * b.val + h.val)).pc.toNat = s.fld (Adr.benchStart b h) 14 0)
    ∧ (∀ ag : Agent, onFabric ag = true → s.writable ag (Adr.benchHctrl b h) (s.hctrlWord b h 4) = true →
      ∃ (t : State), exec (.clrstk ag b h) s = .next t ∧ (t.core (8 * b.val + h.val)).illop = false
        ∧ (t.core (8 * b.val + h.val)).sat = false ∧ (t.core (8 * b.val + h.val)).dz = false
        ∧ (t.core (8 * b.val + h.val)).illadr = 0 ∧ (t.core (8 * b.val + h.val)).pc = (s.core (8 * b.val + h.val)).pc
        ∧ (t.core (8 * b.val + h.val)).d = (s.core (8 * b.val + h.val)).d
        ∧ t.runBit (8 * b.val + h.val) = s.runBit (8 * b.val + h.val))
    ∧ (∀ (ag : Agent) (space hw a : Nat), onFabric ag = true → space = s.fld (Adr.benchMaSel b) 1 0 → hw = s.fld (Adr.benchMaSel b) 4 2 →
      a = (s.reg (Adr.benchMaAddr b)).toNat % maSize space + (if space = 0 then 0x80000 else 0) →
      (space = 0 ∨ s.hewerRuns (8 * b.val + hw) = false) →
      (∀ w : Word, s.writable ag (Adr.benchMaData b) w = true →
        ∃ (t : State), exec (.maDataAccess ag b (some w)) s = .next t
          ∧ t.localGet b space hw a = w.toNat + (if space = 2 then 2 ^ 20 * (s.reg (Adr.benchMaDatah b)).toNat else 0)
          ∧ (t.reg (Adr.benchMaAddr b)).toNat = ((s.reg (Adr.benchMaAddr b)).toNat % maSize space + 1) % maSize space)
      ∧ (s.on (benchPd b) = true → s.undefAt (Adr.benchMaData b) = false →
        ∃ (t : State), exec (.maDataAccess ag b none) s = .next t
          ∧ (t.rdVal (readerOf ag)).toNat = s.localGet b space hw a % 2 ^ 20
          ∧ (space = 2 → (t.latched (latchKey (readerOf ag) (Adr.benchMaDatah b))).toNat = s.localGet b space hw a / 2 ^ 20)
          ∧ (t.reg (Adr.benchMaAddr b)).toNat = ((s.reg (Adr.benchMaAddr b)).toNat % maSize space + 1) % maSize space
          ∧ t.benches = s.benches ∧ t.cores = s.cores))
    ∧ (∀ (ag : Agent) (v : Word), onFabric ag = true → s.writable ag (Adr.benchMaDatah b) v = true →
      ∃ (t : State), exec (.maDatahWrite ag b v) s = .next t ∧ t.reg (Adr.benchMaDatah b) = v)
    ∧ (s.on 1 = true → s.swq.length < 8 →
      (∃ q : SwReq, exec .swRead s = .next (s.setSwq (s.swq ++ [q])) ∧ q.wr = none ∧ q.pos < 8
        ∧ q.addr.toNat = (s.reg Adr.foremanSwAddrL).toNat + 2 ^ 20 * (s.reg Adr.foremanSwAddrH).toNat)
      ∧ (∃ q : SwReq, exec .swWrite s = .next (s.setSwq (s.swq ++ [q])) ∧ q.wr = some (s.reg Adr.foremanSwWdata) ∧ q.pos < 8
        ∧ q.addr.toNat = (s.reg Adr.foremanSwAddrL).toNat + 2 ^ 20 * (s.reg Adr.foremanSwAddrH).toNat))
    ∧ (s.on 1 = true → 8 ≤ s.swq.length → exec .swRead s = .next (s.setFlag Adr.foremanSwStatusCfgerr 0 true)
      ∧ exec .swWrite s = .next (s.setFlag Adr.foremanSwStatusCfgerr 0 true))
    ∧ (∀ (q : SwReq) (rest : List SwReq), s.swq = q :: rest → q.pos < 8 → s.on 7 = true → dramBase ≤ q.addr.toNat →
      q.addr.toNat + 4 ≤ dramBase + dramSize →
      ∃ (t : State), exec .swRequestDone s = .next t ∧ t.swq = rest ∧ t.reg Adr.foremanSwDone = s.reg Adr.foremanSwDone + 1
        ∧ (q.wr = none → t.reg (Adr.foremanSwRdata q.pos) = s.dramWord (q.addr.toNat - dramBase) ∧ t.dram = s.dram)
        ∧ (∀ w, q.wr = some w → t.dramRun (q.addr.toNat - dramBase) 4 = leBytes w.toNat 4))

/-- Completion of the 35 AL commands (alSyls: alNop, mov, add, sub, neg, abs, addc, subc, and, or, xor, andn, not, cmp, tst, min, max, minu, maxu, shl, shr, sar, rol, clz, crcs, par, brev, dadd, dadc, dsub, dsbc, dsl, dsr, d2b, b2d) as a bundle of one syllable with STOP on a core at the start of a bundle (R269, R297 to R302, R309 to R311). The result of the operation on its operands stands in DST in the next bundle, in an A register for an address form; cmp and tst deliver none. Z, N, C and V are those of the result unless NF is set or the form is an address form; SAT and DZ only rise. No other register, accumulator or memory changes, and the next bundle is the next syllable. -/
def Obligations.AlCompletes : Prop :=
  ∀ (s : State) (c : Core) (y : Syl) (ext : Option Word) (o : TOp) (mk : SylCmd) (h : Hewer) (r : Res),
    (o, mk) ∈ alSyls → h = s.core (coreIdx c) → h.fresh → o.formed y ext →
    r = alRes o (h.srcA y) (h.srcB o y ext) h.fl.c (satOf y) →
    ∃ (t : State) (g : Hewer), exec (mk c y ext true) s = .next t ∧ t.core (coreIdx c) = g ∧ g.moved h (coreKind (coreIdx c)) (sylLen ext)
      ∧ g.marked h y r ∧ g.flight = [] ∧ g.dmem = h.dmem ∧ g.acc = h.acc
      ∧ (∀ n, g.dr n = if y.ad = false ∧ n = y.dst then r.v.getD (h.dr n) else h.dr n)
      ∧ (∀ n, g.ar n = if y.ad = true ∧ n.toNat % 16 = y.dst.toNat % 16 then r.v.getD (h.ar n) else h.ar n)
      ∧ (∀ k, k ≠ coreIdx c → t.core k = s.core k) ∧ t.regs = s.regs ∧ t.benches = s.benches ∧ t.boxes = s.boxes ∧ t.free = s.free

/-- Completion of the 17 MU commands that work, mul, mulu, fmul, muCrcs, muPar, muBrev, divq, divr, fdiv, mpya, fmpya, mac, msu, fmac, fmsu, clra, movta and ext, and of the nops muNop, lsNop and brNop, as a bundle of one syllable with STOP (R269, R303, R309, R316 to R322). The result lands 3 bundles later, for the DIVQ group 12 bundles later, in DST, or in accumulator DST mod 4; the flags are written at once, but none by the accumulating operations; registers and memory are as before until it lands. -/
def Obligations.MuCompletes : Prop :=
  ∀ (s : State) (c : Core) (y : Syl) (ext : Option Word) (h : Hewer), h = s.core (coreIdx c) → h.fresh →
    (∀ o mk r lat, ((o, mk) ∈ mulSyls ∧ lat = 3 ∨ (o, mk) ∈ divSyls ∧ lat = 12) → o.formed y ext →
      r = muRes o (h.dr y.sa) (h.srcB o y ext) (rndOf y) (satOf y) →
      ∃ (t : State) (g : Hewer) (w : Word), exec (mk c y ext true) s = .next t ∧ t.core (coreIdx c) = g ∧ r.v = some w
        ∧ g.moved h (coreKind (coreIdx c)) (sylLen ext) ∧ g.marked h y r
        ∧ g.flight = [{ tgt := .d y.dst.toNat, val := .word w, land := h.cyc + lat }]
        ∧ g.d = h.d ∧ g.a = h.a ∧ g.acc = h.acc ∧ g.dmem = h.dmem ∧ t.regs = s.regs ∧ t.benches = s.benches)
    ∧ (∀ o mk v, (o, mk) ∈ accSyls → o.formed y ext → v = accRes o (h.dr y.sa) (h.srcB o y ext) →
      ∃ (t : State) (g : Hewer), exec (mk c y ext true) s = .next t ∧ t.core (coreIdx c) = g
        ∧ g.moved h (coreKind (coreIdx c)) (sylLen ext) ∧ g.marked h y { fl := accFlags v }
        ∧ g.flight = [{ tgt := .acc (y.dst.toNat % 4), val := v, land := h.cyc + 3 }]
        ∧ g.d = h.d ∧ g.a = h.a ∧ g.acc = h.acc ∧ g.dmem = h.dmem ∧ t.regs = s.regs ∧ t.benches = s.benches)
    ∧ (∀ r, TOp.ext.formed y ext → r = extRes (h.accr y.sa) (eshOf y) (rndOf y) (satOf y) →
      ∃ (t : State) (g : Hewer) (w : Word), exec (.ext c y ext true) s = .next t ∧ t.core (coreIdx c) = g ∧ r.v = some w
        ∧ g.moved h (coreKind (coreIdx c)) (sylLen ext) ∧ g.marked h y r
        ∧ g.flight = [{ tgt := .d y.dst.toNat, val := .word w, land := h.cyc + 3 }]
        ∧ g.d = h.d ∧ g.a = h.a ∧ g.acc = h.acc ∧ g.dmem = h.dmem ∧ t.regs = s.regs ∧ t.benches = s.benches)
    ∧ (∀ o mk, (o, mk) ∈ nopSyls → o.formed y ext →
      ∃ (t : State) (g : Hewer), exec (mk c y ext true) s = .next t ∧ t.core (coreIdx c) = g
        ∧ g.moved h (coreKind (coreIdx c)) (sylLen ext) ∧ g.fl = h.fl ∧ g.sat = h.sat ∧ g.dz = h.dz ∧ g.illop = h.illop
        ∧ g.flight = [] ∧ g.d = h.d ∧ g.a = h.a ∧ g.acc = h.acc ∧ g.dmem = h.dmem)

/-- Completion of ld, st, b, jr, call, loop, loopi, halt, LOOP_END and UNDEFINED_SYLLABLE as a bundle of their own on a core at the start of a bundle (R264, R266, R267, R269, R297, R304, R305, R325 to R331). The address is that of the addressing mode; a load from own memory lands 3 bundles later, a store to it stands at once, any other access goes to the port; the address register's update stands in the next bundle. A branch whose condition holds, a jump or a call has its target pending behind two delay bundles, the call's link being the address after the second; one whose condition fails changes nothing. A loop sets its first and last addresses and its count. The last bundle of a loop goes round while the count is above 1 and ends it at 1. halt is pending behind the two bundles. An undefined syllable sets ILLOP, with the bundle's address in ILLADR unless ILLOP was set, and does nothing else. -/
def Obligations.LsBrCompletes : Prop :=
  ∀ (s : State) (c : Core) (y : Syl) (ext : Option Word) (h : Hewer) (ck : CoreKind) (a n : Nat) (upd : Option Word),
    h = s.core (coreIdx c) → h.calm → h.flight = [] → ck = coreKind (coreIdx c) → a = (h.address y ext).1.toNat →
    upd = (h.address y ext).2 → n = sylLen ext →
    (TOp.ld.formed y ext → ∃ (t : State) (g : Hewer), exec (.ld c y ext true) s = .next t ∧ t.core (coreIdx c) = g ∧ g.fl = h.fl ∧ g.d = h.d
      ∧ g.dmem = h.dmem ∧ g.pc.toNat = (h.pc.toNat + n) % ck.imem ∧ g.acc = h.acc ∧ t.benches = s.benches
      ∧ (∀ m, g.ar m = if m.toNat % 16 = y.sa.toNat % 16 then upd.getD (h.ar m) else h.ar m)
      ∧ (a < ck.own → g.ports = [] ∧ g.flight = [{
            tgt := if y.ad then .a (y.dst.toNat % 16) else .d y.dst.toNat, land := h.cyc + 3,
            val := .word (SMap.get (fun _ => (0 : Word)) h.dmem a) }])
      ∧ (ck.own ≤ a → g.flight = [] ∧ g.ports = [{
            addr := a, wr := none, tgt := some (if y.ad then .a (y.dst.toNat % 16) else .d y.dst.toNat),
            at_ := h.cyc + 4, land := h.cyc + (if ck.shared ≤ a then 8 else 12) }]))
    ∧ (TOp.st.formed y ext → ∃ (t : State) (g : Hewer), exec (.st c y ext true) s = .next t ∧ t.core (coreIdx c) = g ∧ g.fl = h.fl ∧ g.d = h.d
      ∧ g.flight = [] ∧ g.pc.toNat = (h.pc.toNat + n) % ck.imem ∧ g.acc = h.acc ∧ t.benches = s.benches
      ∧ (∀ m, g.ar m = if m.toNat % 16 = y.sa.toNat % 16 then upd.getD (h.ar m) else h.ar m)
      ∧ (a < ck.own → g.ports = [] ∧ ∀ x, SMap.get (fun _ => (0 : Word)) g.dmem x
            = if x = a then (if y.ad then h.ar y.dst else h.dr y.dst) else SMap.get (fun _ => (0 : Word)) h.dmem x)
      ∧ (ck.own ≤ a → g.dmem = h.dmem ∧ (g.ports.map (fun p => (p.addr, p.wr))) = [(a, some (if y.ad then h.ar y.dst else h.dr y.dst))]))
    ∧ (TOp.b.formed y ext → ∃ (t : State) (g : Hewer), exec (.b c y ext true) s = .next t ∧ t.core (coreIdx c) = g ∧ g.fl = h.fl ∧ g.d = h.d
      ∧ g.a = h.a ∧ g.dmem = h.dmem ∧ g.pc.toNat = (h.pc.toNat + n) % ck.imem
      ∧ g.branch = if condHolds y.dst.toNat h.fl h.sat h.dz then
          [(2, if y.sb = 1 then (ext.getD 0).toNat % ck.imem else (((h.pc.toNat : Int) + y.md.toInt) % (ck.imem : Int)).toNat)] else [])
    ∧ (TOp.jr.formed y ext → ∃ (t : State) (g : Hewer), exec (.jr c y ext true) s = .next t ∧ t.core (coreIdx c) = g ∧ g.fl = h.fl ∧ g.d = h.d
      ∧ g.a = h.a ∧ g.dmem = h.dmem ∧ g.pc.toNat = (h.pc.toNat + n) % ck.imem
      ∧ g.branch = if condHolds y.dst.toNat h.fl h.sat h.dz then [(2, (h.dr y.sa).toNat % ck.imem)] else [])
    ∧ (TOp.call.formed y ext →
      SMap.get (fun _ => (0 : BitVec 40)) h.imem ((h.pc.toNat + n) % ck.imem) = 0x8000000000 →
      SMap.get (fun _ => (0 : BitVec 40)) h.imem ((h.pc.toNat + n + 1) % ck.imem) = 0x8000000000 →
      ∃ (t : State) (g : Hewer), exec (.call c y ext true) s = .next t ∧ t.core (coreIdx c) = g ∧ g.fl = h.fl ∧ g.a = h.a ∧ g.dmem = h.dmem
      ∧ g.pc.toNat = (h.pc.toNat + n) % ck.imem
      ∧ g.branch = [(2, if y.sb = 1 then (ext.getD 0).toNat % ck.imem
          else (((h.pc.toNat : Int) + y.md.toInt) % (ck.imem : Int)).toNat)]
      ∧ ∀ m, g.dr m = if m = y.dst then BitVec.ofNat 20 ((h.pc.toNat + n + 2) % ck.imem) else h.dr m)
    ∧ (∀ l cnt, l = y.dst.toNat % 4 → y.md ≠ 0 →
      (∀ i, (i = .loop c y ext true ∧ TOp.loop.formed y ext ∧ cnt = h.dr y.sa)
        ∨ (i = .loopi c y ext true ∧ TOp.loopi.formed y ext ∧ cnt = BitVec.ofNat 20 (y.sb.toNat + 32 * y.sa.toNat)) →
        ∃ (t : State) (g : Hewer), exec i s = .next t ∧ t.core (coreIdx c) = g ∧ g.loops = [l] ∧ g.lcv l = cnt.toNat
          ∧ g.lbv l = (h.pc.toNat + n) % ck.imem ∧ g.lev l = (h.pc.toNat + y.md.toNat) % ck.imem ∧ g.d = h.d ∧ g.fl = h.fl
          ∧ g.pc.toNat = (h.pc.toNat + n) % ck.imem))
    ∧ (TOp.halt.formed y ext → ∃ (t : State) (g : Hewer), exec (.halt c y ext true) s = .next t ∧ t.core (coreIdx c) = g ∧ g.haltIn = some 2
      ∧ g.running = true ∧ g.d = h.d ∧ g.fl = h.fl ∧ g.pc.toNat = (h.pc.toNat + n) % ck.imem)
    ∧ (∀ sl, ∃ (t : State) (g : Hewer), exec (.undefinedSyllable c sl true) s = .next t ∧ t.core (coreIdx c) = g ∧ g.illop = true
      ∧ g.illadr = (if h.illop then h.illadr else h.pc) ∧ g.d = h.d ∧ g.a = h.a ∧ g.acc = h.acc ∧ g.fl = h.fl ∧ g.sat = h.sat
      ∧ g.dmem = h.dmem ∧ g.ports = [] ∧ g.branch = [] ∧ g.flight = [] ∧ g.pc.toNat = (h.pc.toNat + 1) % ck.imem)
    ∧ ∀ (s' : State) (l : Nat), s' = s.setCore (coreIdx c) { h with loops := [l] } → h.lev l = h.pc.toNat →
      (1 < h.lcv l → ∃ (t : State) (g : Hewer), exec (.loopEnd c) s' = .next t ∧ t.core (coreIdx c) = g ∧ g.pc.toNat = h.lbv l
        ∧ g.lcv l = h.lcv l - 1 ∧ g.loops = [l] ∧ g.d = h.d ∧ g.fl = h.fl)
      ∧ (h.lcv l = 1 → ∃ (t : State) (g : Hewer), exec (.loopEnd c) s' = .next t ∧ t.core (coreIdx c) = g
        ∧ g.pc.toNat = (h.pc.toNat + 1) % ck.imem ∧ g.lcv l = 0 ∧ g.loops = [] ∧ g.d = h.d ∧ g.fl = h.fl)

/-- A syllable without STOP that is not the seventh of a slot nor the ninth of its bundle only joins it, with its extension syllable before it: until the bundle ends no register, flag, accumulator, memory or sticky bit of the core and nothing else in the engine changes (R269, R295, R306), for every AL, MU, LS and BR command. At the end of a later bundle, here a nop, the results due land: words in their D and A registers, an accumulator value or a term in its accumulator; two due for one register leave a free value there (R270). A branch whose delay bundles have passed goes to its target (R326), and a halt stops the hewer with RUN 0 (R305). -/
def Obligations.BundlesStageAndLand : Prop :=
  (∀ (s : State) (c : Core) (y : Syl) (ext : Option Word) (o : TOp) (mk : SylCmd) (h : Hewer),
    (o, mk) ∈ allSyls →
    h = s.core (coreIdx c) → h.running = true → h.halting = false → slotCount h.raw < 6 → h.raw.length + sylLen ext < 9 →
    exec (mk c y ext false) s
      = .next (s.setCore (coreIdx c) { h with raw := h.raw ++ (ext.toList.map .ext ++ [.slot (some o) y]) }))
  ∧ ∀ (s : State) (c : Core) (h : Hewer), h = s.core (coreIdx c) →
    (h.calm → (∀ f ∈ h.flight, f.land ≤ h.cyc + 1) →
      (h.flight.Pairwise (fun f g => f.tgt ≠ g.tgt) →
        ∃ (t : State) (g : Hewer), exec (.alNop c nopSyl none true) s = .next t ∧ t.core (coreIdx c) = g ∧ g.flight = []
          ∧ t.free = s.free ∧ g.fl = h.fl
          ∧ (∀ (n : Nat) (w : Word) (l : Nat), (⟨.d n, .word w, l⟩ : Flight) ∈ h.flight → SMap.get (fun _ => (0 : Word)) g.d n = w)
          ∧ (∀ (n : Nat) (w : Word) (l : Nat), (⟨.a n, .word w, l⟩ : Flight) ∈ h.flight → SMap.get (fun _ => (0 : Word)) g.a n = w)
          ∧ (∀ (n : Nat) (v : BitVec 48) (l : Nat), (⟨.acc n, .accSet v, l⟩ : Flight) ∈ h.flight →
              SMap.get (fun _ => (0 : BitVec 48)) g.acc n = v)
          ∧ (∀ (n : Nat) (p : Int) (l : Nat), (⟨.acc n, .accAdd p, l⟩ : Flight) ∈ h.flight →
              SMap.get (fun _ => (0 : BitVec 48)) g.acc n = SMap.get (fun _ => (0 : BitVec 48)) h.acc n + BitVec.ofInt 48 p)
          ∧ (∀ n : Nat, (∀ f ∈ h.flight, f.tgt ≠ .d n) →
              SMap.get (fun _ => (0 : Word)) g.d n = SMap.get (fun _ => (0 : Word)) h.d n))
      ∧ (∀ (n : Nat) (v w : Word) (l l' : Nat), h.flight = [(⟨.d n, .word v, l⟩ : Flight), ⟨.d n, .word w, l'⟩] →
        ∃ (t : State), exec (.alNop c nopSyl none true) s = .next t ∧ t.free = s.free + 1
          ∧ SMap.get (fun _ => (0 : Word)) (t.core (coreIdx c)).d n = BitVec.ofNat 20 (Config.freeNat s.free)))
    ∧ (∀ b : Nat, h.running = true → h.halting = false → h.cur = {} → h.raw = [] → h.ports = [] → h.flight = [] → h.haltIn = none → h.loops = [] →
      h.branch = [(1, b)] → b < 2 ^ 16 → ∃ (t : State), exec (.alNop c nopSyl none true) s = .next t
        ∧ (t.core (coreIdx c)).pc.toNat = b ∧ (t.core (coreIdx c)).branch = [] ∧ (t.core (coreIdx c)).running = true)
    ∧ (h.running = true → h.halting = false → h.cur = {} → h.raw = [] → h.ports = [] → h.flight = [] → h.haltIn = some 1 → h.loops = [] →
      h.branch = [] → ∃ (t : State), exec (.alNop c nopSyl none true) s = .next t ∧ (t.core (coreIdx c)).running = false
        ∧ (t.core (coreIdx c)).d = h.d ∧ (t.core (coreIdx c)).fl = h.fl
        ∧ ∀ (b i : Fin 8), c = .hewer b i → t.flag (Adr.benchHctrl b i) 0 = false)

/-- Every row of R313's table: neg and abs of 0x8_0000, add, mul, fmul, shl, shr, sar and ext at the ends of their ranges in the modular and the saturating form, division by 0 and the divisions outside the range, and the accumulator, which wraps modulo 2 to the 48. Z, N, C and V are those of R310: N where the word delivered is negative, and for shr the C of R314. An accumulating operation writes no flag. -/
def Obligations.ArithmeticEdges : Prop :=
  (∀ c, alRes .neg 0x80000 0 c false = { v := some 0x80000, fl := some { n := true, v := true } }
    ∧ alRes .abs 0x80000 0 c false = { v := some 0x80000, fl := some { n := true, v := true } }
    ∧ alRes .add 0x7FFFF 1 c false = { v := some 0x80000, fl := some { n := true, v := true } }
    ∧ alRes .shl 1 20 c false = { v := some 0, fl := some { z := true, c := true, v := true } }
    ∧ alRes .neg 0x80000 0 c true = { v := some 0x7FFFF, fl := some { v := true }, sat := true }
    ∧ alRes .abs 0x80000 0 c true = { v := some 0x7FFFF, fl := some { v := true }, sat := true }
    ∧ alRes .add 0x7FFFF 1 c true = { v := some 0x7FFFF, fl := some { v := true }, sat := true }
    ∧ alRes .shl 1 20 c true = { v := some 0x7FFFF, fl := some { c := true, v := true }, sat := true }
    ∧ ∀ f, alRes .shl 0 63 c f = { v := some 0, fl := some { z := true } }
      ∧ ∀ b, 20 ≤ countOf b → alRes .sar 0x80000 b c f = { v := some 0xFFFFF, fl := some { n := true, c := true } })
  ∧ (∀ a b c f r, 20 ≤ countOf b → alRes .shr a b c f = r → r.v = some 0 ∧ r.sat = false
      ∧ ∀ x, r.fl = some x → x.z = true ∧ x.n = false ∧ x.v = false)
  ∧ (∀ rnd, muRes .mul 0x1000 0x1000 rnd false = { v := some 0, fl := some { z := true, v := true } }
    ∧ muRes .mul 0x1000 0x1000 rnd true = { v := some 0x7FFFF, fl := some { v := true }, sat := true }
    ∧ muRes .fmul 0x80000 0x80000 rnd false = { v := some 0x80000, fl := some { n := true, v := true } }
    ∧ muRes .fmul 0x80000 0x80000 rnd true = { v := some 0x7FFFF, fl := some { v := true }, sat := true }
    ∧ extRes 0x008000000000 20 rnd false = { v := some 0x80000, fl := some { n := true, v := true } }
    ∧ extRes 0x008000000000 20 rnd true = { v := some 0x7FFFF, fl := some { v := true }, sat := true }
    ∧ ∀ f, muRes .divq 5 0 rnd f = { v := some 0x7FFFF, fl := some {}, dz := true }
      ∧ muRes .divr 5 0 rnd f = { v := some 5, fl := some {}, dz := true }
      ∧ muRes .divq 0xFFFFB 0 rnd f = { v := some 0x80000, fl := some { n := true }, dz := true }
      ∧ muRes .divr 0xFFFFB 0 rnd f = { v := some 0xFFFFB, fl := some { n := true }, dz := true }
      ∧ muRes .divq 0x80000 0xFFFFF rnd f = { v := some 0x7FFFF, fl := some { v := true } }
      ∧ muRes .divr 0x80000 0xFFFFF rnd f = { v := some 0, fl := some { z := true } }
      ∧ muRes .fdiv 0x40000 0x20000 rnd f = { v := some 0x7FFFF, fl := some { v := true } }
      ∧ muRes .fdiv 0x80000 0x40000 rnd f = { v := some 0x80000, fl := some { n := true, v := true } }
      ∧ muRes .fdiv 0 0 rnd f = { v := some 0x7FFFF, fl := some {}, dz := true })
  ∧ ∀ (h : Hewer) (n : Nat) (a b : Word) (l : Nat),
      accFlags (accRes .mac a b) = none
      ∧ SMap.get (fun _ => (0 : BitVec 48)) (h.landOne { tgt := .acc n, val := accRes .mac a b, land := l }).acc n
        = BitVec.ofInt 48 ((SMap.get (fun _ => (0 : BitVec 48)) h.acc n).toInt + a.toInt * b.toInt)

/-- The results of R311, R312, R314, R315, R319, R323 and R324 in plain terms, over all operands. add, sub, addc, subc and mul deliver the low 20 bits of the exact result, or its nearer end of the range in the saturating form, with V and SAT exactly when it lies outside; C of add is the carry, of sub no borrow. brev turns bit i into bit 19 - i, clz counts the leading zeros, par the ones modulo 2, shr divides, rol keeps every bit. Rounding truncates, rounds half up, to even or towards zero. Decimal addition and subtraction of valid digits are those of the numbers modulo 100,000 with C as carry and no borrow, and b2d writes the digits that d2b reads. -/
def Obligations.WordResults : Prop :=
  (∀ (a b : Word) (c f : Bool) (o : TOp) (exact : Int) (co : Bool), (o, exact, co) ∈ [
      (TOp.add, a.toInt + b.toInt, decide (2 ^ 20 ≤ a.toNat + b.toNat)),
      (.addc, a.toInt + b.toInt + b2n c, decide (2 ^ 20 ≤ a.toNat + b.toNat + b2n c)),
      (.sub, a.toInt - b.toInt, decide (b.toNat ≤ a.toNat)),
      (.subc, a.toInt - b.toInt - b2n (!c), decide (b.toNat + b2n (!c) ≤ a.toNat)),
      (.neg, -a.toInt, decide (a = 0))] →
    ∃ (w : Word), ∃ out, alRes o a b c f = { v := some w, fl := some { z := w == 0, n := w.msb, c := co, v := out }, sat := f && out }
      ∧ out = decide (exact < -524288 ∨ 524287 < exact)
      ∧ (f = false → w = BitVec.ofInt 20 exact) ∧ (f = true → w.toInt = max (-524288) (min 524287 exact)))
  ∧ (∀ (a b : Word) (c f : Bool), (alRes .add a b c false).v = some (a + b) ∧ (alRes .sub a b c false).v = some (a - b)
      ∧ (alRes .cmp a b c f).v = none ∧ (alRes .cmp a b c f).fl = (alRes .sub a b c false).fl
      ∧ (∀ w, (alRes .min a b c f).v = some w → w.toInt = min a.toInt b.toInt)
      ∧ (∀ w, (alRes .maxu a b c f).v = some w → w.toNat = max a.toNat b.toNat)
      ∧ (∀ w, (alRes .brev a b c f).v = some w → ∀ i < 20, w.getLsbD i = a.getLsbD (19 - i))
      ∧ (∀ w, (alRes .clz a b c f).v = some w → w.toNat ≤ 20 ∧ a.toNat < 2 ^ (20 - w.toNat) ∧ (w.toNat < 20 → 2 ^ (19 - w.toNat) ≤ a.toNat))
      ∧ (∀ w, (alRes .par a b c f).v = some w → w.toNat = ((List.range 20).filter (fun i => a.getLsbD i)).length % 2)
      ∧ (∀ w, (alRes .shr a b c f).v = some w → w.toNat = a.toNat / 2 ^ (b.toNat % 64))
      ∧ (∀ w, (alRes .sar a b c f).v = some w → w.toInt = a.toInt / 2 ^ (b.toNat % 64))
      ∧ (∀ w, (alRes .rol a b c f).v = some w → ∀ i < 20, w.getLsbD ((i + b.toNat % 64) % 20) = a.getLsbD i))
  ∧ (∀ (n : Int) (k : Nat), roundQ 0 n (2 ^ k) = n / 2 ^ k
      ∧ (∀ j, k = j + 1 → roundQ 1 n (2 ^ k) = (n + 2 ^ j) / 2 ^ k)
      ∧ (∀ r, r = 2 ∨ r = 3 → 2 * (roundQ r n (2 ^ k) * 2 ^ k - n).natAbs ≤ 2 ^ k)
      ∧ (2 * (roundQ 2 n (2 ^ k) * 2 ^ k - n).natAbs = 2 ^ k → roundQ 2 n (2 ^ k) % 2 = 0)
      ∧ (2 * (roundQ 3 n (2 ^ k) * 2 ^ k - n).natAbs = 2 ^ k → (roundQ 3 n (2 ^ k) * 2 ^ k).natAbs < n.natAbs))
  ∧ (∀ x y : Nat, x < 100000 → y < 100000 →
      let a : Word := BitVec.ofNat 20 (packDec x)
      let b : Word := BitVec.ofNat 20 (packDec y)
      daddRes a b false false = decRes (packDec ((x + y) % 100000)) (decide (100000 ≤ x + y)) false false
      ∧ dsubRes a b false false = decRes (packDec ((100000 + x - y) % 100000)) (decide (y ≤ x)) false false
      ∧ (d2bRes a).v = some (BitVec.ofNat 20 x) ∧ b2dRes (BitVec.ofNat 20 x) false = decRes (packDec x) false false false)

/-- Completion of MBX_TX, MBX_TXL, MBX_RX, WEDGE_CLAIM, WEDGE_RELEASE, MBX_FLUSH, MBX_FORCE and CONSOLE_POLL (R333 to R346, R372, R373). At an end that is the agent's: a push joins the outgoing queue with its LAST mark, and into a full queue of 8 only sets TXOVF; a read of RX takes the oldest incoming word, and from an empty queue gives 0 and sets RXUND; a read of a free wedge returns 0 and makes the reader its owner, of a held one returns the owner; 0 from the owner frees it and any other write leaves it; FLUSH empties both queues and FORCE frees the wedge. At another agent's end nothing happens and a read gives 0. The poll moves the one word that waits for an idle console channel into the channel's buffer, and the one character that a channel has to say into its empty box; the boxes of leased benches it leaves alone. -/
def Obligations.MailboxesAndConsoles : Prop :=
  ∀ (s : State) (ag : Agent) (n : Fin 80) (far : Bool),
    (s.boxOpen ag n far = true →
      (∀ v, ((s.box n).side far).out.length < 8 →
        exec (.mbxTx ag n far v) s
            = .next (s.setBox n ((s.box n).put far { (s.box n).side far with out := ((s.box n).side far).out ++ [(v, false)] }))
          ∧ exec (.mbxTxl ag n far v) s
            = .next (s.setBox n ((s.box n).put far { (s.box n).side far with out := ((s.box n).side far).out ++ [(v, true)] })))
      ∧ (∀ v, 8 ≤ ((s.box n).side far).out.length → ∃ (t : State), exec (.mbxTx ag n far v) s = .next t
          ∧ exec (.mbxTxl ag n far v) s = .next t ∧ ((t.box n).side far).txovf = true
          ∧ ((t.box n).side far).out = ((s.box n).side far).out ∧ (t.box n).side (!far) = (s.box n).side (!far))
      ∧ (∀ w l q, (s.box n).incoming far = (w, l) :: q → ∃ (t : State), exec (.mbxRx ag n far) s = .next t
          ∧ t.rdVal (readerOf ag) = w.setWidth 32 ∧ (t.box n).incoming far = q ∧ (t.box n).side far = (s.box n).side far
          ∧ (t.box n).wedge = (s.box n).wedge)
      ∧ ((s.box n).incoming far = [] → ∃ (t : State), exec (.mbxRx ag n far) s = .next t ∧ t.rdVal (readerOf ag) = 0
          ∧ ((t.box n).side far).rxund = true ∧ (t.box n).incoming far = [])
      ∧ (∀ als, (s.box n).wedge < 128 → ∃ (t : State), exec (.wedgeClaim ag n far als) s = .next t
          ∧ t.rdVal (readerOf ag) = BitVec.ofNat 32 (s.box n).wedge
          ∧ (t.box n).wedge = (if (s.box n).wedge = 0 then ownerNo ag far als else (s.box n).wedge)
          ∧ (t.box n).near = (s.box n).near ∧ (t.box n).far = (s.box n).far)
      ∧ (∀ als v, ∃ (t : State), exec (.wedgeRelease ag n far als v) s = .next t
          ∧ (t.box n).wedge = (if v = 0 ∧ (s.box n).wedge = ownerNo ag far als then 0 else (s.box n).wedge)
          ∧ (t.box n).near = (s.box n).near ∧ (t.box n).far = (s.box n).far)
      ∧ (far = true → ∃ (t : State) (u : State), exec (.mbxFlush ag n) s = .next t ∧ (t.box n).near.out = [] ∧ (t.box n).far.out = []
          ∧ (t.box n).wedge = (s.box n).wedge ∧ exec (.mbxForce ag n) s = .next u ∧ (u.box n).wedge = 0
          ∧ (u.box n).near = (s.box n).near ∧ (u.box n).far = (s.box n).far))
    ∧ (s.boxOpen ag n far = false → ∀ v, exec (.mbxTx ag n far v) s = .next s ∧ exec (.mbxTxl ag n far v) s = .next s
        ∧ exec (.mbxRx ag n far) s = .next (s.ret ag 0)
        ∧ ∀ als, exec (.wedgeClaim ag n far als) s = .next (s.ret ag 0) ∧ exec (.wedgeRelease ag n far als v) s = .next s)
    ∧ (s.inRun = true → s.on 1 = true → ∃ (t : State), exec .consolePoll s = .next t
        ∧ (∀ (k : Fin 8) w l, (s.chan (2 + k.val)).inp = [] → (s.chan (2 + k.val)).out = [] → (s.box (72 + k.val)).near.out = [(w, l)] →
          (t.chan (2 + k.val)).inp = ((consoleChars w).foldl CmdChan.take (s.chan (2 + k.val))).inp ∧ (t.box (72 + k.val)).near.out = [])
        ∧ (∀ (k : Fin 8) c, (s.chan (2 + k.val)).out = [c] → (s.box (72 + k.val)).near.out = [] → (s.box (72 + k.val)).far.out = [] →
          (t.chan (2 + k.val)).out = [] ∧ (t.box (72 + k.val)).far.out = [(BitVec.ofNat 20 (0x10000 + c.toNat), c == 0x0A)])
        ∧ ∀ m : Fin 72, (s.bench (boxBench m)).leased = true → t.box m = s.box m)

/-- Completion of UART_CHAR_RECEIVED, UART_RECEIVER_REARM, UART_RX_READ, UART_TX_WRITE, UART_CHAR_SENT, UART_DE_TAIL_END and UART_SERVICE_POLL (R385 to R394). A start bit that the samples deny is counted as a glitch; a data character that the port hears and is not muted to joins the receive FIFO as its RX word, and after a framing error the receiver waits for a high sample. A read takes the oldest word, or 0. A character written waits in the transmit FIFO or, on an idle enabled line, is being sent, with DE of UART0 active; sent, the next follows, or UART0 holds DE for its tail if it has one. The poll, with no echo, overrun or queued text, reads the one character of the FIFO into the command line, and gives an idle transmitter the one character of the output. -/
def Obligations.SerialPorts : Prop :=
  ∀ (s : State) (u : Fin 2),
    (∀ l, s.uartHears u = true → (s.uart u).waitHigh = false →
      (majority l 0 = true → ∃ (t : State), exec (.uartCharReceived u l) s = .next t ∧ (t.uart u).rx = (s.uart u).rx
        ∧ (t.reg (Adr.uartGlitchCnt u)).toNat = min ((s.reg (Adr.uartGlitchCnt u)).toNat + 1) 0xFFFFF)
      ∧ (∀ w, majority l 0 = false → w = (s.frame u).word l → w.toNat.testBit 8 = false → s.uartMuted u = false →
        (s.uart u).rx.length < 32 → ∃ (t : State), exec (.uartCharReceived u l) s = .next t ∧ (t.uart u).rx = (s.uart u).rx ++ [w]
          ∧ (t.uart u).waitHigh = w.toNat.testBit 10 ∧ (t.uart u).tx = (s.uart u).tx))
    ∧ (∃ (t : State), exec (.uartReceiverRearm u) s = .next t ∧ (t.uart u).waitHigh = false ∧ (t.uart u).rx = (s.uart u).rx)
    ∧ (∀ ag, s.on 0 = true →
      (∀ w q, (s.uart u).rx = w :: q → ∃ (t : State), exec (.uartRxRead ag u) s = .next t ∧ t.rdVal (readerOf ag) = w.setWidth 32
        ∧ (t.uart u).rx = q)
      ∧ ((s.uart u).rx = [] → exec (.uartRxRead ag u) s = .next (s.ret ag 0)))
    ∧ (∀ ag (v : Word), s.writable ag (Adr.uartTx u) v = true → s.flag (Adr.uartFmt u) 0 = false →
      (∀ c, (s.uart u).shift = some c → (s.uart u).tx.length < 32 → ∃ (t : State), ∃ x, exec (.uartTxWrite ag u v) s = .next t
        ∧ (t.uart u).tx = (s.uart u).tx ++ [x] ∧ (t.uart u).shift = some c ∧ x.toNat % 256 = v.toNat % 256)
      ∧ ((s.uart u).shift = none → (s.uart u).tx = [] → s.flag (Adr.uartCtrl u) 0 = true → s.inRun = true →
        ∃ (t : State), ∃ x, exec (.uartTxWrite ag u v) s = .next t ∧ (t.uart u).tx = [] ∧ (t.uart u).shift = some x
          ∧ x.toNat % 256 = v.toNat % 256 ∧ (u = 0 → (t.uart u).de = .active))
      ∧ (32 ≤ (s.uart u).tx.length → exec (.uartTxWrite ag u v) s = .next (s.setFlag (Adr.uartStatus u) 15 true)))
    ∧ (∀ c, (s.uart u).shift = some c →
      ((s.uart u).tx = [] → ∃ (t : State), exec (.uartCharSent u) s = .next t ∧ (t.uart u).sent = (s.uart u).sent ++ [c]
        ∧ (t.uart u).shift = none ∧ (t.uart u).tx = []
        ∧ (t.uart u).de = (if u = 0 ∧ s.fld (Adr.uartDe u) 15 8 ≠ 0 then .tail else .idle))
      ∧ (∀ d q, (s.uart u).tx = d :: q → s.flag (Adr.uartCtrl u) 0 = true → s.inRun = true →
        ∃ (t : State), exec (.uartCharSent u) s = .next t ∧ (t.uart u).sent = (s.uart u).sent ++ [c]
          ∧ (t.uart u).shift = some ((s.frame u).cut d)
          ∧ (t.uart u).tx = q))
    ∧ ((s.uart 0).de = .tail → ∃ (t : State), exec .uartDeTailEnd s = .next t ∧ (t.uart 0).de = .idle ∧ (t.uart 0).sent = (s.uart 0).sent)
    ∧ (s.inRun = true → s.flag (Adr.uartStatus u) 14 = false → (s.chan (uartChan u)).textq = [] →
      (s.chan (uartChan u)).echo = false →
      (∀ w, (s.uart u).rx = [w] → w.toNat.testBit 9 = false → w.toNat.testBit 10 = false → (s.chan (uartChan u)).out = [] →
        (u = 0 → w.toNat.testBit 8 = false ∧ (s.flag (Adr.uartFmt 0) 1 = false ∨ (s.chan 1).addressed = true)) →
        ∃ (t : State), exec (.uartServicePoll u) s = .next t ∧ (t.uart u).rx = []
          ∧ (t.chan (uartChan u)).inp = ((s.chan (uartChan u)).take (BitVec.ofNat 8 w.toNat)).inp)
      ∧ (∀ b : BitVec 9, (s.uart u).rx = [] → (s.chan (uartChan u)).out = [b] → b.toNat < 256 → (s.uart u).tx = [] →
        (s.uart u).shift = none → s.flag (Adr.uartCtrl u) 0 = true → s.flag (Adr.uartFmt u) 0 = false →
        ∃ (t : State), exec (.uartServicePoll u) s = .next t ∧ (t.chan (uartChan u)).out = [] ∧ (t.uart u).shift = some b))

/-- Completion of SPOIL_REPORT, SPOIL_HANDLE, BENCH_RESTART_DONE, HANG_DETECT and SYS_RECOV_GO (R422 to R429, R438). A report of a class and unit with no open entry is written as a new entry with the outcome of its class, TIME and DETAIL; with 64 entries it is only counted as lost; with an open entry it merges, its repetitions counted. A lasting fault in FAB, PCI or MEMC that is reported in Boot enters Reset with cause 6 (R26). With no unit released, the oldest unhandled entry is taken in hand: a class that is only logged is handled as logged; a Kerf with PARITY and no transient outcome before that fails its repetition is out of service with its enable 0, one that passes is enabled as before. A bench whose restart after HANG fails is retired, one that passes is not. A hewer of a bench that is not leased and that holds a ticket 1 ms past its deadline is reported as a new HANG entry where none is open and the log has room. With GO in Boot while NOIMG is 1, a recovery record that passes its check runs in place of the missing image, NOIMG clear and bit 4 of SYS.BOOT set; one that fails sets BADREC. -/
def Obligations.SpoilAndRecovery : Prop :=
  ∀ s : State, (∀ b : Fin 8, (s.bench b).restart = none) →
    (∀ (cls : SpoilClass) (u : BitVec 8) (out : SpoilOutcome) (d : BitVec 80), s.powered = true →
      (s.pw.st = .boot → lastingIsland cls u.toNat (reportOutcome cls out) = true →
        ∃ (t : State), exec (.spoilReport cls u out d) s = .next t ∧ t.pw.st = .reset ∧ t.pw.cause = 6)
      ∧ (s.pw.st ≠ .boot ∨ lastingIsland cls u.toNat (reportOutcome cls out) = false →
      (s.spoil.ents.any (·.isOpen cls u) = false → s.spoil.ents.length < 64 → ∃ (t : State), ∃ e : SpoilEnt, exec (.spoilReport cls u out d) s = .next t
        ∧ t.spoil.ents = s.spoil.ents ++ [e] ∧ e.cls = cls ∧ e.unit_ = u ∧ e.st = .new ∧ e.rep = 1
        ∧ e.out = reportOutcome cls out ∧ e.time = s.tm ∧ e.detail = d ∧ t.spoil.lost = s.spoil.lost ∧ t.regs = s.regs)
      ∧ (s.spoil.ents.any (·.isOpen cls u) = false → 64 ≤ s.spoil.ents.length → ∃ (t : State), exec (.spoilReport cls u out d) s = .next t
        ∧ t.spoil.ents = s.spoil.ents ∧ t.spoil.lost.toNat = min (s.spoil.lost.toNat + 1) 0xFFFFF)
      ∧ (s.spoil.ents.any (·.isOpen cls u) = true → ∃ (t : State), exec (.spoilReport cls u out d) s = .next t
        ∧ t.spoil.ents.length = s.spoil.ents.length ∧ t.spoil.lost = s.spoil.lost
        ∧ ∀ (i : Nat) (e : SpoilEnt), s.spoil.ents[i]? = some e → ∃ x : SpoilEnt, t.spoil.ents[i]? = some x ∧ x.st = e.st ∧ x.time = e.time
          ∧ x.rep = if e.isOpen cls u then min (e.rep + 1) 0x3FFFF else e.rep)))
    ∧ (∀ (r : Bool) (i : Nat) (e : SpoilEnt), s.inRun = true → s.spoil.ents.zipIdx.find? (fun e => e.1.st != .handled) = some (e, i) → e.st = .new →
      (retryOf e.cls = .none_ → e.cls ≠ .pwrOc → s.released = [] → ∃ (t : State), exec (.spoilHandle r) s = .next t
        ∧ t.spoil.ents = s.spoil.ents.set i { e with out := .logged, st := .handled } ∧ t.spoil.out = s.spoil.out
        ∧ t.regs = s.regs)
      ∧ (∀ k : Fin 8, e.cls = .parity → e.unit_ = BitVec.ofNat 8 (0x20 + k.val) → s.released = [] → s.on 4 = true →
        s.undefAt (Adr.kerfCtrlEn k) = false → s.spoil.transients = [] →
        (r = false → ∃ (t : State), exec (.spoilHandle r) s = .next t ∧ t.outOfService (0x20 + k.val) = true
          ∧ t.flag (Adr.kerfCtrlEn k) 0 = false ∧ t.spoil.ents = s.spoil.ents.set i { e with out := .lasting, st := .handled })
        ∧ (r = true → ∃ (t : State), exec (.spoilHandle r) s = .next t ∧ t.spoil.out = s.spoil.out
          ∧ t.flag (Adr.kerfCtrlEn k) 0 = s.flag (Adr.kerfCtrlEn k) 0
          ∧ t.spoil.ents = s.spoil.ents.set i { e with out := .transient, st := .handled })))
    ∧ (∀ (b : Fin 8) (e : SpoilEnt) (i : Nat) (s' : State), s' = s.setBench b { s.bench b with restart := some false } → s.spoil.transients = [] →
      s.spoil.ents.zipIdx.find? (fun e => e.1.st == .inhand && e.1.unit_.toNat == 0x30 + b.val) = some (e, i) → e.out = .pending →
      (∃ (t : State), exec (.benchRestartDone b true) s' = .next t ∧ (t.bench b).restart = none ∧ t.retired b = s.retired b
        ∧ t.spoil.ents = s.spoil.ents.set i { e with out := .transient, st := .handled })
      ∧ (e.cls = .hang → ∃ (t : State), exec (.benchRestartDone b false) s' = .next t ∧ (t.bench b).restart = none ∧ t.retired b = true))
    ∧ (∀ (b h : Fin 8) (i : Nat) (e : Entry), s.inRun = true → (s.bench b).leased = false → s.hung (8 * b.val + h.val) = some (i, e) →
      s.spoil.ents.any (·.isOpen .hang (BitVec.ofNat 8 (0x30 + b.val))) = false → s.spoil.ents.length < 64 →
      ∃ (t : State), ∃ x : SpoilEnt, exec (.hangDetect b h) s = .next t ∧ t.spoil.ents = s.spoil.ents ++ [x] ∧ x.cls = .hang ∧ x.fw = true
        ∧ x.unit_ = BitVec.ofNat 8 (0x30 + b) ∧ x.st = .new ∧ x.out = .pending ∧ x.time = s.tm)
    ∧ ∀ (ag : Agent) (v : Word), s.writable ag Adr.sysRecov v = true → v.toNat.testBit 19 = true → s.flag Adr.sysBoot 2 = true → s.pw.st = .boot →
      (recValid 6 (s.recovRecord (v.toNat % 2 ^ 19 * 4096)) = true → ∃ (t : State), exec (.sysRecovGo ag v) s = .next t
        ∧ t.flag Adr.sysBoot 2 = false ∧ t.flag Adr.sysBoot 4 = true ∧ t.dram = s.dram)
      ∧ (recValid 6 (s.recovRecord (v.toNat % 2 ^ 19 * 4096)) = false →
        exec (.sysRecovGo ag v) s = .next (s.setFlag Adr.sysBoot 5 true))

/-- Completion of CMD_ENC_MODE, CMD_ENC_FILTER, CMD_ENC_SPEED, CMD_ENC_INDEX, CMD_ENC_PRESET, CMD_ENC_WAKE and CMD_ENC_REPORT (R83, R355, R358). On a channel that serves commands, with the AON unit not released nor worked on by a long command and operands that convert within their ranges, each setting given stands in its register field and the command is answered ok; mode fields need a disabled encoder (R489), and index, preset and wake no reserved mode or edge in the register. A preset that no schedule or lock bars loads the count. The report returns the position as its first three values and clears the counters. -/
def Obligations.EncoderCommands : Prop :=
  ∀ (s : State) (ch : Chan) (e : Fin 4), s.ready ch .aon 0 →
    (∀ (md : Option Bool) (ed : Option (Fin 3)) (inv : Option Bool), s.flag (Adr.encCtrl e) 0 = false → ∃ (u : State), answers (.cmdEncMode ch e md ed inv) ch s u
      ∧ u.hasFld (Adr.encCtrl e) 2 1 (onOff md) ∧ u.hasFld (Adr.encCtrl e) 4 3 (ed.map Fin.val)
      ∧ u.hasFlag (Adr.encCtrl e) 5 inv)
    ∧ (∀ (q1 q2 : Option Qty) (m g : Option Nat), conv q1 (timeIn 0 0xFFFFF 5) = .ok m → conv q2 (fun q => q.count 0 0xFFFF) = .ok g →
      ∃ (u : State), answers (.cmdEncFilter ch e q1 q2) ch s u ∧ u.hasReg (Adr.encMinEdge e) m ∧ u.hasFld (Adr.encGlitchLim e) 15 0 g)
    ∧ (∀ (q1 q2 : Option Qty) (w t : Option Nat), conv q1 (timeIn 1 0xFFFFF 1000) = .ok w →
      conv q2 (timeIn 1 0xFFFFF 1000) = .ok t →
      ∃ (u : State), answers (.cmdEncSpeed ch e q1 q2) ch s u ∧ u.hasReg (Adr.encWindow e) w ∧ u.hasReg (Adr.encStandstill e) t)
    ∧ (∀ (q1 q2 : Option Qty) (p t : Option Nat) (snap fall : Option Bool), s.fld (Adr.encCtrl e) 4 3 ≤ 2 → s.fld (Adr.encCtrl e) 2 1 ≤ 1 →
      conv q1 (fun q => q.count 0 0xFFFFF) = .ok p → conv q2 (fun q => q.count 0 0xFFFF) = .ok t →
      ∃ (u : State), answers (.cmdEncIndex ch e q1 q2 snap fall) ch s u ∧ u.hasReg (Adr.encIndexPeriod e) p
        ∧ u.hasFld (Adr.encIndexTol e) 15 0 t ∧ u.hasFlag (Adr.encCtrl e) 7 snap ∧ u.hasFlag (Adr.encCtrl e) 6 fall)
    ∧ (∀ (q : Qty) (v : Nat), s.fld (Adr.encCtrl e) 4 3 ≤ 2 → s.fld (Adr.encCtrl e) 2 1 ≤ 1 → q.count 0 (2 ^ 48 - 1) = .ok v →
      s.presetBarred e = false → ∃ (u : State), answers (.cmdEncPreset ch e q) ch s u ∧ (u.enc e).count.toNat = v
        ∧ u.flag (Adr.encStatus e) 2 = false)
    ∧ (∀ on : Bool, s.fld (Adr.encCtrl e) 4 3 ≤ 2 → s.fld (Adr.encCtrl e) 2 1 ≤ 1 →
      ∃ (u : State), answers (.cmdEncWake ch e on) ch s u ∧ u.flag (Adr.encCtrl e) 8 = on)
    ∧ (∃ (u : State) (vals : List Int), exec (.cmdEncReport ch e) s = .next (u.respondOk ch (reportLines "enc" vals))
      ∧ vals.take 3 = [((s.enc e).count.toNat % 65536 : Nat), ((s.enc e).count.toNat / 65536 % 65536 : Nat),
          ((s.enc e).count.toNat / 2 ^ 32 % 65536 : Nat)]
      ∧ u.reg (Adr.encGlitchCnt e) = 0 ∧ u.reg (Adr.encSlipCnt e) = 0 ∧ u.reg (Adr.encIfaultCnt e) = 0
      ∧ u.reg (Adr.encSnapCnt e) = 0 ∧ (u.enc e).count = (s.enc e).count)

/-- Completion of CMD_TRG_SCHEDULE, CMD_TRG_SCHEDULE_ONOFF, CMD_TRG_HEAD, CMD_TRG_HEAD_ONOFF, CMD_TRG_STOPATSLAB, CMD_TRG_EVENT, CMD_TRG_EVENT_FLUSH, CMD_TRG_SYNC, CMD_TRG_SYNC_LOCK and CMD_TRG_SYNC_REPORT (R83). The settings given stand in their registers: pitch and origin of a schedule that is off, channel, delay, minimum interval and slab length less one of a head that is off, role, channel, latency and reset of SYNC while it has no role or takes off first; on and off write the enable and, of a head, clear SLABSTOP. An event ahead of the count joins a queue that is not full, flush empties it, lock of a master with a slave count sends LOOP and the report gives CTRL, LAT and STATUS. -/
def Obligations.TriggerCommands : Prop :=
  ∀ (s : State) (ch : Chan), s.ready ch .aon 0 →
    (∀ (c : Fin 4) (q : Option Qty) (o : Option Origin) (rev : Option Bool) (p : Option Nat), s.flag (Adr.trgcCtrl c) 0 = false →
      conv q (plainIn 0x10000 (2 ^ 36 - 1) 65536) = .ok p →
      (∀ a : Qty, o = some (.at a) → ∃ n : Nat, plainIn 0 (2 ^ 64 - 1) 65536 a = .ok n) →
      ∃ (u : State), answers (.cmdTrgSchedule ch c q o rev) ch s u ∧ u.hasReg (Adr.trgcPitchInt c) (p.map (· / 65536))
        ∧ u.hasFld (Adr.trgcPitchFrac c) 15 0 (p.map (· % 65536)) ∧ u.hasFlag (Adr.trgcCtrl c) 1 rev
        ∧ (o = some .here → u.flag (Adr.trgcCtrl c) 2 = true)
        ∧ ∀ (a : Qty) (n : Nat), o = some (.at a) → plainIn 0 (2 ^ 64 - 1) 65536 a = .ok n →
            u.flag (Adr.trgcCtrl c) 2 = false ∧ u.fld (Adr.trgcOrgF c) 15 0 + 2 ^ 16 * u.fld (Adr.trgcOrgL c) 15 0
              + 2 ^ 32 * u.fld (Adr.trgcOrgM c) 15 0 + 2 ^ 48 * u.fld (Adr.trgcOrgH c) 15 0 = n)
    ∧ (∀ (c : Fin 4) (on : Bool), ∃ (u : State), answers (.cmdTrgScheduleOnOff ch c on) ch s u ∧ u.flag (Adr.trgcCtrl c) 0 = on)
    ∧ (∀ (h : Fin 16) (c : Option (Fin 4)) (q1 q2 q3 : Option Qty) (d : Option Int) (m n : Option Nat), s.flag (Adr.trghCtrl h) 0 = false →
      conv q1 (fun q => do withinI (-8388608) 8388607 (← q.plain 1 1)) = .ok d →
      conv q2 (timeIn 0 0xFFFFF 5) = .ok m → conv q3 (fun q => q.count 1 8192) = .ok n →
      ∃ (u : State), answers (.cmdTrgHead ch h c q1 q2 q3) ch s u ∧ u.hasFld (Adr.trghCtrl h) 2 1 (c.map Fin.val)
        ∧ u.hasReg (Adr.trghMinInt h) m ∧ u.hasFld (Adr.trghSlab h) 12 0 (n.map (· - 1))
        ∧ ∀ x : Int, d = some x → ((u.fld (Adr.trghDelayL h) 15 0 + 65536 * u.fld (Adr.trghDelayH h) 7 0 : Nat) : Int) = x % 2 ^ 24)
    ∧ (∀ (h : Fin 16) (on : Bool), ∃ (u : State), answers (.cmdTrgHeadOnOff ch h on) ch s u ∧ u.flag (Adr.trghCtrl h) 0 = on
        ∧ u.flag (Adr.trghCtrl h) 3 = false)
    ∧ (∀ h : Fin 16, ∃ (u : State), answers (.cmdTrgStopatslab ch h) ch s u ∧ u.flag (Adr.trghCtrl h) 3 = true)
    ∧ (∀ (pin : Fin 8) (c : Fin 4) (q : Qty) (act : GpioAct) (late : Bool) (v : Nat) (a : Nat × Nat), q.count 0 (2 ^ 48 - 1) = .ok v → gpioAction act = .ok a →
      s.gpio.pend.length < 32 → 0 < diff48 (BitVec.ofNat 48 v) (s.enc c).count →
      ∃ (u : State), ∃ x : GpioEv, answers (.cmdTrgEvent ch pin c q act late) ch s u ∧ u.gpio.pend = s.gpio.pend ++ [x] ∧ x.pin.toNat = pin.val
        ∧ x.chan.toNat = c.val ∧ x.pos.toNat = v ∧ x.action.toNat = a.1 ∧ x.width.toNat = a.2)
    ∧ (∃ (u : State), answers (.cmdTrgEventFlush ch) ch s u ∧ u.gpio.pend = [])
    ∧ (∀ (role : Option SyncRoleCmd) (c : Option (Fin 4)) (lat : Option (Option Qty)) (re : Option Bool)
      (r : List (Nat × Nat × Option Nat)) (l : Option Nat), s.fld Adr.syncCtrl 1 0 = 0 ∨ role = some .off → syncRoleFields role = .ok r →
      conv (lat.getD none) (timeIn 0 4095 5) = .ok l →
      ∃ (u : State), answers (.cmdTrgSync ch role c lat re) ch s u ∧ u.hasFld Adr.syncLat 11 0 l
        ∧ u.hasFld Adr.syncCtrl 9 8 (c.map Fin.val) ∧ u.hasFlag Adr.syncCtrl 7 (lat.map Option.isSome)
        ∧ u.hasFlag Adr.syncCtrl 10 re ∧ (role = some .off → u.fld Adr.syncCtrl 1 0 = 0)
        ∧ (∀ (q : Qty) (n : Nat), role = some (.master q) → q.count 1 3 = .ok n → u.fld Adr.syncCtrl 5 0 = 1 + 16 * n)
        ∧ (∀ (q : Qty) (n : Nat), role = some (.slave q) → q.count 1 3 = .ok n → u.fld Adr.syncCtrl 3 0 = 2 + 4 * n))
    ∧ (s.fld Adr.syncCtrl 1 0 = 1 → s.fld Adr.syncCtrl 5 4 ≠ 0 → ∃ (u : State), ∃ n, answers (.cmdTrgSyncLock ch) ch s u
        ∧ u.sync.loop = some (n, s.time) ∧ u.sync.seq = n + 1 ∧ n = s.sync.seq)
    ∧ exec (.cmdTrgSyncReport ch) s = .next (s.respondOk ch
        (reportLines "trg sync" [s.num Adr.syncCtrl, s.num Adr.syncLat, s.num Adr.syncStatus]))

/-- Completion of CMD_SEQ_CHAN, CMD_SEQ_ONOFF, CMD_SEQ_STEP, CMD_SEQ_LEN, CMD_SEQ_COPY, CMD_SEQ_SWAP, CMD_SEQ_FIXED, CMD_SEQ_TALLY and CMD_SEQ_REPORT (R99). The channel is written while EN is 0; on needs exposures that fit the heads' intervals. A step, the length and a copy go to the bank not in use, while no swap is pending; swap, where the exposures of the other bank fit, toggles BANK, with ATMODE and AT where a point that AT can name is given. The fixed state and a served head's tally are written, and the report, of 202 values, begins with CTRL and clears WRAP_CNT. The bank that is copied holds a length of 1 to 48 and exposures of 20 or more. -/
def Obligations.SequencerCommands : Prop :=
  ∀ (s : State) (ch : Chan) (q : Fin 4), s.ready ch (.seq q) (facePd q) →
    (∀ e : Fin 4, s.flag (Adr.seqCtrl q) 0 = false → ∃ (u : State), answers (.cmdSeqChan ch q e) ch s u ∧ u.fld (Adr.seqCtrl q) 2 1 = e.val)
    ∧ (∀ on : Bool, on = false ∨ s.expFits q (s.seqBank q) = true →
      ∃ (u : State), answers (.cmdSeqOnOff ch q on) ch s u ∧ u.flag (Adr.seqCtrl q) 0 = on)
    ∧ (∀ (l : LightSet) (i p e : Option Nat), conv l.int (fun q => q.count 0 15) = .ok i → conv l.plane (fun q => q.count 0 3) = .ok p →
      conv l.exp (timeIn 20 0xFFFFF 5) = .ok e →
      (∀ (st : Qty) (k : Nat), st.count 0 47 = .ok k → (s.seq q).swap = false → ∃ (u : State), answers (.cmdSeqStep ch q st l) ch s u
        ∧ u.hasFld (stepLight q (s.freeBank q) k) 19 12 (l.chans.map chanBits) ∧ u.hasFld (stepLight q (s.freeBank q) k) 11 8 i
        ∧ u.hasFld (stepLight q (s.freeBank q) k) 7 6 p ∧ u.hasReg (stepExp q (s.freeBank q) k) e)
      ∧ ∃ (u : State), answers (.cmdSeqFixed ch q l) ch s u ∧ u.hasFld (Adr.seqFixed q) 19 12 (l.chans.map chanBits)
        ∧ u.hasFld (Adr.seqFixed q) 11 8 i ∧ u.hasFld (Adr.seqFixed q) 7 6 p ∧ u.hasReg (Adr.seqFixedExp q) e)
    ∧ (∀ (l : Qty) (n : Nat), l.count 1 48 = .ok n → (s.seq q).swap = false →
      ∃ (u : State), answers (.cmdSeqLen ch q l) ch s u ∧ u.seqLen q (s.freeBank q) = n)
    ∧ ((s.seq q).swap = false → 1 ≤ s.seqLen q (!s.freeBank q) → s.seqLen q (!s.freeBank q) ≤ 48 →
      (∀ i < 48, 20 ≤ (s.reg (stepExp q (!s.freeBank q) i)).toNat) →
      ∃ (u : State), answers (.cmdSeqCopy ch q) ch s u ∧ u.seqLen q (s.freeBank q) = s.seqLen q (!s.freeBank q)
        ∧ ∀ i < 48, u.fld (stepLight q (s.freeBank q) i) 19 6 = s.fld (stepLight q (!s.freeBank q) i) 19 6
          ∧ u.reg (stepExp q (s.freeBank q) i) = s.reg (stepExp q (!s.freeBank q) i))
    ∧ (∀ (o : Option Qty) (k : Option Nat), conv o (fun v => v.count 0 (2 ^ 48 - 1)) = .ok k → k.all (s.atNames q) = true →
      s.expFits q (!s.seqBank q) = true →
      ∃ (u : State), answers (.cmdSeqSwap ch q o) ch s u ∧ u.flag (Adr.seqCtrl q) 3 = (!s.seqBank q)
        ∧ u.flag (Adr.seqCtrl q) 8 = k.isSome
        ∧ ∀ x, k = some x → u.fld (Adr.seqAtL q) 15 0 + 65536 * u.fld (Adr.seqAtH q) 15 0 = x % 2 ^ 32)
    ∧ (∀ (h : Fin 16) (on : Bool), h.val / 4 = q.val →
      ∃ (u : State), answers (.cmdSeqTally ch q h on) ch s u ∧ u.flag (Adr.seqCtrl q) (4 + h.val % 4) = on)
    ∧ ∃ (u : State) (vals : List Int), exec (.cmdSeqReport ch q) s = .next (u.respondOk ch (reportLines "seq" vals)) ∧ u.reg (Adr.seqWrapCnt q) = 0
        ∧ vals.head? = some (s.num (Adr.seqCtrl q)) ∧ vals.length = 202 ∧ u.seqs = s.seqs

/-- Completion of CMD_PORT_LANES, CMD_PORT_IMG, CMD_PORT_EMB, CMD_PORT_ALIGN, CMD_PORT_FILL_TMO, CMD_PORT_ONOFF, CMD_PORT_I2C, CMD_PORT_I2C_RECOVER and CMD_PORT_REPORT (R106, R117, R121). On an owned port in service of a powered domain that neither a calibration nor a long command uses, the settings given stand in its registers: lanes and rate while it is off; image streams, and on, where R106 refuses neither filters nor the number of streams; off always; the alignment with an embedded stream on an image stream's VC, learn setting the learn state. With the controller idle, i2c starts the transaction with its address, lengths and bytes and holds the channel for the reply, and recover is answered ok; the report clears every counter. A register whose LANES is the reserved encoding is not spoken of where CTRL is written. -/
def Obligations.PortCommands : Prop :=
  ∀ (s : State) (ch : Chan) (p : Fin 16), s.ready ch (.port p) (portPd p) → s.calHolds (p / 4) = false →
    s.outOfService p = false →
    (∀ (q1 q2 : Option Qty) (n r : Option Nat), s.flag (Adr.portCtrl p) 0 = false → conv q1 (fun q => q.count 1 4) = .ok n →
      n ≠ some 3 → conv q2 (rateIn 80 4500) = .ok r → ∃ u : State, answers (.cmdPortLanes ch p q1 q2) ch s u
        ∧ u.hasFld (Adr.portCtrl p) 2 1 (n.map (· / 2)) ∧ u.hasFld (Adr.portPhyRate p) 12 0 r)
    ∧ (s.fld (Adr.portCtrl p) 2 1 ≠ 3 →
      (∀ (st : Fin 2) (q1 q2 : Option Qty) (dt : Option ImgDt) (on : Option Bool) (v w : Option Nat),
        conv q1 (fun q => q.count 0 15) = .ok v → conv q2 (fun q => q.count 1 16384) = .ok w →
        (s.imgEn p (1 - st) = false ∨ on = some false ∨ v.getD (s.filtVc p st) ≠ s.filtVc p (1 - st)) →
        s.imgCount p ≤ 3 → ∃ u : State, answers (.cmdPortImg ch p st q1 dt q2 on) ch s u ∧ u.hasFld (Adr.portFilt p st) 3 0 v
          ∧ u.hasFld (Adr.portFilt p st) 9 4 (dt.map imgDtCode) ∧ u.hasFld (Adr.portWidth p st) 13 0 (w.map (· - 1))
          ∧ u.hasFlag (Adr.portCtrl p) (4 + st.val) on)
      ∧ (∀ (q : Option Qty) (dt : Option EmbDt) (on : Option Bool) (v : Option Nat), conv q (fun q => q.count 0 15) = .ok v →
        ∃ u : State, answers (.cmdPortEmb ch p q dt on) ch s u ∧ u.hasFld (Adr.portEmbFilt p) 3 0 v
          ∧ u.hasFld (Adr.portEmbFilt p) 9 4 (dt.map embDtCode) ∧ u.hasFlag (Adr.portCtrl p) 6 on)
      ∧ (∀ (q : Option Qty) (on lsb : Option Bool) (ofs : Option CntOffset) (b o : Option Nat),
        conv q (fun q => q.count 0 1022) = .ok b →
        conv (match ofs with | some (.offset n) => some n | _ => none) (fun q => q.count 0 65535) = .ok o →
        (on = some true → s.embFits p = true) →
        ∃ u : State, answers (.cmdPortAlign ch p on q lsb ofs) ch s u ∧ u.hasFld (Adr.portCnt p) 9 0 b ∧ u.hasFlag (Adr.portCnt p) 10 lsb
          ∧ u.hasFld (Adr.portCntOfs p) 15 0 o ∧ u.hasFlag (Adr.portCtrl p) 7 on
          ∧ (ofs = some .learn → (u.port p).learn = true))
      ∧ (∀ on : Bool, (on = true → s.imgCount p ≤ 2
            ∧ (s.imgEn p 0 = false ∨ s.imgEn p 1 = false ∨ s.filtVc p 0 ≠ s.filtVc p 1 ∨ s.strDt p 0 ≠ s.strDt p 1)) → ∃ u : State, answers (.cmdPortOnOff ch p on) ch s u ∧ u.flag (Adr.portCtrl p) 0 = on))
    ∧ (∀ (q1 q2 q3 : Option Qty) (f a b : Option Nat), conv q1 (fun q => q.count 0 65535) = .ok f →
      conv q2 (timeIn 1 0xFFFFF 1000) = .ok a → conv q3 (timeIn 1 0xFFFFF 100000) = .ok b →
      ∃ u : State, answers (.cmdPortFillTmo ch p q1 q2 q3) ch s u ∧ u.hasFld (Adr.portFill p) 15 0 f ∧ u.hasReg (Adr.portTmoFs p) a
        ∧ u.hasReg (Adr.portTmoFe p) b)
    ∧ (s.i2cBusy p = false → s.flag (Adr.portI2cStatus p) 0 = false →
      (∀ (q : Qty) (wr : List Qty) (rd st : Option Qty) (sp : Option (Fin 3)) (a : Nat) (tx : List Nat) (r t : Option Nat),
        q.count 0 127 = .ok a → convAll (fun q => q.count 0 255) wr = .ok tx → tx.length ≤ 32 →
        conv rd (fun q => q.count 0 32) = .ok r → conv st (timeIn 1 255 1000000) = .ok t →
        ∃ (u : State) (j : I2cJob), exec (.cmdPortI2c ch p q wr rd sp st) s = .next u ∧ (u.chan ch).long = some (.i2c p (r.getD 0))
          ∧ (u.port p).i2c = some j ∧ j.addr.toNat = a ∧ j.wlen = tx.length ∧ j.rlen = r.getD 0
          ∧ j.tx = tx.map (BitVec.ofNat 8 ·))
      ∧ ∃ u : State, answers (.cmdPortI2cRecover ch p) ch s u ∧ u.i2cBusy p = false)
    ∧ ∃ (u : State) (vals : List Int), exec (.cmdPortReport ch p) s = .next (u.respondOk ch (reportLines "port" vals))
      ∧ vals.length = 24 ∧ ∀ a ∈ portCounters p, u.reg a = 0

/-- Completion of CMD_FACE_MODE, CMD_FACE_BLACK_OFFSET, CMD_FACE_BLACK_LOAD, CMD_FACE_BLACK_SWAP, CMD_FACE_DEFECT_LOAD, CMD_FACE_DEFECT_ADD, CMD_FACE_DEFECT_SWAP, CMD_FACE_DYNAMIC, CMD_FACE_FLAT_LOAD, CMD_FACE_FLAT_SWAP, CMD_FACE_WB, CMD_FACE_MATRIX, CMD_FACE_TONE_LOAD, CMD_FACE_TONE_SWAP, CMD_FACE_BYPASS and CMD_FACE_REPORT (R147). On an owned Face of a powered domain that neither a calibration nor a long command uses: settings given stand in the context's registers, mode, planes and delays of a disabled context for which the alignment store has room for any delay; a load or fill writes the entries it gives to the bank that is not in use, of which a load from a record is answered later (R364), and a swap selects that bank, while no swap is pending; a defect entry is added to the bank not in use that has a free one; the report, of 31 values, clears its counters. -/
def Obligations.FaceCorrectionCommands : Prop :=
  ∀ (s : State) (ch : Chan) (f c : Fin 4), s.ready ch (.face f) (facePd f) → s.calHolds f = false →
    (∀ (m : Option (Fin 3)) (pl : Option (List Qty)) (al : Option (Qty × Qty × Qty)) (p a : Option Nat),
      conv pl planeMask = .ok p →
      conv al (fun (r, g, b) => do return (← r.count 0 63) + 64 * (← g.count 0 63) + 4096 * (← b.count 0 63)) = .ok a →
      s.ctxEn f c = false → others c (fun d => s.alnUsed f d) + 4 * 252 * s.strWidth (s.ctxPort f c) (s.ctxStream f c) ≤ 2097152 →
      ∃ u : State, answers (.cmdFaceMode ch f c m pl al) ch s u ∧ u.hasFld (Adr.fctxCmode f c) 1 0 (m.map Fin.val)
        ∧ u.hasFld (Adr.fctxCmode f c) 5 2 p ∧ u.hasFld (Adr.fctxAlign f c) 17 0 a)
    ∧ (∀ (p : Fin 4) (q : Qty) (v : Int), (do withinI (-524288) 524287 (← q.plain 1 1)) = .ok v →
      ∃ u : State, answers (.cmdFaceBlackOffset ch f c p q) ch s u ∧ (u.reg (Adr.fctxGlob f c p)).toInt = v)
    ∧ (∀ (p : Fin 4) (n : Fin 3) (fl : TblFill) (es : List Word) (i : Instr) (kind ctx idx : Nat), (i, kind, ctx, idx) ∈ [
        (Instr.cmdFaceBlackLoad ch f c fl, 0, c.val, 0), (.cmdFaceFlatLoad ch f c p fl, 1, c.val, p.val),
        (.cmdFaceDefectLoad ch f fl, 2, 0, 0), (.cmdFaceToneLoad ch f c n fl, 3, c.val, n.val)] →
      s.fillEntries kind fl = .ok es → s.tblSettled f kind ctx = true →
      ∃ u : State, answersFill i fl ch s u ∧ u.bankSet f kind ctx = s.bankSet f kind ctx
        ∧ ∀ (e : Nat) (w : Word), e < tblLen kind → es[e]? = some w →
          SMap.get tblBoot (u.face f).tbl (tblKey kind ctx idx (!s.bankSet f kind ctx) e)
            = if kind = 0 ∨ kind = 3 then w &&& 0x0FFFF else w)
    ∧ (∀ (i : Instr) (kind ctx : Nat), (i, kind, ctx) ∈ [(Instr.cmdFaceBlackSwap ch f c, 0, c.val), (.cmdFaceFlatSwap ch f c, 1, c.val),
        (.cmdFaceDefectSwap ch f, 2, 0), (.cmdFaceToneSwap ch f c, 3, c.val)] → s.tblSettled f kind ctx = true →
      ∃ u : State, answers i ch s u ∧ u.bankSet f kind ctx = !s.bankSet f kind ctx)
    ∧ (∀ (q : Qty) (n : Nat) (m : DefMethod), q.count 0 16383 = .ok n → s.tblSettled f 2 0 = true →
      (∃ e < 8192, bits (SMap.get tblBoot (s.face f).tbl (tblKey 2 0 0 (!s.bankSet f 2 0) e)).toNat 3 2 = 0) →
      ∃ u : State, answers (.cmdFaceDefectAdd ch f c q m) ch s u ∧ u.bankSet f 2 0 = s.bankSet f 2 0
        ∧ ∃ e < 8192, (SMap.get tblBoot (u.face f).tbl (tblKey 2 0 0 (!s.bankSet f 2 0) e)).toNat = defectEntry c n m)
    ∧ (∀ (on : Option Bool) (q1 q2 : Option Qty) (hi lo : Option Nat), conv q1 (fun q => q.count 0 0xFFFFF) = .ok hi →
      conv q2 (fun q => q.count 0 0xFFFFF) = .ok lo → ∃ u : State, answers (.cmdFaceDynamic ch f c on q1 q2) ch s u
        ∧ u.hasReg (Adr.fctxDynHi f c) hi ∧ u.hasReg (Adr.fctxDynLo f c) lo ∧ u.hasFlag (Adr.fctxCmode f c) 8 (on.map not))
    ∧ (∀ (p : Fin 4) (r g b : Qty) (x y z : Nat), gainVal r = .ok x → gainVal g = .ok y → gainVal b = .ok z →
      ∃ u : State, answers (.cmdFaceWb ch f c p r g b) ch s u ∧ (u.reg (Adr.fctxWb f c (3 * p.val))).toNat = x
        ∧ (u.reg (Adr.fctxWb f c (3 * p.val + 1))).toNat = y ∧ (u.reg (Adr.fctxWb f c (3 * p.val + 2))).toNat = z)
    ∧ (∀ (m : List Qty) (v : List Int), m.length = 9 →
      convAll (fun q => do withinI (-524288) 524287 (← q.plain 32768 1)) m = .ok v →
      ∃ u : State, answers (.cmdFaceMatrix ch f c m) ch s u ∧ (matRegs f c).map (fun a => (u.reg a).toInt) = v)
    ∧ (∀ st : List Stage, ∃ u : State, answers (.cmdFaceBypass ch f c st) ch s u
      ∧ ∀ x : Stage, u.flag (Adr.fctxCmode f c) (6 + stageBit x) = st.contains x)
    ∧ ∃ (u : State) (vals : List Int), exec (.cmdFaceReport ch f) s = .next (u.respondOk ch (reportLines "face" vals))
      ∧ vals.length = 31 ∧ u.reg (Adr.faceDefOrder f) = 0 ∧ u.faces = s.faces
      ∧ ∀ d : Fin 4, u.reg (Adr.fctxDynCnt f d) = 0 ∧ u.reg (Adr.fctxPlaneDrop f d) = 0 ∧ u.reg (Adr.fctxWarm f d) = 0
          ∧ u.reg (Adr.fctxModeErr f d) = 0

/-- Completion of CMD_FACE_SOURCE, CMD_FACE_CTX_ONOFF, CMD_FACE_MV, CMD_FACE_DISP, CMD_FACE_CODE, CMD_FACE_OVERLAY and CMD_FACE_CTX_REPORT (R148, R160, R168). A source of a disabled context, with no other context enabled, is written, and one with a spool gets, while the pool has room, a region inside usable DRAM that overlaps no other allocation, in place of its old one; on enables a context that R148 does not refuse, off disables it; the settings of the outputs stand in their registers, DISP where the delay store has room for any delay; the report, of 13 values, clears its counters. -/
def Obligations.FaceSourceCommands : Prop :=
  ∀ (s : State) (ch : Chan) (f c : Fin 4), s.ready ch (.face f) (facePd f) → s.calHolds f = false →
    (∀ (p : Fin 16) (img1 inl : Bool) (q1 q2 : Option Qty) (stk : Option Bool) (n l : Option Nat), p.val / 4 = f.val →
      conv q1 (fun q => q.count 1 64) = .ok n → conv q2 (fun q => q.count 1 8192) = .ok l → s.ctxEn f c = false →
      (∀ (g d : Fin 4), (g, d) ≠ (f, c) → s.ctxEn g d = false) →
      (inl = true → q1 = none ∧ q2 = none) →
      (inl = false → s.slabSet p ≤ l.getD (s.spoolLines f c)
        ∧ (s.unalloc (s.dramAddr (Adr.fsrcSpoolBaseL f c) (Adr.fsrcSpoolBaseH f c))).room
            (n.getD (s.spoolSlabs f c) * l.getD (s.spoolLines f c)
              * spoolStride (s.strDt p (b2n img1)) (s.strWidth p (b2n img1)))
        ∧ 1 ≤ n.getD (s.spoolSlabs f c) ∧ n.getD (s.spoolSlabs f c) ≤ 64) →
      ∃ u : State, answers (.cmdFaceSource ch f c p img1 inl q1 q2 stk) ch s u ∧ u.ctxInline f c = inl ∧ u.ctxPort f c = p.val
        ∧ u.flag (Adr.fsrcSrc f c) 4 = img1 ∧ u.hasFlag (Adr.fsrcSrc f c) 5 stk ∧ u.ctxEn f c = false
        ∧ u.hasFld (Adr.fsrcSpool f c) 6 0 n ∧ u.hasFld (Adr.fsrcSpool f c) 19 7 (l.map (· - 1))
        ∧ (inl = false → dramBase ≤ (u.spoolRegion f c).1 ∧ (u.spoolRegion f c).1 + (u.spoolRegion f c).2 ≤ dramBase + dramSize
            ∧ ∃ o, u.pool = s.pool.filter (fun p => dramBase + p.1 ≠ s.dramAddr (Adr.fsrcSpoolBaseL f c) (Adr.fsrcSpoolBaseH f c)) ++ [o]
              ∧ dramBase + o.1 = (u.spoolRegion f c).1
              ∧ (bootRegions ++ u.pool.dropLast).all (fun p => !clash p o) = true))
    ∧ (∀ on : Bool, (on = true → s.outOfService (0x10 + f.val) = false ∧ (s.ctxEn f c = true ∨ s.enableRefused f c = false)) →
      ∃ u : State, answers (.cmdFaceCtxOnOff ch f c on) ch s u ∧ u.ctxEn f c = on)
    ∧ (∀ (pl : Option (List Qty)) (b16 : Option Bool) (p : Option Nat), conv pl planeMask = .ok p →
      ∃ u : State, answers (.cmdFaceMv ch f c pl b16) ch s u ∧ u.hasFld (Adr.fsrcMv f c) 3 0 p ∧ u.hasFlag (Adr.fsrcMv f c) 4 b16)
    ∧ (∀ (pl : Option Qty) (sc : Option (Qty × Qty)) (off : Bool) (p x : Option Nat), conv pl (fun q => q.count 0 3) = .ok p →
      conv sc scaleCodes = .ok x →
      (∀ (ov : Option Bool) (dl : Option Qty) (n : Option Nat), conv dl (fun q => q.count 0 255) = .ok n →
        others c (fun e => s.dlyUsed f e) + 255 * s.strWidth (s.ctxPort f c) (s.ctxStream f c) ≤ 524288 →
        ∃ u : State, answers (.cmdFaceDisp ch f c pl sc ov dl off) ch s u ∧ u.flag (Adr.fsrcDisp f c) 0 = !off
          ∧ u.hasFld (Adr.fsrcDisp f c) 2 1 p ∧ u.hasFld (Adr.fsrcDisp f c) 8 3 x ∧ u.hasFlag (Adr.fsrcDisp f c) 9 ov
          ∧ u.hasFld (Adr.fsrcDispDly f c) 7 0 n)
      ∧ ∃ u : State, answers (.cmdFaceCode ch f c pl sc off) ch s u ∧ u.flag (Adr.fsrcCode f c) 0 = !off
          ∧ u.hasFld (Adr.fsrcCode f c) 2 1 p ∧ u.hasFld (Adr.fsrcCode f c) 8 3 x)
    ∧ (∀ (cl : CandClass) (r g b : Qty) (x y z : Nat), r.count 0 63 = .ok x → g.count 0 63 = .ok y → b.count 0 63 = .ok z →
      ∃ u : State, answers (.cmdFaceOverlay ch f cl r g b) ch s u ∧ u.fld (ovlReg f cl) 17 0 = 4096 * x + 64 * y + z)
    ∧ ∃ (u : State) (vals : List Int), exec (.cmdFaceCtxReport ch f c) s = .next (u.respondOk ch (reportLines "face c" vals))
      ∧ vals.length = 13 ∧ u.reg (Adr.fsrcDrop f c) = 0 ∧ u.reg (Adr.fsrcInlOvf f c) = 0 ∧ u.reg (Adr.fsrcTrunc f c) = 0
      ∧ u.reg (Adr.fsrcStall f c) = 0 ∧ u.fctxs = s.fctxs

/-- Completion of CMD_SEAM_CTRL, CMD_SEAM_SRC, CMD_SEAM_VOTE, CMD_SEAM_DOT, CMD_SEAM_LINEAR, CMD_SEAM_GRID, CMD_SEAM_TOL and CMD_SEAM_REPORT (R190). On an owned Seam of the powered domain, operands within their ranges stand in its registers; a Seam in service is enabled or disabled, and a context is written where it has an enabled Face source, MAX and MIN with two planes, its enable where its planes are not those of MAX or MIN in the register or are given; the report of a context clears its counters. -/
def Obligations.SeamCommands : Prop :=
  ∀ (s : State) (ch : Chan) (v c : Fin 4), s.ready ch (.seam v) 4 →
    (∀ (on : Option Bool) (q1 q2 : Option Qty) (m h : Option Nat), s.outOfService (0x18 + v.val) = false →
      conv q1 (fun q => q.count 1 8) = .ok m → conv q2 (fun q => q.count 1 255) = .ok h →
      ∃ u : State, answers (.cmdSeamCtrl ch v on q1 q2) ch s u ∧ u.hasFlag (Adr.seamCtrl v) 0 on
        ∧ u.hasFld (Adr.seamCtrl v) 3 1 (m.map (· - 1)) ∧ u.hasFld (Adr.seamCtrl v) 11 4 h)
    ∧ (∀ (pl : Option SeamPlanes) (on : Option Bool) (l : List (Nat × Nat × Option Nat)), planeFields pl = .ok l →
      s.ctxEn v c = true → ∃ u : State, answers (.cmdSeamSrc ch v c pl on) ch s u
        ∧ (s.fld (Adr.sctxSrc v c) 2 1 = 0 ∨ pl ≠ none → u.hasFlag (Adr.sctxSrc v c) 0 on)
        ∧ (∀ (p : Qty) (n : Nat), pl = some (.single p) → p.count 0 3 = .ok n → u.fld (Adr.sctxSrc v c) 4 1 = 4 * n)
        ∧ (∀ (a b : Qty) (x y : Nat), a.count 0 3 = .ok x → b.count 0 3 = .ok y →
            (pl = some (.max a b) → u.fld (Adr.sctxSrc v c) 6 1 = 1 + 4 * x + 16 * y)
            ∧ (pl = some (.min a b) → u.fld (Adr.sctxSrc v c) 6 1 = 2 + 4 * x + 16 * y)))
    ∧ (∀ (q1 q2 q3 : Option Qty) (m n x : Option Nat), conv q1 (fun q => q.count 0 1530) = .ok m →
      conv q2 (fun q => q.count 0 256) = .ok n → conv q3 (fun q => q.count 0 391680) = .ok x →
      ∃ u : State, answers (.cmdSeamVote ch v q1 q2 q3) ch s u ∧ u.hasFld (Adr.seamMagMagMin v) 10 0 m
        ∧ u.hasFld (Adr.seamVotesNMin v) 8 0 n ∧ u.hasFld (Adr.seamMassMMin v) 18 0 x)
    ∧ (∀ (q1 q2 : Option Qty) (pol : Option (Fin 4)) (a m : Option Nat), conv q1 (fun q => q.count 1 255) = .ok a →
      conv q2 (fun q => q.count 1 256) = .ok m → ∃ u : State, answers (.cmdSeamDot ch v q1 q2 pol) ch s u
        ∧ u.hasFld (Adr.seamDot v) 7 0 a ∧ u.hasFld (Adr.seamDot v) 16 8 m ∧ u.hasFld (Adr.seamDot v) 18 17 (pol.map Fin.val))
    ∧ (∀ (q1 q2 : Option Qty) (a b : Option Nat), conv q1 (fun q => q.count 0 255) = .ok a →
      conv q2 (fun q => q.count 0 255) = .ok b →
      (∃ u : State, answers (.cmdSeamLinear ch v q1 q2) ch s u ∧ u.hasFld (Adr.seamLin v) 7 0 a ∧ u.hasFld (Adr.seamLin v) 15 8 b)
      ∧ ∃ u : State, answers (.cmdSeamGrid ch v q1 q2) ch s u ∧ u.hasFld (Adr.seamGrid v) 7 0 a ∧ u.hasFld (Adr.seamGrid v) 15 8 b)
    ∧ (∀ (q : Option Qty) (mt : Option (Qty × Qty × Qty)) (t m : Option Nat), conv q (fun q => q.count 0 7) = .ok t →
      conv mt (fun (l, g, d) => do return (← l.count 1 63) + 64 * (← g.count 1 63) + 4096 * (← d.count 1 63)) = .ok m →
      ∃ u : State, answers (.cmdSeamTol ch v q mt) ch s u ∧ u.hasFld (Adr.seamOriTol v) 2 0 t ∧ u.hasFld (Adr.seamMint v) 17 0 m)
    ∧ ∃ (u : State) (vals : List Int), exec (.cmdSeamReport ch v c) s = .next (u.respondOk ch (reportLines "seam" vals))
      ∧ vals.length = 14 ∧ u.reg (Adr.sctxCand v c) = 0 ∧ u.reg (Adr.sctxCandOvf v c) = 0 ∧ u.reg (Adr.sctxRegOvf v c) = 0
      ∧ u.reg (Adr.sctxSmall v c) = 0 ∧ u.reg (Adr.sctxRestart v c) = 0 ∧ u.reg (Adr.sctxUnpaired v c) = 0
      ∧ ∀ k < 6, u.reg (Adr.sctxCls v c k) = 0

/-- Completion of CMD_STOCK, CMD_STOCK_REPORT, CMD_RIDDLE_ONOFF, CMD_RIDDLE_COMMIT, CMD_RIDDLE_HEAD, CMD_RIDDLE_CHAN, CMD_RIDDLE_CALIBRATE, CMD_RIDDLE_JOIN, CMD_RIDDLE_DUP, CMD_RIDDLE_CLASS, CMD_RIDDLE_BENCH_AREA, CMD_RIDDLE_BENCH_ONOFF, CMD_KERF, CMD_RIDDLE_REPORT and CMD_KERF_REPORT (R193, R196, R197, R222). With PD4 on, not released and not worked on by a long command, operands in range stand in their registers; a stockpile that is enabled while the pool has room gets a region of usable DRAM, over no other allocation, and a new epoch; without a commit held, a commit applies the shadows or is held, and geometry is written; a calibration is a long command that writes the shadows of each head it can fit and of no other and begins its reads anew; a bench out of BENCHES takes a patch area that its patch slots fit; units in service are switched on and off; the reports clear the counters. -/
def Obligations.RiddleCommands : Prop :=
  ∀ (s : State) (ch : Chan) (h : Fin 16) (p : Fin 4), s.ready ch .rk 4 →
    (∀ (q : Option Qty) (d : Option Nat),
      conv q (fun q => do within 1 256 (← q.plain 1 256)) = .ok d →
      (∃ u : State, answers (.cmdStock ch h p q (some false)) ch s u ∧ u.stockEn h p = false
        ∧ u.hasFld (Adr.stockCtrl h p) 8 1 (d.map (· - 1)))
      ∧ (s.stockEn h p = false → s.outOfService 0x28 = false →
        (s.unalloc (s.stockBase h p)).room ((match d with | some n => 256 * n | none => s.stockDepth h p)
          * (stockStride (s.lumaWidth h) + 32)) →
        ∃ (u : State), ∃ o : Nat × Nat, answers (.cmdStock ch h p q (some true)) ch s u ∧ u.stockEn h p = true
          ∧ u.hasFld (Adr.stockCtrl h p) 8 1 (d.map (· - 1)) ∧ u.pool = s.pool.filter (fun r => dramBase + r.1 ≠ s.stockBase h p) ++ [o]
          ∧ dramBase + o.1 = u.stockBase h p ∧ (bootRegions ++ u.pool.dropLast).all (fun r => !clash r o) = true
          ∧ o.1 + o.2 ≤ dramSize ∧ u.stockDepth h p * (stockStride (s.lumaWidth h) + 32) ≤ o.2
          ∧ (u.stock (4 * h + p)).epoch = (s.stock (4 * h + p)).epoch + 1))
    ∧ (∃ (u : State) (vals : List Int), exec (.cmdStockReport ch h) s = .next (u.respondOk ch (reportLines "stock" vals))
      ∧ vals.length = 24 ∧ u.stocks = s.stocks ∧ u.regs = s.regs
      ∧ (vals.drop 1).take 2 = [((s.stock (4 * h)).newest.toNat % 65536 : Nat), ((s.stock (4 * h)).newest.toNat / 65536 : Nat)])
    ∧ (∀ on : Bool, (on = true → s.outOfService 0x1C = false ∧ s.outOfService 0x28 = false) →
      ∃ u : State, answers (.cmdRiddleOnOff ch on) ch s u ∧ u.flag Adr.riddleCtrlEn 0 = on)
    ∧ (s.riddle.gpend = false → ∃ u : State, answers (.cmdRiddleCommit ch) ch s u
      ∧ (s.geoHeld = true → u.riddle = { s.riddle with gpend := true })
      ∧ (s.geoHeld = false → u.riddle.gset = (!s.riddle.gset) ∧ u.riddle.gpend = false
          ∧ ∀ a ∈ geoRegs, u.geo u.riddle.gset a = (s.reg a).toNat))
    ∧ (∀ (g : Option (Qty × Qty × Qty)) (r : Option (Option (Fin 16))) (x : Option (Int × Int × Int)), s.riddle.gpend = false →
      conv g (fun (a, b, c) => do
        let x ← withinI (-8388608) 8388607 (← a.len 1 1)
        let y ← withinI (-8388608) 8388607 (← b.len 65536 1)
        let z ← withinI (-524288) 524287 (← c.plain (2 ^ 32) 1)
        return (x, y, z)) = .ok x →
      (∀ n : Fin 16, r = some (some n) → n ≠ h ∧ s.headChan n = s.headChan h) →
      ∃ u : State, answers (.cmdRiddleHead ch h g r) ch s u
        ∧ (∀ (a b c : Int), x = some (a, b, c) → u.hasShape h (a, b, c))
        ∧ (r = some none → u.fld (Adr.riddleGeoRight h) 4 0 = 0)
        ∧ ∀ n : Fin 16, r = some (some n) → u.fld (Adr.riddleGeoRight h) 4 0 = 16 + n.val)
    ∧ (∀ (e : Fin 4) (q : Qty) (v : Nat), s.riddle.gpend = false → (do within 1 0xFFFFF (← q.len 1024 1)) = .ok v →
      ∃ u : State, answers (.cmdRiddleChan ch e q) ch s u ∧ u.hasReg (Adr.riddleUpc e) (some v))
    ∧ (∀ (l : List (Fin 16)) (r : Option (Fin 16)), l ≠ [] →
      ∃ (u : State) (vals : List Int), exec (.cmdRiddleCalibrate ch l r) s = .next (u.setChan ch { u.chan ch with
          long := some (.work .calibrate (reportLines "riddle calibrate" vals ++ [bytesOf "ok"]) false .nothing) })
        ∧ u.riddle.target = [] ∧ vals.head? = l.head?.map (fun i => (i.val : Int))
        ∧ (∀ (i : Fin 16) (g : Int × Int × Int), i ∈ l → s.headFit i = some g → u.hasShape i g)
        ∧ ∀ i : Fin 16, i ∉ l ∨ s.headFit i = none → u.reg (Adr.riddleGeoA2 i) = s.reg (Adr.riddleGeoA2 i)
            ∧ u.reg (Adr.riddleGeoA1L i) = s.reg (Adr.riddleGeoA1L i) ∧ u.reg (Adr.riddleGeoA1H i) = s.reg (Adr.riddleGeoA1H i)
            ∧ u.reg (Adr.riddleGeoA0L i) = s.reg (Adr.riddleGeoA0L i) ∧ u.reg (Adr.riddleGeoA0H i) = s.reg (Adr.riddleGeoA0H i))
    ∧ (∀ (q1 q2 q3 q4 : Option Qty) (e a l t : Option Nat), conv q1 (fun q => q.count 0 255) = .ok e →
      conv q2 (fun q => do within 0 4095 (← q.angle 100 1)) = .ok a → conv q3 (fun q => q.count 0 0xFFFFF) = .ok l →
      conv q4 (timeIn 1 65535 1000000) = .ok t →
      ∃ u : State, answers (.cmdRiddleJoin ch q1 q2 q3 q4) ch s u ∧ u.hasFld Adr.riddleJoin 7 0 e ∧ u.hasFld Adr.riddleJoin 19 8 a
        ∧ u.hasReg Adr.riddleJoinLead l ∧ u.hasFld Adr.riddleJoinTmo 15 0 t)
    ∧ (∀ (q1 q2 : Option Qty) (w : Option (Option Qty)) (d a : Option Nat), conv q1 (fun q => do within 0 65535 (← q.len 1 1)) = .ok d →
      conv q2 (fun q => do within 0 4095 (← q.angle 100 1)) = .ok a →
      (∀ q : Qty, w = some (some q) → ∃ n : Nat, q.count 0 0xFFFFF = .ok n) →
      ∃ u : State, answers (.cmdRiddleDup ch q1 q2 w) ch s u ∧ u.hasFld Adr.riddleDupDist 15 0 d ∧ u.hasFld Adr.riddleDupAng 11 0 a
        ∧ (w = some none → u.reg Adr.riddleDupWin = 0)
        ∧ ∀ (q : Qty) (n : Nat), w = some (some q) → q.count 0 0xFFFFF = .ok n → (u.reg Adr.riddleDupWin).toNat = n)
    ∧ (∀ (cl : CandClass) (q1 q2 q3 : Option Qty) (bic : Option Bool) (bs : Option (List (Fin 8))) (c m d : Option Nat),
      conv q1 (plainIn 64 1024 256) = .ok c → conv q2 (fun q => do within 0 65535 (← q.len 1 1)) = .ok m →
      conv q3 (timeIn 1 25000 1000000) = .ok d →
      ∃ u : State, answers (.cmdRiddleClass ch cl q1 q2 q3 bic bs) ch s u ∧ u.hasFld (Adr.riddleClsScale (classNo cl)) 10 0 c
        ∧ u.hasFld (Adr.riddleClsPmargin (classNo cl)) 15 0 m ∧ u.hasFld (Adr.riddleClsDeadline (classNo cl)) 14 0 d
        ∧ u.hasFlag (Adr.riddleClsCut (classNo cl)) 0 bic
        ∧ ∀ (l : List (Fin 8)) (b : Fin 8), bs = some l → u.flag (Adr.riddleClsCut (classNo cl)) (1 + b.val) = l.contains b)
    ∧ (∀ (b : Fin 8) (q1 q2 q3 : Option Qty) (a n z : Option Nat), s.flag Adr.riddleBenches b = false →
      conv q1 (fun q => q.count 0 0xFFFFF) = .ok a → conv q2 (fun q => q.count 1 63) = .ok n → conv q3 (fun q => q.count 1 512) = .ok z →
      1 ≤ s.fld (Adr.riddlePslot b) 15 10 → 1 ≤ s.fld (Adr.riddlePslot b) 9 0 → s.fld (Adr.riddlePslot b) 9 0 ≤ 512 →
      a.getD (s.reg (Adr.riddleParea b)).toNat + n.getD (s.fld (Adr.riddlePslot b) 15 10) * z.getD (s.fld (Adr.riddlePslot b) 9 0) * 1024
        ≤ 0x100000 →
      ∃ u : State, answers (.cmdRiddleBenchArea ch b q1 q2 q3) ch s u ∧ u.hasReg (Adr.riddleParea b) a
        ∧ u.hasFld (Adr.riddlePslot b) 15 10 n ∧ u.hasFld (Adr.riddlePslot b) 9 0 z)
    ∧ (∀ (b : Fin 8) (on : Bool), (on = true → s.outOfService (0x30 + b.val) = false ∧ s.on (benchPd b) = true) →
      ∃ u : State, answers (.cmdRiddleBenchOnOff ch b on) ch s u ∧ u.flag Adr.riddleBenches b = on
        ∧ ∀ i : Fin 8, i ≠ b → u.flag Adr.riddleBenches i = s.flag Adr.riddleBenches i)
    ∧ (∀ (k : Fin 8) (on : Option Bool) (q : Option Qty) (f : Option Nat), (on = some true → s.outOfService (0x20 + k.val) = false) →
      conv q (fun q => q.count 0 255) = .ok f →
      ∃ u : State, answers (.cmdKerf ch k on q) ch s u ∧ u.hasFld (Adr.kerfFill k) 7 0 f ∧ u.hasFlag (Adr.kerfCtrlEn k) 0 on)
    ∧ (∃ (u : State) (vals : List Int), exec (.cmdRiddleReport ch) s = .next (u.respondOk ch (reportLines "riddle" vals))
      ∧ vals.length = 61 ∧ u.riddle = s.riddle ∧ (∀ a ∈ riddleCounters, u.reg a = 0) ∧ vals[0]? = some (s.num Adr.riddleCtrlEn))
    ∧ ∀ k : Fin 8, ∃ (u : State) (vals : List Int), exec (.cmdKerfReport ch k) s = .next (u.respondOk ch (reportLines "kerf" vals))
      ∧ vals.length = 7 ∧ u.kerfs = s.kerfs ∧ u.reg (Adr.kerfPix k) = 0 ∧ u.reg (Adr.kerfPartial k) = 0 ∧ u.reg (Adr.kerfLate k) = 0
      ∧ u.reg (Adr.kerfAbort k) = 0

/-- Completion of CMD_SYM_ENABLE, CMD_SYM_ORDER, CMD_SYM_POLARITY, CMD_SYM_ERASE, CMD_SYM_RESERVE, CMD_SYM_SCANS, CMD_SYM_CODE39, CMD_SYM_I2OF5, CMD_SYM_GS1 and CMD_SYM_REPORT (R240, R241). On a channel that serves commands, with no long command at work on firmware settings, each changes the settings it names of one symbology and of no other, those not given kept; an order without repetition, of symbologies of its class, replaces that class's order alone; lengths of code39 stand in order, lengths of i2of5 are even; the report of all begins with GS1 strict and counts anew, with the NOREADs that carry no symbology; that of one begins with its identifier and enable and counts it anew. -/
def Obligations.SymbologyCommands : Prop :=
  ∀ (s : State) (ch : Chan) (y : SymId), s.serves ch → s.idle .fw →
    (y ≠ 0 → ∀ on : Bool, ∃ u : State, answers (.cmdSymEnable ch y on) ch s u ∧ u.symIs s y { s.fw.sym y with on := on })
    ∧ (∀ (cl : CandClass) (l : List SymId), l.Nodup → (∀ x ∈ l, classTakes cl x.val = true) →
      ∃ u : State, answers (.cmdSymOrder ch cl l) ch s u ∧ u.fw.order (3 + classNo cl) = l.map Fin.val ∧ u.fw.syms = s.fw.syms
        ∧ ∀ d : CandClass, d ≠ cl → u.fw.order (3 + classNo d) = s.fw.order (3 + classNo d))
    ∧ (1 ≤ y.val → y.val ≤ 3 →
      (∀ (pol mir : Option Tri), ∃ u : State, answers (.cmdSymPolarity ch y pol mir) ch s u
        ∧ u.symIs s y { s.fw.sym y with pol := pol.getD (s.fw.sym y).pol, mirror := mir.getD (s.fw.sym y).mirror })
      ∧ (∀ (q1 q2 : Option Qty) (c m : Option Nat), conv q1 (fun q => q.count 0 255) = .ok c →
        conv q2 (fun q => do within 0 100 (← q.pct 1 1)) = .ok m → ∃ u : State, answers (.cmdSymErase ch y q1 q2) ch s u
          ∧ u.symIs s y { s.fw.sym y with eraseConf := c.getD (s.fw.sym y).eraseConf, eraseMax := m.getD (s.fw.sym y).eraseMax })
      ∧ ∀ (q : Qty) (n : Nat), q.count 0 80 = .ok n → ∃ u : State, answers (.cmdSymReserve ch y q) ch s u
          ∧ u.symIs s y { s.fw.sym y with reserve := n })
    ∧ (∀ (q1 q2 q3 : Option Qty) (n a z : Option Nat), 4 ≤ y.val → conv q1 (fun q => q.count 1 32) = .ok n →
      conv q2 (fun q => q.count 1 32) = .ok a → conv q3 (fun q => q.count 0 20) = .ok z →
      a.getD (s.fw.sym y).agree ≤ n.getD (s.fw.sym y).scans → ∃ u : State, answers (.cmdSymScans ch y q1 q2 q3) ch s u
        ∧ u.symIs s y { s.fw.sym y with
            scans := n.getD (s.fw.sym y).scans
            agree := a.getD (s.fw.sym y).agree
            qz := z.getD (s.fw.sym y).qz })
    ∧ (∀ (k fa : Option Bool) (r : Option (Qty × Qty)) (l : Option (Nat × Nat)), conv r lenRange = .ok l →
      ∃ u : State, answers (.cmdSymCode39 ch k fa r) ch s u
        ∧ u.symIs s 6 { s.fw.sym 6 with
            check := k.getD (s.fw.sym 6).check
            fullascii := fa.getD (s.fw.sym 6).fullascii
            lenMin := (l.map Prod.fst).getD (s.fw.sym 6).lenMin
            lenMax := (l.map Prod.snd).getD (s.fw.sym 6).lenMax }
        ∧ ∀ (x : Nat × Nat), l = some x → 1 ≤ x.1 ∧ x.1 ≤ x.2 ∧ x.2 ≤ 80)
    ∧ (∀ (k : Option Bool),
      (∃ u : State, answers (.cmdSymI2of5 ch k none none) ch s u ∧ u.symIs s 7 { s.fw.sym 7 with check := k.getD (s.fw.sym 7).check })
      ∧ (∀ (a b : Qty) (m n : Nat), a.count 1 80 = .ok m → b.count 1 80 = .ok n → m ≤ n → m % 2 = 0 → n % 2 = 0 →
        ∃ u : State, answers (.cmdSymI2of5 ch k (some (a, b)) none) ch s u
          ∧ u.symIs s 7 { s.fw.sym 7 with
              check := k.getD (s.fw.sym 7).check
              lenMin := m
              lenMax := n
              lens := [] })
      ∧ ∀ (l : List Qty) (v : List Nat), l ≠ [] → l.length ≤ 8 → convAll (fun q => q.count 1 80) l = .ok v → (∀ n ∈ v, n % 2 = 0) →
        ∃ u : State, answers (.cmdSymI2of5 ch k none (some l)) ch s u
          ∧ u.symIs s 7 { s.fw.sym 7 with
              check := k.getD (s.fw.sym 7).check
              lens := v })
    ∧ (∀ on : Bool, ∃ u : State, answers (.cmdSymGs1 ch on) ch s u ∧ u.fw = { s.fw with gs1Strict := on })
    ∧ (∃ (u : State) (vals : List Int), exec (.cmdSymReport ch none) s = .next (u.respondOk ch (reportLines "sym" vals))
        ∧ vals.head? = some (b2n s.fw.gs1Strict : Int) ∧ ∀ i : Nat, i ≤ 11 → u.fw.sym i = { s.fw.sym i with reads := 0, noreads := [] })
    ∧ (y ≠ 0 → ∃ (u : State) (vals : List Int), exec (.cmdSymReport ch (some y)) s = .next (u.respondOk ch (reportLines "sym" vals))
        ∧ vals.take 2 = [(y.val : Int), (b2n (s.fw.sym y).on : Int)] ∧ u.symIs s y { s.fw.sym y with reads := 0, noreads := [] })

/-- Completion of CMD_GRADE_ENABLE, CMD_GRADE_APERTURE, CMD_GRADE_REFL, CMD_GRADE_TREND, CMD_GRADE_REPORT, CMD_RESULT_TEXT and CMD_RESULT (R243, R249, R259 to R261). With no long command at work on firmware settings, grading of one or of every symbology, the aperture, the reflectance of one head and plane, one trend monitor and the text port are set and nothing else of the kind changes; the report begins with the aperture and the counts of lost text lines. A monitor that is off needs every setting; one that is on keeps those not given; either begins in state OK with its window empty. On UART0, result sends the oldest queued lines, 16 where no number is given, and removes them. -/
def Obligations.GradeAndResultCommands : Prop :=
  ∀ (s : State) (ch : Chan), s.serves ch →
    s.idle .fw →
    (∀ (y : Option SymId) (on : Bool), y ≠ some 0 → ∃ u : State, answers (.cmdGradeEnable ch y on) ch s u
      ∧ ∀ i : Nat, 1 ≤ i → i ≤ 11 →
          u.fw.sym i = if y = none ∨ y.map Fin.val = some i then { s.fw.sym i with grade := on } else s.fw.sym i)
    ∧ (∀ (q : Qty) (n : Nat), (do within 20 200 (← q.pct 1 1)) = .ok n →
      ∃ u : State, answers (.cmdGradeAperture ch q) ch s u ∧ u.fw = { s.fw with aper := n })
    ∧ (∀ (h : Fin 16) (p : Fin 4) (a b : Qty) (n : Nat), a.count 1 255 = .ok n → (b.u = .none ∨ b.u = .pct) → b.short = true →
      0 ≤ b.m → b.m ≤ 100 * 10 ^ b.e → ∃ u : State, answers (.cmdGradeRefl ch h p a b) ch s u
        ∧ u.fw.khp (4 * h.val + p.val) = (b.m.toNat, n * 10 ^ b.e)
        ∧ ∀ (g : Fin 16) (q : Fin 4), (g, q) ≠ (h, p) → u.fw.khp (4 * g.val + q.val) = s.fw.khp (4 * g.val + q.val))
    ∧ (∀ t : Fin 8, ∃ u : State, answers (.cmdGradeTrend ch t true none none none none none none none none) ch s u ∧ u.fw.trend t = none
      ∧ ∀ v : Fin 8, v ≠ t → u.fw.trend v = s.fw.trend v)
    ∧ (∀ (t : Fin 8) (y : Option SymId) (hs : List (Fin 16)) (ps : List (Fin 4)) (g : GradeParam) (q1 q2 q3 : Qty) (w b a : Nat) (nr : Bool),
      y ≠ some 0 → q1.count 1 1024 = .ok w → plainIn 0 40 10 q2 = .ok b → plainIn 0 40 10 q3 = .ok a → b ≤ a →
      (∀ x : SymId, y = some x → (paramNib x g).isSome = true) →
      ∃ u : State, answers (.cmdGradeTrend ch t false (some y) (some hs) (some ps) (some g) (some q1) (some q2) (some q3) (some nr)) ch s u
        ∧ u.fw.trend t = some {
            sym := y.map Fin.val
            heads := hs.map Fin.val
            planes := ps.map Fin.val
            param := g
            window := w
            below := b
            above := a
            noread := nr })
    ∧ (∀ (t : Fin 8) (m : TrendMon) (q1 q2 q3 : Option Qty) (w b a : Option Nat) (nr : Option Bool), s.fw.trend t = some m →
      conv q1 (fun q => q.count 1 1024) = .ok w → conv q2 (plainIn 0 40 10) = .ok b → conv q3 (plainIn 0 40 10) = .ok a →
      b.getD m.below ≤ a.getD m.above → (∀ x : Nat, m.sym = some x → (paramNib x m.param).isSome = true) →
      ∃ u : State, answers (.cmdGradeTrend ch t false none none none none q1 q2 q3 nr) ch s u
        ∧ u.fw.trend t = some { m with
            window := w.getD m.window
            below := b.getD m.below
            above := a.getD m.above
            noread := nr.getD m.noread
            low := false
            entries := []
            total := 0 })
    ∧ (∃ vals : List Int, exec (.cmdGradeReport ch) s = .next (s.respondOk ch (reportLines "grade" vals))
      ∧ vals.take 3 = [(s.fw.aper : Int), ((s.chan 0).textLost : Int), ((s.chan 1).textLost : Int)])
    ∧ (∀ (p : Option (Option (Fin 2))) (d : Option Bool), ∃ u : State, answers (.cmdResultText ch p d) ch s u
      ∧ u.fw = { s.fw with
          text := (p.map (Option.map Fin.val)).getD s.fw.text
          detail := d.getD s.fw.detail })
    ∧ (ch = 1 → ∀ (q : Option Qty) (n : Option Nat), conv q (fun q => q.count 0 0xFFFFF) = .ok n →
      ∃ u : State, exec (.cmdResult ch q) s = .next (u.respondOk ch ((s.chan 1).textq.take (n.getD 16)))
        ∧ (u.chan 1).textq = (s.chan 1).textq.drop (n.getD 16) ∧ u.fw = s.fw)

/-- Completion of CMD_BENCH_LEASE, CMD_BENCH_RETURN, CMD_BENCH_REPORT, CMD_HEWER_START, CMD_HEWER_HALT, CMD_HEWER_RUN, CMD_HEWER_RESET, CMD_HEWER_CLEAR, CMD_MBX_REPORT, CMD_MBX_RELEASE and CMD_MBX_FLUSH (R284, R287 to R290, R346, R347, R364), where no long command works on what they write. A bench of which R287 allows the lease, no bundle of its hewers begun and no access, result or delay bundle pending, and room for 16 MiB in the pool: it is leased, out of BENCHES, its hewers halted with their data memory as it was, its ECC unit and ticket queue free, with that buffer; the command is long. A return, also long, restores patch area and ECC settings, empties its memories, gives the buffer back and puts it into BENCHES. On a leased bench start and reset act on a hewer that does not run and whose RUN is 0, halt, run and clear on any; mbx clears the flags of the boxes it reports, release frees a wedge, flush empties a box. The wording of a report is free (log 9), and so is the place of the buffer (log 110). -/
def Obligations.BenchCommands : Prop :=
  ∀ (s : State) (ch : Chan) (b : Fin 8), s.serves ch → s.on (benchPd b) = true →
    (s.on 4 = true → s.isReleased .rk = false → s.idle (.unit .rk) → s.idle (.bench b) →
      s.retired b = false → (s.bench b).leased = false → (s.bench b).restart = none → s.room 16777216 →
      (∃ i : Fin 8, i ≠ b ∧ s.flag Adr.riddleBenches i = true) →
      (∀ h : Fin 8, (s.core (8 * b.val + h.val)).resting) →
      ∃ (u : State) (o : Nat), exec (.cmdBenchLease ch b) s = .next (u.setChan ch { u.chan ch with
            long := some (.work (.lease b) (reportLines "bench lease" [((dramBase + o : Nat) : Int), 16777216] ++ [bytesOf "ok"])
              false .nothing) })
        ∧ u.pool = s.pool ++ [(o, 16777216)] ∧ poolFits s.pool (o, 16777216) = true ∧ (u.bench b).leased = true ∧ (u.bench b).buf = some (dramBase + o)
        ∧ u.flag Adr.riddleBenches b = false ∧ (∀ i : Fin 8, i ≠ b → u.flag Adr.riddleBenches i = s.flag Adr.riddleBenches i)
        ∧ (u.bench b).eccOwner = 0 ∧ (∀ i < 16, (SMap.get (fun _ => ({} : TqEnt)) (u.bench b).tq i).st = .free)
        ∧ ∀ h : Fin 8, (u.core (8 * b.val + h.val)).running = false ∧ (u.core (8 * b.val + h.val)).d = []
            ∧ (u.core (8 * b.val + h.val)).dmem = (s.core (8 * b.val + h.val)).dmem)
    ∧ (∀ (buf : Nat) (l : List Word), s.on 4 = true → s.isReleased .rk = false → s.idle (.unit .rk) → s.idle (.bench b) → s.retired b = false → (s.bench b).leased = true → (s.bench b).buf = some buf →
      (s.bench b).saved = l → l.length = 9 →
      (∀ h : Fin 8, (s.core (8 * b.val + h.val)).resting) →
      ∃ u : State, answersLater (.cmdBenchReturn ch b) ch s u ∧ (u.bench b).leased = false ∧ (u.bench b).buf = none
        ∧ (∀ r ∈ u.pool, dramBase + r.1 ≠ buf) ∧ u.flag Adr.riddleBenches b = true ∧ (u.bench b).shared = []
        ∧ [u.reg (Adr.riddleParea b), u.reg (Adr.riddlePslot b), u.reg (Adr.benchEccCfg b), u.reg (Adr.benchEccPoly b),
            u.reg (Adr.benchEccAlpha b), u.reg (Adr.benchEccLen b), u.reg (Adr.benchEccCw b), u.reg (Adr.benchEccEra b),
            u.reg (Adr.benchEccNera b)] = l
        ∧ ∀ h : Fin 8, (u.core (8 * b.val + h.val)).running = false ∧ (u.core (8 * b.val + h.val)).dmem = []
            ∧ (u.core (8 * b.val + h.val)).imem = [])
    ∧ (∃ (u : State) (vals : List Int), exec (.cmdBenchReport ch b) s = .next (u.respondOk ch (reportLines "bench" vals))
        ∧ vals.length = 27 ∧ u.benches = s.benches ∧ u.cores = s.cores ∧ u.regs = s.regs)
    ∧ ((s.bench b).leased = true → s.idle (.bench b) → ∀ h : Fin 8,
      ((s.core (8 * b.val + h.val)).running = false →
        (∀ (q : Qty) (n : Nat), q.count 0 0x7FFF = .ok n → s.flag (Adr.benchHctrl b h) 0 = false →
          ∃ u : State, answers (.cmdHewerStart ch b h q) ch s u ∧ u.flag (Adr.benchHctrl b h) 0 = true
            ∧ u.fld (Adr.benchStart b h) 14 0 = n ∧ (u.core (8 * b.val + h.val)).running = true
            ∧ (u.core (8 * b.val + h.val)).pc.toNat = n ∧ (u.core (8 * b.val + h.val)).d = []
            ∧ (u.core (8 * b.val + h.val)).imem = (s.core (8 * b.val + h.val)).imem)
        ∧ (s.flag (Adr.benchHctrl b h) 0 = false → ∃ u : State, answers (.cmdHewerReset ch b h) ch s u
            ∧ (u.core (8 * b.val + h.val)).pc.toNat = s.fld (Adr.benchStart b h) 14 0 ∧ (u.core (8 * b.val + h.val)).d = []
            ∧ (u.core (8 * b.val + h.val)).running = false))
      ∧ (∃ u : State, answers (.cmdHewerHalt ch b h) ch s u ∧ u.flag (Adr.benchHctrl b h) 0 = false
          ∧ u.core (8 * b.val + h.val)
              = { s.core (8 * b.val + h.val) with halting := (s.core (8 * b.val + h.val)).running })
      ∧ (∃ u : State, answers (.cmdHewerRun ch b h) ch s u ∧ u.flag (Adr.benchHctrl b h) 0 = true
          ∧ u.core (8 * b.val + h.val)
              = { s.core (8 * b.val + h.val) with running := true, halting := false })
      ∧ ∃ u : State, answers (.cmdHewerClear ch b h) ch s u ∧ (u.core (8 * b.val + h.val)).illop = false
          ∧ (u.core (8 * b.val + h.val)).sat = false ∧ (u.core (8 * b.val + h.val)).dz = false
          ∧ (u.core (8 * b.val + h.val)).pc = (s.core (8 * b.val + h.val)).pc
          ∧ u.flag (Adr.benchHctrl b h) 0 = s.flag (Adr.benchHctrl b h) 0)
    ∧ (∃ (u : State) (vals : List Int), exec (.cmdMbxReport ch) s = .next (u.respondOk ch (reportLines "mbx" vals))
        ∧ ∀ n : Fin 80, (u.box n).near.out = (s.box n).near.out ∧ (u.box n).far.out = (s.box n).far.out
            ∧ (72 ≤ n.val ∨ (s.bench (boxBench n)).leased = true → (u.box n).near.txovf = false ∧ (u.box n).near.rxund = false
                ∧ (u.box n).far.txovf = false ∧ (u.box n).far.rxund = false))
    ∧ ∀ n : Fin 80, 72 ≤ n.val ∨ (s.bench (boxBench n)).leased = true → s.idle (.bench (if n.val < 72 then boxBench n else 8)) →
      (∃ u : State, answers (.cmdMbxRelease ch n) ch s u ∧ u.box n = { s.box n with wedge := 0 })
      ∧ (ch.val < 2 ∨ n.val ≠ 70 + ch.val → ∃ u : State, answers (.cmdMbxFlush ch n) ch s u ∧ (u.box n).near.out = [] ∧ (u.box n).far.out = []
          ∧ (u.box n).wedge = (s.box n).wedge)

/-- Completion of CMD_SESSION, CMD_ID, CMD_ID_CL, CMD_OWN_RELEASE, CMD_OWN_TAKE, CMD_OWN_REPORT, CMD_SAVE, CMD_SAVE_REPORT, CMD_SAVE_SHOW, CMD_LOAD, CMD_LOAD_RESET, CMD_BOOT_SET, CMD_RESET, CMD_EVENT and CMD_HELP (R366, R371, R374 to R382). Session sets the options of its own channel; level 1 alone is accepted; release and take change the released units and no register; save, a long command, writes one set from the configuration in force and leaves the others, or is answered with the error of the snapshot; save report has a line for each set, save show the set's lines; a load is long and answers ok where no step of applySet fails and else with the failing code and line, load reset always ok; a load of an absent or damaged set is answered record; reset enters Reset with cause 2, also in Boot; event sends and removes the oldest queued events of UART0. Load and save are stated where no unit is released and no long command is in the way. -/
def Obligations.SessionCommands : Prop :=
  (∀ (s : State) (ch : Chan), s.pw.st = .boot → exec (.cmdReset ch) s = .next (s.enterReset 2))
  ∧ ∀ (s : State) (ch : Chan), s.serves ch →
    (∀ (e v k : Option Bool), (e.isSome || v.isSome || k.isSome) = true → e = none ∨ ch.val = 0 →
      ∃ u : State, answers (.cmdSession ch e v k) ch s u
        ∧ u.chan ch = { s.chan ch with
            echo := e.getD (s.chan ch).echo
            events := v.getD (s.chan ch).events
            check := k.getD (s.chan ch).check })
    ∧ (∃ (u : State) (vals : List Int), exec (.cmdSession ch none none none) s = .next (u.respondOk ch (reportLines "session" vals))
        ∧ vals.take 3 = [(ch.val : Int), (b2n (s.chan ch).echo : Int), (b2n (s.chan ch).events : Int)]
        ∧ u.chan ch = { s.chan ch with bcastFail := 0 })
    ∧ exec (.cmdId ch) s = .next (s.respondOk ch [s.idLine])
    ∧ (∀ (q : Qty) (n : Int), q.plain 1 1 = .ok n →
        (n = 1 → exec (.cmdIdCl ch q) s = .next (s.respondOk ch [])) ∧ (n ≠ 1 → exec (.cmdIdCl ch q) s = .next (s.respondErr ch .level)))
    ∧ (∀ (x : OwnUnit), (∃ u : State, answers (.cmdOwnRelease ch x) ch s u ∧ u.isReleased x = true ∧ u.regs = s.regs
          ∧ ∀ y : OwnUnit, y ≠ x → u.isReleased y = s.isReleased y)
        ∧ ∃ u : State, answers (.cmdOwnTake ch x) ch s u ∧ u.isReleased x = false ∧ u.regs = s.regs
          ∧ ∀ y : OwnUnit, y ≠ x → u.isReleased y = s.isReleased y)
    ∧ (∃ vals : List Int, exec (.cmdOwnReport ch) s = .next (s.respondOk ch (reportLines "own" vals)) ∧ vals.length = s.released.length)
    ∧ (∀ (q : Qty) (n : Nat), q.count 0 15 = .ok n →
        (∀ name : Option String, name.all nameOk = true → s.released = [] → s.idle (.set n) →
          (∀ c : CfgSet, s.snapshot ((name.map nameKey).getD (((s.cfgSet n).map CfgSet.name).getD "")) = .ok c →
            ∃ u : State, exec (.cmdSave ch q name) s = .next (u.setChan ch { u.chan ch with
                long := some (.work .save [bytesOf "ok"] false (.set n (s.cfgSet n))) })
              ∧ u.cfgSet n = some c ∧ c.ok = true ∧ u.regs = s.regs ∧ ∀ m : Nat, m ≠ n → u.cfgSet m = s.cfgSet m)
          ∧ ∀ e : ErrCode, s.snapshot ((name.map nameKey).getD (((s.cfgSet n).map CfgSet.name).getD "")) = .error e →
            exec (.cmdSave ch q name) s = .next (s.respondErr ch e))
        ∧ (∀ c : CfgSet, s.cfgSet n = some c → c.ok = true →
            exec (.cmdSaveShow ch q) s = .next (s.respondOk ch c.lines)
            ∧ (s.released = [] → (∀ k < 10, (s.chan k).long = none) → ∀ (u : State) (e : ErrCode),
              (s.applySet (some ch.val) (some c) = (u, none) → answersLater (.cmdLoad ch q) ch s u)
              ∧ ∀ m : Nat, s.applySet (some ch.val) (some c) = (u, some (e, m)) → exec (.cmdLoad ch q) s = .next (u.setChan ch
                { u.chan ch with long := some (.work .load [e.line ++ 0x20 :: decBytes m] true .nothing) })))
        ∧ (s.released = [] → (∀ k < 10, (s.chan k).long = none) → (∀ c : CfgSet, s.cfgSet n = some c → c.ok = false) →
            exec (.cmdLoad ch q) s = .next (s.respondErr ch .record))
        ∧ ∃ u : State, answers (.cmdBootSet ch (some q)) ch s u ∧ u.flash = { s.flash with bootSet := some n })
    ∧ (∃ u : State, answers (.cmdBootSet ch none) ch s u ∧ u.flash = { s.flash with bootSet := none })
    ∧ exec (.cmdSaveReport ch) s = .next (s.respondOk ch ((List.range 16).flatMap (fun n => match s.cfgSet n with
          | some c => c.reportLine n (s.flash.bootSet == some n)
          | none => [])))
    ∧ (s.released = [] → (∀ k < 10, (s.chan k).long = none) →
        ∃ u : State, s.applySet (some ch.val) none = (u, none) ∧ answersLater (.cmdLoadReset ch) ch s u)
    ∧ (∃ u : State, exec (.cmdReset ch) s = .next u ∧ u.pw.st = .reset ∧ u.pw.cause = 2 ∧ u.spoil.out = [])
    ∧ (ch = 1 → (s.chan 1).cur = {} → (s.chan 1).check = false → s.flag (Adr.uartFmt 0) 1 = false →
        ∀ (q : Option Qty) (n : Option Nat), conv q (fun q => q.count 0 0xFFFFF) = .ok n →
        ∃ u : State, exec (.cmdEvent ch q) s = .next u ∧ (u.chan 1).evq = (s.chan 1).evq.drop (n.getD 16)
          ∧ (u.chan 1).out = (s.chan 1).out ++ ((s.chan 1).evq.take (n.getD 16)).flatMap (lineOut 1) ++ lineOut 1 (bytesOf "ok"))
    ∧ exec (.cmdHelp ch none) s = .next (s.respondOk ch ((Config.helpText "").filter reportFree))
    ∧ ∀ (w v : String), matchWord verbs .syntax_ (w.toList.map Char.toLower) = .ok v →
        exec (.cmdHelp ch (some w)) s = .next (s.respondOk ch ((Config.helpText v).filter reportFree))

/-- Completion of COMMAND_LINE_RECEIVED (R349 to R354, R357, R359) on a channel that serves commands, where no other channel has a whole line. Without a whole line only the turn passes. Else the first whole line leaves the input buffer: a line that lost characters is answered overrun, one that was too long toolong, one of spaces and TABs draws no response; any other is answered with the error that its check, its words or the first of its commands finds, or runs, with its tag, checksum mark and broadcast mark in hand. That the turn passes to the channel is the model's choice (log 104). -/
def Obligations.LinesAreReceived : Prop :=
  ∀ (s : State) (ch : Chan), s.serves ch → (∀ k : Chan, k ≠ ch → takeLine (s.chan k).inp = none) →
    (takeLine (s.chan ch).inp = none → exec (.commandLineReceived ch) s = .next (s.setTurn ch))
    ∧ ∀ (l : List Byte) (t : InChar) (rest : List InChar), takeLine (s.chan ch).inp = some (l, t, rest) →
      ∀ (k : LineCheck) (u : State), k = checkLine (s.chan ch).check l →
      u = s.setChan ch { s.chan ch with inp := rest, cur := { tag := k.tag, check := k.sum, broadcast := t.bcast } } →
      (t.bad = true → exec (.commandLineReceived ch) s = .next ((u.respondErr ch .overrun).setTurn ch))
      ∧ (t.bad = false → t.tooLong = true → exec (.commandLineReceived ch) s = .next ((u.respondErr ch .toolong).setTurn ch))
      ∧ (t.bad = false → t.tooLong = false → (∀ b ∈ l, b = 0x20 ∨ b = 0x09) →
          exec (.commandLineReceived ch) s = .next ((s.setChan ch { s.chan ch with inp := rest }).setTurn ch))
      ∧ (t.bad = false → t.tooLong = false → (∃ b ∈ l, b ≠ 0x20 ∧ b ≠ 0x09) →
          (∀ e : ErrCode, k.body = .error e → exec (.commandLineReceived ch) s = .next ((u.respondErr ch e).setTurn ch))
          ∧ ∀ ws : List Tok, k.body = .ok ws →
            (∀ e : ErrCode, readWords ch ws = .error e → exec (.commandLineReceived ch) s = .next ((u.respondErr ch e).setTurn ch))
            ∧ ∀ ps : List Spelled, readWords ch ws = .ok ps →
              (∀ e : ErrCode, runAll ps u = .error e → exec (.commandLineReceived ch) s = .next ((u.respondErr ch e).setTurn ch))
              ∧ ∀ r : CmdOk, runAll ps u = .ok r → exec (.commandLineReceived ch) s = .next ((r.st.accept ch r).setTurn ch))

/-- Completion of CMD_UART_FORMAT, CMD_UART_ADDR, CMD_UART_WAKE, CMD_UART_REPORT, CMD_PWR_PD, CMD_PWR_STANDBY, CMD_PWR_WAKE, CMD_PWR_THROTTLE, CMD_PWR_REPORT, CMD_BOOT_IMAGE_WRITE, CMD_BOOT_IMAGE_CHECK, CMD_BOOT_IMAGE_PREFER and CMD_BOOT_IMAGE_REPORT (R393, R398, R404, R407, R409, R420, R437, R439), where no long command works on what they write. Settings of a serial port stand in its registers, or wait for the ok of the port that carries the command; a domain whose blocks are idle is switched; standby begins the drain with every schedule off; an image not running is written from DRAM and marked as the check of a kind 6 record finds it; the image commands are long; the reports of uart and pwr clear their counters. -/
def Obligations.SerialPowerAndBootCommands : Prop :=
  ∀ (s : State) (ch : Chan), s.serves ch → s.on 0 = true →
    (∀ (u : Fin 2) (q1 q2 q3 q4 : Option Qty) (par : Option (Fin 3)) (b d n t : Option Nat), q1 = none ∨ q2 = none →
      conv q1 baudDiv = .ok b → conv q2 (fun q => q.count 1 65535) = .ok d → conv q3 (fun q => q.count 7 8) = .ok n →
      conv q4 (fun q => q.count 1 2) = .ok t →
      (s.uartReg u (Adr.uartFmt u)).toNat.testBit 1 = false
        ∨ (u = 0 ∧ (n = some 8 ∨ (n = none ∧ (s.uartReg u (Adr.uartFmt u)).toNat.testBit 0 = false))) → s.idle .uart →
      ∃ x : State, answers (.cmdUartFormat ch u q1 q2 q3 par q4) ch s x
        ∧ (∀ v : Nat, b = some v ∨ d = some v → bits (x.uartReg u (Adr.uartDiv u)).toNat 15 0 = v)
        ∧ (∀ v : Nat, n = some v → bits (x.uartReg u (Adr.uartFmt u)).toNat 0 0 = 8 - v)
        ∧ (∀ v : Fin 3, par = some v → bits (x.uartReg u (Adr.uartFmt u)).toNat 3 2 = v.val)
        ∧ (∀ v : Nat, t = some v → bits (x.uartReg u (Adr.uartFmt u)).toNat 4 4 = v - 1)
        ∧ (ch.val = uartChan u → x.regs = s.regs))
    ∧ (∀ (ad mu low : Option Bool) (q1 q2 q3 : Option Qty) (n a b : Option Nat), conv q1 (fun q => q.count 1 254) = .ok n →
      conv q2 (fun q => q.count 0 255) = .ok a → conv q3 (fun q => q.count 0 255) = .ok b →
      (s.uartReg 0 (Adr.uartFmt 0)).toNat.testBit 0 = false ∨ ad = some false
        ∨ (ad = none ∧ (s.uartReg 0 (Adr.uartFmt 0)).toNat.testBit 1 = false) → s.idle .uart →
      ∃ x : State, answers (.cmdUartAddr ch 0 ad q1 mu q2 q3 low) ch s x
        ∧ (∀ v : Bool, ad = some v → (x.uartReg 0 (Adr.uartFmt 0)).toNat.testBit 1 = v)
        ∧ (∀ v : Nat, n = some v → bits (x.uartReg 0 (Adr.uartNode 0)).toNat 7 0 = v)
        ∧ (∀ v : Nat, a = some v → bits (x.uartReg 0 (Adr.uartDe 0)).toNat 7 0 = v)
        ∧ (∀ v : Nat, b = some v → bits (x.uartReg 0 (Adr.uartDe 0)).toNat 15 8 = v)
        ∧ (∀ v : Bool, mu = some v → (x.uartReg 0 (Adr.uartCtrl 0)).toNat.testBit 3 = v)
        ∧ ∀ v : Bool, low = some v → (x.uartReg 0 (Adr.uartCtrl 0)).toNat.testBit 4 = v)
    ∧ (∀ (u : Fin 2), (∀ on : Bool, s.idle .uart → ∃ x : State, answers (.cmdUartWake ch u on) ch s x
          ∧ (x.uartReg u (Adr.uartCtrl u)).toNat.testBit 2 = on)
        ∧ ∃ (x : State) (vals : List Int), exec (.cmdUartReport ch u) s = .next (x.respondOk ch (reportLines "uart" vals))
          ∧ vals.length = 10 ∧ x.uarts = s.uarts ∧ x.reg (Adr.uartFeCnt u) = 0 ∧ x.reg (Adr.uartPeCnt u) = 0
          ∧ x.reg (Adr.uartGlitchCnt u) = 0 ∧ x.reg (Adr.uartOeCnt u) = 0)
    ∧ (∀ (d : Fin 8) (on : Bool), 2 ≤ d.val → d.val ≤ 6 → s.recovering d = false → s.idle (.domain d) → (on = true ∨ s.on d = false ∨ s.mayOff d = true) →
      ∃ x : State, answers (.cmdPwrPd ch d on) ch s x ∧ x.on d = on ∧ x.flag Adr.pwrReq d = on)
    ∧ (∃ x : State, exec (.cmdPwrStandby ch) s = .next x ∧ x.pw.st = .drain ∧ x.pw.drainAt = s.time
      ∧ ∀ c : Fin 4, x.flag (Adr.trgcCtrl c) 0 = false)
    ∧ (∀ (sy fall : Option Bool) (g : Option (List (Fin 8))), s.idle .pwr → ∃ x : State, answers (.cmdPwrWake ch sy g fall) ch s x
      ∧ x.hasFlag Adr.pwrWake 0 sy ∧ x.hasFld Adr.pwrWake 8 1 (g.map chanBits) ∧ x.hasFlag Adr.pwrWake 9 fall)
    ∧ (∀ (q : Qty) (n : Nat), q.count 85 100 = .ok n → s.idle .pwr →
      ∃ x : State, answers (.cmdPwrThrottle ch q) ch s x ∧ x.fld Adr.pwrThermCtrl 7 0 = n)
    ∧ (∃ (x : State) (vals : List Int), exec (.cmdPwrReport ch) s = .next (x.respondOk ch (reportLines "pwr" vals))
      ∧ vals.length = 29 ∧ x.pw = { s.pw with peakSeen := false } ∧ x.fld Adr.pwrThermPeak 11 0 = 0 ∧ x.reg Adr.pwrThermThrCnt = 0)
    ∧ (∀ (b : Bool) (q1 q2 : Qty) (n a : Nat), q2.count 64 dramSize = .ok n → n ≤ 0x400000 → q1.count dramBase (dramBase + dramSize - 1) = .ok a →
      a + n ≤ dramBase + dramSize → (s.pw.imageB ≠ b ∨ s.flag Adr.sysBoot 4 = true) → s.idle (.image b) →
      ∃ x : State, answersLater (.cmdBootImageWrite ch b q1 q2) ch s x
        ∧ (if b then x.flash.imgB else x.flash.imgA).ok = recValid 6 (s.dramRun (a - dramBase) n)
        ∧ (if b then x.flash.imgB else x.flash.imgA).payload = recPayload (s.dramRun (a - dramBase) n)
        ∧ (if b then x.flash.imgA = s.flash.imgA else x.flash.imgB = s.flash.imgB) ∧ x.dram = s.dram)
    ∧ (∀ b : Bool, exec (.cmdBootImageCheck ch b) s
          = .next (s.setChan ch { s.chan ch with long := some (.work (.image (some b))
              (reportLines "boot image check" (if b then s.flash.imgB else s.flash.imgA).values ++ [bytesOf "ok"]) false .nothing) })
        ∧ (s.idle .prefer → ∃ x : State, answersLater (.cmdBootImagePrefer ch b) ch s x ∧ x.flash = { s.flash with preferB := b }))
    ∧ ∃ (x : State) (vals : List Int), exec (.cmdBootImageReport ch) s = .next (x.setChan ch { x.chan ch with
        long := some (.work (.image none) (reportLines "boot image" vals ++ [bytesOf "ok"]) false .nothing) })
      ∧ vals.length = 10 ∧ x.flash = s.flash ∧ vals[9]? = some (b2n s.flash.preferB : Int)

/-- Completion of CMD_HOST_MIRROR, CMD_HOST_RESULT, CMD_HOST_STREAM and CMD_HOST_REPORT (R476 to R484), of CMD_CAL_DARK, CMD_CAL_FLAT, CMD_CAL_DEFECT, CMD_CAL_IMPORT, CMD_CAL_EXPORT, CMD_CAL_RECORDS, CMD_CAL_DELETE and CAL_NO_LINE_TIMEOUT (R440 to R444), of CMD_SPOIL, CMD_SPOIL_CLEAR and CMD_SPOIL_UNITS (R427, R431, R432), and of JTAG_TCK_EDGE. With every ring and the mirror off, bases and sizes given stand in their registers and an area is enabled whose parts lie apart; a measurement holds its channel until it is judged, and one without a line for a second ends with state; records are imported, exported, listed and deleted by long commands, a saved defect record has the payload size of its kind; spoil clear keeps the unhandled entries in order. The commands that write are stated where no long command works on what they write. An edge of TCK moves the TAP controller, shifts or captures, and drives TDO. -/
def Obligations.HostCalAndSpoilCommands : Prop :=
  (∀ (s : State) (ch : Chan), s.serves ch →
    (s.on 1 = true → s.idle .host → s.fld Adr.pcieCtrl 1 0 = 0 → (∀ r < 48, s.ringEn r = false) →
      (∀ (q : Option Qty) (on : Option Bool) (b : Option Nat), conv q hostAddr = .ok b →
        ∃ u : State, answers (.cmdHostMirror ch q on) ch s u ∧ u.flag Adr.pcieCtrl 1 = on.getD false
          ∧ ∀ a : Nat, b = some a → u.hostBase Adr.pcieMirBaseL Adr.pcieMirBaseH = a)
      ∧ (∀ (q1 q2 q3 q4 : Option Qty) (on : Option Bool) (b n pb ps : Option Nat), conv q1 hostAddr = .ok b →
        conv q2 (sizeExp 10 6) = .ok n → conv q3 hostAddr = .ok pb → conv q4 (fun q => q.count (32 * 4096) (16383 * 4096)) = .ok ps →
        (∀ v : Nat, ps = some v → v % 4096 = 0) →
        (on = some true → ∃ (x k y z : Nat), x = b.getD (s.hostBase Adr.pcieResBaseL Adr.pcieResBaseH)
          ∧ k = n.getD (s.fld Adr.pcieResSize 2 0) ∧ y = pb.getD (s.hostBase Adr.pciePayBaseL Adr.pciePayBaseH)
          ∧ z = ps.getD (64 * s.payUnits) ∧ (x + 64 * 2 ^ (10 + k) ≤ y ∨ y + z ≤ x)) →
        ∃ u : State, answers (.cmdHostResult ch q1 q2 q3 q4 on) ch s u ∧ u.flag Adr.pcieCtrl 0 = on.getD false
          ∧ (∀ a : Nat, b = some a → u.hostBase Adr.pcieResBaseL Adr.pcieResBaseH = a)
          ∧ (∀ a : Nat, pb = some a → u.hostBase Adr.pciePayBaseL Adr.pciePayBaseH = a)
          ∧ u.hasFld Adr.pcieResSize 2 0 n ∧ (∀ v : Nat, ps = some v → 64 * u.payUnits = v)
          ∧ (on = some true → u.reg Adr.pcieResProd = 0 ∧ u.reg Adr.pciePayProd = 0))
      ∧ ∀ (f c : Fin 4) (k : StreamKind) (q1 q2 : Option Qty) (on : Option Bool) (b n : Option Nat), conv q1 hostAddr = .ok b →
        conv q2 (sizeExp 16 9) = .ok n → ∃ u : State, answers (.cmdHostStream ch f c k q1 q2 on) ch s u
          ∧ u.ringEn (12 * f.val + 3 * c.val + streamNo k) = on.getD false
          ∧ (∀ a : Nat, b = some a → u.hostBase (Adr.pcieStreamBaseL (12 * f.val + 3 * c.val + streamNo k))
              (Adr.pcieStreamBaseH (12 * f.val + 3 * c.val + streamNo k)) = a)
          ∧ u.hasFld (Adr.pcieStreamSize (12 * f.val + 3 * c.val + streamNo k)) 3 0 n)
    ∧ (s.on 1 = true → ∃ (u : State) (vals : List Int), exec (.cmdHostReport ch) s = .next (u.respondOk ch (reportLines "host" vals))
        ∧ vals.length = 152 ∧ u.reg Adr.pciePoison = 0 ∧ u.reg Adr.pcieLinkdn = 0 ∧ ∀ r < 48, u.reg (Adr.pcieStreamLost r) = 0)
    ∧ (∀ (f c p : Fin 4) (q1 q2 : Option Qty) (n : Nat) (name : String), s.on (facePd f) = true → s.isReleased (.face f) = false →
      s.ctxEn f c = true → nameOk name = true → (∀ j ∈ s.cal, nameKey j.name ≠ nameKey name) → s.idle (.record (nameKey name)) → calLines q1 = .ok n →
      (∀ t : Option Nat, conv q2 (fun q => q.count 0 0xFFFFF) = .ok t →
        ∃ u : State, exec (.cmdCalDark ch f c q1 q2 name) s = .next u ∧ (u.chan ch).long = some (.cal f c)
          ∧ ∃ j : CalJob, u.cal = s.cal ++ [j] ∧ j.flat = false ∧ j.lines = n ∧ j.tol = t.getD 512 ∧ j.name = name)
      ∧ ∀ (g : Qty) (v : Nat) (t : Option Nat), g.count 0 0xFFFFF = .ok v → conv q2 (fun q => do within 0 10000 (← q.pct 100 1)) = .ok t →
        ∃ u : State, exec (.cmdCalFlat ch f c p g q1 q2 name) s = .next u ∧ (u.chan ch).long = some (.cal f c)
          ∧ ∃ j : CalJob, u.cal = s.cal ++ [j] ∧ j.flat = true ∧ j.plane = p.val ∧ j.target = v ∧ j.lines = n ∧ j.tol = t.getD 100)
    ∧ (∀ (f c : Fin 4) (k : Chan) (j : CalJob), s.cal = [j] → j.f = f.val → j.c = c.val → j.chNo = k.val → 200000000 ≤ s.since j.started →
      ∃ u : State, exec (.calNoLineTimeout f c) s = .next u ∧ u.cal = [] ∧ (u.chan k).long = none ∧ u.flash = s.flash)
    ∧ (∀ (f c : Fin 4) (dn fn name : String) (q1 q2 : Qty) (m d : Nat) (a b : FlashRec), q1.count 0 0xFFFFF = .ok m →
      (do within 0 1000000 (← q2.pct 100 1)) = .ok d → nameOk name = true → (∀ j ∈ s.cal, nameKey j.name ≠ nameKey name) → s.idle (.record (nameKey name)) → s.on (facePd f) = true →
      s.tblRec .black dn = .ok a → s.tblRec .flat fn = .ok b → a.payload.length = tblPayload .black → b.payload.length = tblPayload .flat →
      s.strWidth (s.ctxPort f c) (s.ctxStream f c) ≤ 8192 → s.recBytes name + 64 + tblPayload .defect ≤ calArea →
      ∃ (u : State) (vals : List Int), exec (.cmdCalDefect ch f c dn fn q1 q2 name) s = .next (u.setChan ch { u.chan ch with
            long := some (.work (.record [nameKey name, nameKey dn, nameKey fn]) (reportLines "cal defect" vals ++ [bytesOf "ok"]) false
              (.record (nameKey name) (s.recOf name))) })
        ∧ ∃ r : FlashRec, u.recNamed name = some r ∧ r.kind = .table .defect ∧ r.payload.length = tblPayload .defect)
    ∧ (∀ (name : String) (k : TblKind) (q : Qty) (a : Nat), nameOk name = true → (∀ j ∈ s.cal, nameKey j.name ≠ nameKey name) →
      s.idle (.record (nameKey name)) → q.count dramBase (dramBase + dramSize - 1) = .ok a → a + tblPayload k ≤ dramBase + dramSize → s.recBytes name + 64 + tblPayload k ≤ calArea →
      ∃ (u : State) (r : FlashRec), answersLater (.cmdCalImport ch name k q) ch s u ∧ u.recNamed name = some r
        ∧ r.kind = .table k ∧ r.payload = s.dramRun (a - dramBase) (tblPayload k) ∧ u.dram = s.dram)
    ∧ (∀ (name : String) (r : FlashRec), s.recNamed name = some r →
      (∀ (q : Qty) (a : Nat), q.count dramBase (dramBase + dramSize - 1) = .ok a → a + r.payload.length ≤ dramBase + dramSize →
        ∃ u : State, answersLater (.cmdCalExport ch name q) ch s u ∧ u.dramRun (a - dramBase) r.payload.length = r.payload ∧ u.flash = s.flash)
      ∧ (nameOk name = true → (∀ j ∈ s.cal, nameKey j.name ≠ nameKey name) → s.idle (.record (nameKey name)) →
        ∃ u : State, answersLater (.cmdCalDelete ch name) ch s u ∧ u.recNamed name = none))
    ∧ (∃ vals : List Int, vals = s.flash.recs.flatMap FlashRec.values ∧ exec (.cmdCalRecords ch) s = .next (s.setChan ch { s.chan ch with
        long := some (.work (.record (s.flash.recs.map FlashRec.name)) (reportLines "cal records" vals ++ [bytesOf "ok"]) false .nothing) }))
    ∧ (∃ (u : State) (vals : List Int), exec (.cmdSpoil ch) s = .next (u.respondOk ch (reportLines "spoil" vals))
        ∧ vals.length = 2 + 9 * s.spoil.ents.length ∧ u.spoil = s.spoil)
    ∧ (∃ u : State, answers (.cmdSpoilClear ch) ch s u ∧ u.spoil.lost = 0
        ∧ u.spoil.ents = s.spoil.ents.filter (fun e => decide (e.st ≠ .handled)))
    ∧ (∃ vals : List Int, exec (.cmdSpoilUnits ch) s = .next (s.respondOk ch (reportLines "spoil units" vals))
        ∧ vals.length = s.spoil.out.length))
  ∧ ∀ (s : State) (tms tdi : Bool), s.powered = true →
    ∃ t : State, exec (.jtagTckEdge tms tdi) s = .next t ∧ t.jtag.tap = s.jtag.tap.next tms ∧ t.regs = s.regs
      ∧ (s.jtag.tap = .shDr → t.jtag.dr = s.jtag.dr.drop 1 ++ [tdi])
      ∧ (s.jtag.tap = .capDr → s.jtag.ir = 2 → t.jtag.dr = idcode)
      ∧ (s.jtag.tap.next tms = .shDr → t.jtag.tdo = some (t.jtag.dr.headD false))
      ∧ (s.jtag.tap.next tms = .reset → t.jtag.ir = 2)
      ∧ (s.jtag.tap.next tms = .updIr → t.jtag.ir = t.jtag.irSh)

/-- At an end that the agent may use, MBX_RX returns the oldest word of the incoming queue without its LAST mark and removes it; on an empty queue it returns 0, removes nothing and sets RXUND. Bits 11 to 8 of STAT give the position, counted from 1 at the oldest, of the first waiting word marked LAST, or 0 where none is, in a queue of at most eight words. -/
def Obligations.RxTakesTheOldestWord : Prop :=
  ∀ (s : State) (ag : Agent) (n : Fin 80) (far : Bool), s.boxOpen ag n far = true →
    (∀ (w : Word) (l : Bool) (q : List (Word × Bool)), (s.box n).incoming far = (w, l) :: q →
      ∃ t : State, exec (.mbxRx ag n far) s = .next t ∧ t.rdVal (readerOf ag) = w.setWidth 32 ∧ (t.box n).incoming far = q
        ∧ ((t.box n).side far) = ((s.box n).side far))
    ∧ ((s.box n).incoming far = [] → ∃ t : State, exec (.mbxRx ag n far) s = .next t ∧ t.rdVal (readerOf ag) = 0
        ∧ (t.box n).incoming far = [] ∧ ((t.box n).side far).rxund = true ∧ ((t.box n).side far).out = ((s.box n).side far).out)
    ∧ (((s.box n).incoming far).length ≤ 8 → ((s.box n).side far).out.length ≤ 8 →
      (∀ i : Nat, (((s.box n).incoming far)[i]?).map Prod.snd = some true →
        (∀ j < i, (((s.box n).incoming far)[j]?).map Prod.snd = some false) →
        bits (s.boxAccess ag n far 3 none).1.toNat 11 8 = i + 1)
      ∧ ((∀ p ∈ (s.box n).incoming far, p.2 = false) → bits (s.boxAccess ag n far 3 none).1.toNat 11 8 = 0))

/-- Frame of the commands that set or report what the foreman keeps by itself: the sym, grade, result, session, id, help and event commands and the reports of own, save, cal and spoil change nothing but firmware settings and the command line's channels; own changes also the released units; save, boot set, boot image and cal import and delete also the flash; spoil clear also the Spoil log. Every register, queue, core and every byte of memory is unchanged. -/
def Obligations.FrameOfFirmwareCommands : Prop :=
  ∀ (i : Instr) (s t : State), exec i s = .next t →
    (onlyFirmware i = true → t = { s with fw := t.fw, chans := t.chans })
    ∧ (onlyOwn i = true → t = { s with released := t.released, chans := t.chans })
    ∧ (onlyFlash i = true → t = { s with flash := t.flash, free := t.free, chans := t.chans })
    ∧ (∀ ch : Chan, i = .cmdSpoilClear ch → t = { s with spoil := t.spoil, chans := t.chans })
    ∧ ∀ (ch : Chan) (name : String) (q : Qty), i = .cmdCalExport ch name q → t = { s with dram := t.dram, chans := t.chans }
        ∧ ∀ (r : FlashRec) (a : Nat), s.recNamed name = some r → q.count dramBase (dramBase + dramSize - 1) = .ok a →
            ∀ k : Nat, k < a - dramBase ∨ a - dramBase + r.payload.length ≤ k → t.dramByte k = s.dramByte k

/-- Frame of the Tsumante syllables but ld and st: on a core with no access in flight and no ld or st in its bundle, whatever else the bundle holds, a syllable of AL, MU or BR (a halt with what it settles included) changes no other core, no register but the core's own RUN bit, no memory, mailbox, bench or queue; a core that does not run is unchanged whatever the syllable. -/
def Obligations.FrameOfSyllables : Prop :=
  ∀ (c : Core) (o : TOp) (mk : SylCmd) (y : Syl) (ext : Option Word) (stop : Bool) (s t : State), (o, mk) ∈ allSyls →
    exec (mk c y ext stop) s = .next t →
      ((s.core (coreIdx c)).running = false → t = s)
      ∧ (o ≠ .ld → o ≠ .st → (s.core (coreIdx c)).ports = [] → (s.core (coreIdx c)).raw.all (fun r => !r.access) = true → (s.core (coreIdx c)).cur.port0 = none →
          (s.core (coreIdx c)).cur.port1 = none →
          t = { s with cores := t.cores, regs := t.regs, free := t.free }
          ∧ (∀ k : Nat, k ≠ coreIdx c → t.core k = s.core k)
          ∧ (∀ a : Nat, a ≠ Adr.benchHctrl (coreIdx c / 8) (coreIdx c % 8) → t.reg a = s.reg a)
          ∧ (t.core (coreIdx c)).imem = (s.core (coreIdx c)).imem)
end

