-- ==== Sys2Proof/Laws/Mem.lean ====
section
/-!
SUPPORT. The laws of DRAM and host memory: what a write stores, what it leaves, and that every memory operation keeps the
canonical form.
-/
namespace Sys2Proof

/-- A key inside a written run reads what was written there. -/
theorem SMap.get_setRun_in {α : Type} [DecidableEq α] (d : Nat → α) (vs : List α) : ∀ (m : SMap α) (k i : Nat) (h : i < vs.length),
    SMap.get d (SMap.setRun d m k vs) (k + i) = vs[i] := by
  induction vs with
  | nil => intro m k i h; simp at h
  | cons v vs ih =>
    intro m k i h
    cases i with
    | zero => simp only [SMap.setRun, Nat.add_zero]; rw [SMap.get_setRun_out _ _ _ _ _ (by omega), SMap.get_set, if_pos rfl]; rfl
    | succ i =>
      simp only [List.length_cons, Nat.add_lt_add_iff_right] at h
      have e : k + (i + 1) = k + 1 + i := by omega
      rw [SMap.setRun, e, ih _ _ _ h]; rfl

/-- A written run reads back whole. -/
theorem SMap.getRun_setRun {α : Type} [DecidableEq α] (d : Nat → α) (m : SMap α) (k : Nat) (vs : List α) :
    SMap.getRun d (SMap.setRun d m k vs) k vs.length = vs := by
  apply List.ext_getElem
  · simp [SMap.getRun]
  · intro i h1 h2; simp only [SMap.getRun, List.getElem_map, List.getElem_range]; exact SMap.get_setRun_in d vs m k i h2

namespace Machine

/-- The two parts of `memWf`. -/
theorem State.memWf_iff (s : State) : s.memWf = true ↔
    SMap.wf (fun _ => (0 : Byte)) s.dram = true ∧ SMap.wf (fun _ => (0 : Byte)) s.hostMem = true := by
  simp [State.memWf]

/-- A state that keeps both memories keeps their form. -/
theorem State.memWf_congr {s t : State} (hd : t.dram = s.dram) (hh : t.hostMem = s.hostMem) : t.memWf = s.memWf := by
  simp only [State.memWf, hd, hh]

theorem State.memWf_putDram (s : State) (o : Nat) (bs : List Byte) (h : s.memWf = true) : (s.putDram o bs).memWf = true := by
  rw [State.memWf_iff] at h ⊢; exact ⟨SMap.wf_setRun _ _ _ _ h.1, h.2⟩

theorem State.memWf_putHost (s : State) (a : Nat) (bs : List Byte) (h : s.memWf = true) : (s.putHost a bs).memWf = true := by
  rw [State.memWf_iff] at h ⊢; exact ⟨h.1, SMap.wf_setRun _ _ _ _ h.2⟩

theorem State.memWf_setDramByte (s : State) (k : Nat) (v : Byte) (h : s.memWf = true) : (s.setDramByte k v).memWf = true := by
  rw [State.memWf_iff] at h ⊢; exact ⟨SMap.wf_set _ _ _ _ h.1, h.2⟩

theorem State.memWf_setHostByte (s : State) (k : Nat) (v : Byte) (h : s.memWf = true) : (s.setHostByte k v).memWf = true := by
  rw [State.memWf_iff] at h ⊢; exact ⟨h.1, SMap.wf_set _ _ _ _ h.2⟩

theorem State.memWf_spoilStaging (s : State) (h : s.memWf = true) : s.spoilStaging.memWf = true :=
  (State.memWf_congr (s := s) rfl rfl).trans h

theorem State.memWf_putRegion (s : State) (self : Nat) (r : Nat × Nat) (a : Nat) (bs : List Byte) (h : s.memWf = true) :
    (s.putRegion self r a bs).memWf = true := by
  have hd : ∀ n m o l, ((s.drawList n m).2.putDram o l).memWf = true := fun n m o l =>
    State.memWf_putDram _ _ _ ((State.memWf_congr (s := s) rfl rfl).trans h)
  unfold State.putRegion
  split
  · exact h
  · split
    · dsimp only
      split
      · exact State.memWf_spoilStaging _ (hd ..)
      · exact hd ..
    · exact State.memWf_putDram _ _ _ h

theorem State.memWf_reset : State.reset.memWf = true := by decide

/-- A byte of DRAM outside a write is as before. -/
theorem State.dramByte_putDram_out (s : State) (o k : Nat) (bs : List Byte) (h : k < o ∨ o + bs.length ≤ k) :
    (s.putDram o bs).dramByte k = s.dramByte k := by
  unfold State.putDram State.dramByte
  apply SMap.get_setRun_out
  have : (bs.take (dramSize - o)).length ≤ bs.length := by rw [List.length_take]; exact Nat.min_le_right ..
  omega

/-- Bytes written inside usable DRAM read back. -/
theorem State.dramRun_putDram (s : State) (o : Nat) (bs : List Byte) (h : o + bs.length ≤ dramSize) :
    (s.putDram o bs).dramRun o bs.length = bs := by
  have e : bs.take (dramSize - o) = bs := List.take_of_length_le (by omega)
  simp only [State.putDram, State.dramRun, e]
  exact SMap.getRun_setRun _ _ _ _

/-- A write to DRAM changes DRAM alone. -/
theorem State.putDram_eq (s : State) (o : Nat) (bs : List Byte) : s.putDram o bs = { s with dram := (s.putDram o bs).dram } := rfl

/-- A byte of host memory outside a write is as before. -/
theorem State.hostByte_putHost_out (s : State) (a k : Nat) (bs : List Byte) (h : k < a ∨ a + bs.length ≤ k) :
    (s.putHost a bs).hostByte k = s.hostByte k := SMap.get_setRun_out _ _ _ _ _ h

/-- Bytes written to host memory read back. -/
theorem State.hostRun_putHost (s : State) (a : Nat) (bs : List Byte) : (s.putHost a bs).hostRun a bs.length = bs :=
  SMap.getRun_setRun _ _ _ _

/-- A write to host memory changes host memory alone. -/
theorem State.putHost_eq (s : State) (a : Nat) (bs : List Byte) : s.putHost a bs = { s with hostMem := (s.putHost a bs).hostMem } := rfl

/-- A write to a spool or stockpile changes DRAM alone or, where its region clashes, also the count of free values, what is
staged there and the Riddle's result slots. -/
theorem State.putRegion_eq (s : State) (self : Nat) (r : Nat × Nat) (a : Nat) (bs : List Byte) :
    s.putRegion self r a bs =
      { s with
        dram := (s.putRegion self r a bs).dram, free := (s.putRegion self r a bs).free,
        res := { s.res with staging := (s.putRegion self r a bs).res.staging },
        riddle := { s.riddle with slots := (s.putRegion self r a bs).riddle.slots } } := by
  have key : ∀ t : State, t = { s with dram := t.dram, free := t.free } →
      t.spoilStaging = { s with
        dram := t.spoilStaging.dram, free := t.spoilStaging.free,
        res := { s.res with staging := t.spoilStaging.res.staging },
        riddle := { s.riddle with slots := t.spoilStaging.riddle.slots } } := by
    intro t ht; rw [ht]; rfl
  have plain : ∀ t : State, t = { s with dram := t.dram, free := t.free } →
      t = { s with
        dram := t.dram, free := t.free, res := { s.res with staging := t.res.staging },
        riddle := { s.riddle with slots := t.riddle.slots } } := by
    intro t ht; rw [ht]
  have drawn : ∀ n m o l, (s.drawList n m).2.putDram o l =
      { s with dram := ((s.drawList n m).2.putDram o l).dram, free := ((s.drawList n m).2.putDram o l).free } :=
    fun _ _ _ _ => rfl
  have put : ∀ o l, s.putDram o l = { s with dram := (s.putDram o l).dram, free := (s.putDram o l).free } := fun _ _ => rfl
  unfold State.putRegion
  split
  · rfl
  · split
    · dsimp only
      split
      · exact key _ (drawn ..)
      · exact plain _ (drawn ..)
    · exact plain _ (put ..)

end Machine
end Sys2Proof
end

