-- ==== Sys2Proof/Laws/State.lean ====
section
/-!
SUPPORT. The small lemmas of the state's updates: what each update leaves of each field, and reading back what was
written.
-/
namespace Sys2Proof.Machine

@[simp] theorem State.setReg_pending (s : State) (k : Nat) (v : Word) : (s.setReg k v).pending = s.pending := rfl
@[simp] theorem State.setReg_free (s : State) (k : Nat) (v : Word) : (s.setReg k v).free = s.free := rfl
@[simp] theorem State.setReg_rd (s : State) (k : Nat) (v : Word) : (s.setReg k v).rd = s.rd := rfl
@[simp] theorem State.setReg_time (s : State) (k : Nat) (v : Word) : (s.setReg k v).time = s.time := rfl
@[simp] theorem State.setReg_tofs (s : State) (k : Nat) (v : Word) : (s.setReg k v).tofs = s.tofs := rfl
@[simp] theorem State.setReg_pw (s : State) (k : Nat) (v : Word) : (s.setReg k v).pw = s.pw := rfl
@[simp] theorem State.setReg_act (s : State) (k : Nat) (v : Word) : (s.setReg k v).act = s.act := rfl
@[simp] theorem State.setReg_latch (s : State) (k : Nat) (v : Word) : (s.setReg k v).latch = s.latch := rfl
@[simp] theorem State.setReg_released (s : State) (k : Nat) (v : Word) : (s.setReg k v).released = s.released := rfl
@[simp] theorem State.setReg_dram (s : State) (k : Nat) (v : Word) : (s.setReg k v).dram = s.dram := rfl
@[simp] theorem State.setReg_hostMem (s : State) (k : Nat) (v : Word) : (s.setReg k v).hostMem = s.hostMem := rfl
@[simp] theorem State.setReg_pool (s : State) (k : Nat) (v : Word) : (s.setReg k v).pool = s.pool := rfl
@[simp] theorem State.setReg_encs (s : State) (k : Nat) (v : Word) : (s.setReg k v).encs = s.encs := rfl
@[simp] theorem State.setReg_scheds (s : State) (k : Nat) (v : Word) : (s.setReg k v).scheds = s.scheds := rfl
@[simp] theorem State.setReg_heads (s : State) (k : Nat) (v : Word) : (s.setReg k v).heads = s.heads := rfl
@[simp] theorem State.setReg_seqs (s : State) (k : Nat) (v : Word) : (s.setReg k v).seqs = s.seqs := rfl
@[simp] theorem State.setReg_sync (s : State) (k : Nat) (v : Word) : (s.setReg k v).sync = s.sync := rfl
@[simp] theorem State.setReg_gpio (s : State) (k : Nat) (v : Word) : (s.setReg k v).gpio = s.gpio := rfl
@[simp] theorem State.setReg_ports (s : State) (k : Nat) (v : Word) : (s.setReg k v).ports = s.ports := rfl
@[simp] theorem State.setReg_faces (s : State) (k : Nat) (v : Word) : (s.setReg k v).faces = s.faces := rfl
@[simp] theorem State.setReg_fctxs (s : State) (k : Nat) (v : Word) : (s.setReg k v).fctxs = s.fctxs := rfl
@[simp] theorem State.setReg_sctxs (s : State) (k : Nat) (v : Word) : (s.setReg k v).sctxs = s.sctxs := rfl
@[simp] theorem State.setReg_seamLast (s : State) (k : Nat) (v : Word) : (s.setReg k v).seamLast = s.seamLast := rfl
@[simp] theorem State.setReg_stocks (s : State) (k : Nat) (v : Word) : (s.setReg k v).stocks = s.stocks := rfl
@[simp] theorem State.setReg_closings (s : State) (k : Nat) (v : Word) : (s.setReg k v).closings = s.closings := rfl
@[simp] theorem State.setReg_riddle (s : State) (k : Nat) (v : Word) : (s.setReg k v).riddle = s.riddle := rfl
@[simp] theorem State.setReg_kerfs (s : State) (k : Nat) (v : Word) : (s.setReg k v).kerfs = s.kerfs := rfl
@[simp] theorem State.setReg_benches (s : State) (k : Nat) (v : Word) : (s.setReg k v).benches = s.benches := rfl
@[simp] theorem State.setReg_cores (s : State) (k : Nat) (v : Word) : (s.setReg k v).cores = s.cores := rfl
@[simp] theorem State.setReg_boxes (s : State) (k : Nat) (v : Word) : (s.setReg k v).boxes = s.boxes := rfl
@[simp] theorem State.setReg_swq (s : State) (k : Nat) (v : Word) : (s.setReg k v).swq = s.swq := rfl
@[simp] theorem State.setReg_uarts (s : State) (k : Nat) (v : Word) : (s.setReg k v).uarts = s.uarts := rfl
@[simp] theorem State.setReg_chans (s : State) (k : Nat) (v : Word) : (s.setReg k v).chans = s.chans := rfl
@[simp] theorem State.setReg_fw (s : State) (k : Nat) (v : Word) : (s.setReg k v).fw = s.fw := rfl
@[simp] theorem State.setReg_res (s : State) (k : Nat) (v : Word) : (s.setReg k v).res = s.res := rfl
@[simp] theorem State.setReg_flash (s : State) (k : Nat) (v : Word) : (s.setReg k v).flash = s.flash := rfl
@[simp] theorem State.setReg_spoil (s : State) (k : Nat) (v : Word) : (s.setReg k v).spoil = s.spoil := rfl
@[simp] theorem State.setReg_pcie (s : State) (k : Nat) (v : Word) : (s.setReg k v).pcie = s.pcie := rfl
@[simp] theorem State.setReg_jtag (s : State) (k : Nat) (v : Word) : (s.setReg k v).jtag = s.jtag := rfl
@[simp] theorem State.setReg_cal (s : State) (k : Nat) (v : Word) : (s.setReg k v).cal = s.cal := rfl
@[simp] theorem State.setReg_undef (s : State) (k : Nat) (v : Word) : (s.setReg k v).undef = s.undef := rfl
@[simp] theorem State.setReg_regs (s : State) (k : Nat) (v : Word) : (s.setReg k v).regs = SMap.set (RegMap.reset) s.regs k v := rfl
@[simp] theorem State.setEff_pending (s : State) (k : Nat) (v : Word) : (s.setEff k v).pending = s.pending := rfl
@[simp] theorem State.setEff_free (s : State) (k : Nat) (v : Word) : (s.setEff k v).free = s.free := rfl
@[simp] theorem State.setEff_rd (s : State) (k : Nat) (v : Word) : (s.setEff k v).rd = s.rd := rfl
@[simp] theorem State.setEff_time (s : State) (k : Nat) (v : Word) : (s.setEff k v).time = s.time := rfl
@[simp] theorem State.setEff_tofs (s : State) (k : Nat) (v : Word) : (s.setEff k v).tofs = s.tofs := rfl
@[simp] theorem State.setEff_pw (s : State) (k : Nat) (v : Word) : (s.setEff k v).pw = s.pw := rfl
@[simp] theorem State.setEff_regs (s : State) (k : Nat) (v : Word) : (s.setEff k v).regs = s.regs := rfl
@[simp] theorem State.setEff_latch (s : State) (k : Nat) (v : Word) : (s.setEff k v).latch = s.latch := rfl
@[simp] theorem State.setEff_released (s : State) (k : Nat) (v : Word) : (s.setEff k v).released = s.released := rfl
@[simp] theorem State.setEff_dram (s : State) (k : Nat) (v : Word) : (s.setEff k v).dram = s.dram := rfl
@[simp] theorem State.setEff_hostMem (s : State) (k : Nat) (v : Word) : (s.setEff k v).hostMem = s.hostMem := rfl
@[simp] theorem State.setEff_pool (s : State) (k : Nat) (v : Word) : (s.setEff k v).pool = s.pool := rfl
@[simp] theorem State.setEff_encs (s : State) (k : Nat) (v : Word) : (s.setEff k v).encs = s.encs := rfl
@[simp] theorem State.setEff_scheds (s : State) (k : Nat) (v : Word) : (s.setEff k v).scheds = s.scheds := rfl
@[simp] theorem State.setEff_heads (s : State) (k : Nat) (v : Word) : (s.setEff k v).heads = s.heads := rfl
@[simp] theorem State.setEff_seqs (s : State) (k : Nat) (v : Word) : (s.setEff k v).seqs = s.seqs := rfl
@[simp] theorem State.setEff_sync (s : State) (k : Nat) (v : Word) : (s.setEff k v).sync = s.sync := rfl
@[simp] theorem State.setEff_gpio (s : State) (k : Nat) (v : Word) : (s.setEff k v).gpio = s.gpio := rfl
@[simp] theorem State.setEff_ports (s : State) (k : Nat) (v : Word) : (s.setEff k v).ports = s.ports := rfl
@[simp] theorem State.setEff_faces (s : State) (k : Nat) (v : Word) : (s.setEff k v).faces = s.faces := rfl
@[simp] theorem State.setEff_fctxs (s : State) (k : Nat) (v : Word) : (s.setEff k v).fctxs = s.fctxs := rfl
@[simp] theorem State.setEff_sctxs (s : State) (k : Nat) (v : Word) : (s.setEff k v).sctxs = s.sctxs := rfl
@[simp] theorem State.setEff_seamLast (s : State) (k : Nat) (v : Word) : (s.setEff k v).seamLast = s.seamLast := rfl
@[simp] theorem State.setEff_stocks (s : State) (k : Nat) (v : Word) : (s.setEff k v).stocks = s.stocks := rfl
@[simp] theorem State.setEff_closings (s : State) (k : Nat) (v : Word) : (s.setEff k v).closings = s.closings := rfl
@[simp] theorem State.setEff_riddle (s : State) (k : Nat) (v : Word) : (s.setEff k v).riddle = s.riddle := rfl
@[simp] theorem State.setEff_kerfs (s : State) (k : Nat) (v : Word) : (s.setEff k v).kerfs = s.kerfs := rfl
@[simp] theorem State.setEff_benches (s : State) (k : Nat) (v : Word) : (s.setEff k v).benches = s.benches := rfl
@[simp] theorem State.setEff_cores (s : State) (k : Nat) (v : Word) : (s.setEff k v).cores = s.cores := rfl
@[simp] theorem State.setEff_boxes (s : State) (k : Nat) (v : Word) : (s.setEff k v).boxes = s.boxes := rfl
@[simp] theorem State.setEff_swq (s : State) (k : Nat) (v : Word) : (s.setEff k v).swq = s.swq := rfl
@[simp] theorem State.setEff_uarts (s : State) (k : Nat) (v : Word) : (s.setEff k v).uarts = s.uarts := rfl
@[simp] theorem State.setEff_chans (s : State) (k : Nat) (v : Word) : (s.setEff k v).chans = s.chans := rfl
@[simp] theorem State.setEff_fw (s : State) (k : Nat) (v : Word) : (s.setEff k v).fw = s.fw := rfl
@[simp] theorem State.setEff_res (s : State) (k : Nat) (v : Word) : (s.setEff k v).res = s.res := rfl
@[simp] theorem State.setEff_flash (s : State) (k : Nat) (v : Word) : (s.setEff k v).flash = s.flash := rfl
@[simp] theorem State.setEff_spoil (s : State) (k : Nat) (v : Word) : (s.setEff k v).spoil = s.spoil := rfl
@[simp] theorem State.setEff_pcie (s : State) (k : Nat) (v : Word) : (s.setEff k v).pcie = s.pcie := rfl
@[simp] theorem State.setEff_jtag (s : State) (k : Nat) (v : Word) : (s.setEff k v).jtag = s.jtag := rfl
@[simp] theorem State.setEff_cal (s : State) (k : Nat) (v : Word) : (s.setEff k v).cal = s.cal := rfl
@[simp] theorem State.setEff_undef (s : State) (k : Nat) (v : Word) : (s.setEff k v).undef = s.undef := rfl
@[simp] theorem State.setEff_act (s : State) (k : Nat) (v : Word) : (s.setEff k v).act = SMap.set (RegMap.reset) s.act k v := rfl
@[simp] theorem State.setLatch_pending (s : State) (k : Nat) (v : Word) : (s.setLatch k v).pending = s.pending := rfl
@[simp] theorem State.setLatch_free (s : State) (k : Nat) (v : Word) : (s.setLatch k v).free = s.free := rfl
@[simp] theorem State.setLatch_rd (s : State) (k : Nat) (v : Word) : (s.setLatch k v).rd = s.rd := rfl
@[simp] theorem State.setLatch_time (s : State) (k : Nat) (v : Word) : (s.setLatch k v).time = s.time := rfl
@[simp] theorem State.setLatch_tofs (s : State) (k : Nat) (v : Word) : (s.setLatch k v).tofs = s.tofs := rfl
@[simp] theorem State.setLatch_pw (s : State) (k : Nat) (v : Word) : (s.setLatch k v).pw = s.pw := rfl
@[simp] theorem State.setLatch_regs (s : State) (k : Nat) (v : Word) : (s.setLatch k v).regs = s.regs := rfl
@[simp] theorem State.setLatch_act (s : State) (k : Nat) (v : Word) : (s.setLatch k v).act = s.act := rfl
@[simp] theorem State.setLatch_released (s : State) (k : Nat) (v : Word) : (s.setLatch k v).released = s.released := rfl
@[simp] theorem State.setLatch_dram (s : State) (k : Nat) (v : Word) : (s.setLatch k v).dram = s.dram := rfl
@[simp] theorem State.setLatch_hostMem (s : State) (k : Nat) (v : Word) : (s.setLatch k v).hostMem = s.hostMem := rfl
@[simp] theorem State.setLatch_pool (s : State) (k : Nat) (v : Word) : (s.setLatch k v).pool = s.pool := rfl
@[simp] theorem State.setLatch_encs (s : State) (k : Nat) (v : Word) : (s.setLatch k v).encs = s.encs := rfl
@[simp] theorem State.setLatch_scheds (s : State) (k : Nat) (v : Word) : (s.setLatch k v).scheds = s.scheds := rfl
@[simp] theorem State.setLatch_heads (s : State) (k : Nat) (v : Word) : (s.setLatch k v).heads = s.heads := rfl
@[simp] theorem State.setLatch_seqs (s : State) (k : Nat) (v : Word) : (s.setLatch k v).seqs = s.seqs := rfl
@[simp] theorem State.setLatch_sync (s : State) (k : Nat) (v : Word) : (s.setLatch k v).sync = s.sync := rfl
@[simp] theorem State.setLatch_gpio (s : State) (k : Nat) (v : Word) : (s.setLatch k v).gpio = s.gpio := rfl
@[simp] theorem State.setLatch_ports (s : State) (k : Nat) (v : Word) : (s.setLatch k v).ports = s.ports := rfl
@[simp] theorem State.setLatch_faces (s : State) (k : Nat) (v : Word) : (s.setLatch k v).faces = s.faces := rfl
@[simp] theorem State.setLatch_fctxs (s : State) (k : Nat) (v : Word) : (s.setLatch k v).fctxs = s.fctxs := rfl
@[simp] theorem State.setLatch_sctxs (s : State) (k : Nat) (v : Word) : (s.setLatch k v).sctxs = s.sctxs := rfl
@[simp] theorem State.setLatch_seamLast (s : State) (k : Nat) (v : Word) : (s.setLatch k v).seamLast = s.seamLast := rfl
@[simp] theorem State.setLatch_stocks (s : State) (k : Nat) (v : Word) : (s.setLatch k v).stocks = s.stocks := rfl
@[simp] theorem State.setLatch_closings (s : State) (k : Nat) (v : Word) : (s.setLatch k v).closings = s.closings := rfl
@[simp] theorem State.setLatch_riddle (s : State) (k : Nat) (v : Word) : (s.setLatch k v).riddle = s.riddle := rfl
@[simp] theorem State.setLatch_kerfs (s : State) (k : Nat) (v : Word) : (s.setLatch k v).kerfs = s.kerfs := rfl
@[simp] theorem State.setLatch_benches (s : State) (k : Nat) (v : Word) : (s.setLatch k v).benches = s.benches := rfl
@[simp] theorem State.setLatch_cores (s : State) (k : Nat) (v : Word) : (s.setLatch k v).cores = s.cores := rfl
@[simp] theorem State.setLatch_boxes (s : State) (k : Nat) (v : Word) : (s.setLatch k v).boxes = s.boxes := rfl
@[simp] theorem State.setLatch_swq (s : State) (k : Nat) (v : Word) : (s.setLatch k v).swq = s.swq := rfl
@[simp] theorem State.setLatch_uarts (s : State) (k : Nat) (v : Word) : (s.setLatch k v).uarts = s.uarts := rfl
@[simp] theorem State.setLatch_chans (s : State) (k : Nat) (v : Word) : (s.setLatch k v).chans = s.chans := rfl
@[simp] theorem State.setLatch_fw (s : State) (k : Nat) (v : Word) : (s.setLatch k v).fw = s.fw := rfl
@[simp] theorem State.setLatch_res (s : State) (k : Nat) (v : Word) : (s.setLatch k v).res = s.res := rfl
@[simp] theorem State.setLatch_flash (s : State) (k : Nat) (v : Word) : (s.setLatch k v).flash = s.flash := rfl
@[simp] theorem State.setLatch_spoil (s : State) (k : Nat) (v : Word) : (s.setLatch k v).spoil = s.spoil := rfl
@[simp] theorem State.setLatch_pcie (s : State) (k : Nat) (v : Word) : (s.setLatch k v).pcie = s.pcie := rfl
@[simp] theorem State.setLatch_jtag (s : State) (k : Nat) (v : Word) : (s.setLatch k v).jtag = s.jtag := rfl
@[simp] theorem State.setLatch_cal (s : State) (k : Nat) (v : Word) : (s.setLatch k v).cal = s.cal := rfl
@[simp] theorem State.setLatch_undef (s : State) (k : Nat) (v : Word) : (s.setLatch k v).undef = s.undef := rfl
@[simp] theorem State.setLatch_latch (s : State) (k : Nat) (v : Word) : (s.setLatch k v).latch = SMap.set (fun _ => (0 : Word)) s.latch k v := rfl
@[simp] theorem State.setRd_pending (s : State) (k : Nat) (v : (BitVec 32)) : (s.setRd k v).pending = s.pending := rfl
@[simp] theorem State.setRd_free (s : State) (k : Nat) (v : (BitVec 32)) : (s.setRd k v).free = s.free := rfl
@[simp] theorem State.setRd_time (s : State) (k : Nat) (v : (BitVec 32)) : (s.setRd k v).time = s.time := rfl
@[simp] theorem State.setRd_tofs (s : State) (k : Nat) (v : (BitVec 32)) : (s.setRd k v).tofs = s.tofs := rfl
@[simp] theorem State.setRd_pw (s : State) (k : Nat) (v : (BitVec 32)) : (s.setRd k v).pw = s.pw := rfl
@[simp] theorem State.setRd_regs (s : State) (k : Nat) (v : (BitVec 32)) : (s.setRd k v).regs = s.regs := rfl
@[simp] theorem State.setRd_act (s : State) (k : Nat) (v : (BitVec 32)) : (s.setRd k v).act = s.act := rfl
@[simp] theorem State.setRd_latch (s : State) (k : Nat) (v : (BitVec 32)) : (s.setRd k v).latch = s.latch := rfl
@[simp] theorem State.setRd_released (s : State) (k : Nat) (v : (BitVec 32)) : (s.setRd k v).released = s.released := rfl
@[simp] theorem State.setRd_dram (s : State) (k : Nat) (v : (BitVec 32)) : (s.setRd k v).dram = s.dram := rfl
@[simp] theorem State.setRd_hostMem (s : State) (k : Nat) (v : (BitVec 32)) : (s.setRd k v).hostMem = s.hostMem := rfl
@[simp] theorem State.setRd_pool (s : State) (k : Nat) (v : (BitVec 32)) : (s.setRd k v).pool = s.pool := rfl
@[simp] theorem State.setRd_encs (s : State) (k : Nat) (v : (BitVec 32)) : (s.setRd k v).encs = s.encs := rfl
@[simp] theorem State.setRd_scheds (s : State) (k : Nat) (v : (BitVec 32)) : (s.setRd k v).scheds = s.scheds := rfl
@[simp] theorem State.setRd_heads (s : State) (k : Nat) (v : (BitVec 32)) : (s.setRd k v).heads = s.heads := rfl
@[simp] theorem State.setRd_seqs (s : State) (k : Nat) (v : (BitVec 32)) : (s.setRd k v).seqs = s.seqs := rfl
@[simp] theorem State.setRd_sync (s : State) (k : Nat) (v : (BitVec 32)) : (s.setRd k v).sync = s.sync := rfl
@[simp] theorem State.setRd_gpio (s : State) (k : Nat) (v : (BitVec 32)) : (s.setRd k v).gpio = s.gpio := rfl
@[simp] theorem State.setRd_ports (s : State) (k : Nat) (v : (BitVec 32)) : (s.setRd k v).ports = s.ports := rfl
@[simp] theorem State.setRd_faces (s : State) (k : Nat) (v : (BitVec 32)) : (s.setRd k v).faces = s.faces := rfl
@[simp] theorem State.setRd_fctxs (s : State) (k : Nat) (v : (BitVec 32)) : (s.setRd k v).fctxs = s.fctxs := rfl
@[simp] theorem State.setRd_sctxs (s : State) (k : Nat) (v : (BitVec 32)) : (s.setRd k v).sctxs = s.sctxs := rfl
@[simp] theorem State.setRd_seamLast (s : State) (k : Nat) (v : (BitVec 32)) : (s.setRd k v).seamLast = s.seamLast := rfl
@[simp] theorem State.setRd_stocks (s : State) (k : Nat) (v : (BitVec 32)) : (s.setRd k v).stocks = s.stocks := rfl
@[simp] theorem State.setRd_closings (s : State) (k : Nat) (v : (BitVec 32)) : (s.setRd k v).closings = s.closings := rfl
@[simp] theorem State.setRd_riddle (s : State) (k : Nat) (v : (BitVec 32)) : (s.setRd k v).riddle = s.riddle := rfl
@[simp] theorem State.setRd_kerfs (s : State) (k : Nat) (v : (BitVec 32)) : (s.setRd k v).kerfs = s.kerfs := rfl
@[simp] theorem State.setRd_benches (s : State) (k : Nat) (v : (BitVec 32)) : (s.setRd k v).benches = s.benches := rfl
@[simp] theorem State.setRd_cores (s : State) (k : Nat) (v : (BitVec 32)) : (s.setRd k v).cores = s.cores := rfl
@[simp] theorem State.setRd_boxes (s : State) (k : Nat) (v : (BitVec 32)) : (s.setRd k v).boxes = s.boxes := rfl
@[simp] theorem State.setRd_swq (s : State) (k : Nat) (v : (BitVec 32)) : (s.setRd k v).swq = s.swq := rfl
@[simp] theorem State.setRd_uarts (s : State) (k : Nat) (v : (BitVec 32)) : (s.setRd k v).uarts = s.uarts := rfl
@[simp] theorem State.setRd_chans (s : State) (k : Nat) (v : (BitVec 32)) : (s.setRd k v).chans = s.chans := rfl
@[simp] theorem State.setRd_fw (s : State) (k : Nat) (v : (BitVec 32)) : (s.setRd k v).fw = s.fw := rfl
@[simp] theorem State.setRd_res (s : State) (k : Nat) (v : (BitVec 32)) : (s.setRd k v).res = s.res := rfl
@[simp] theorem State.setRd_flash (s : State) (k : Nat) (v : (BitVec 32)) : (s.setRd k v).flash = s.flash := rfl
@[simp] theorem State.setRd_spoil (s : State) (k : Nat) (v : (BitVec 32)) : (s.setRd k v).spoil = s.spoil := rfl
@[simp] theorem State.setRd_pcie (s : State) (k : Nat) (v : (BitVec 32)) : (s.setRd k v).pcie = s.pcie := rfl
@[simp] theorem State.setRd_jtag (s : State) (k : Nat) (v : (BitVec 32)) : (s.setRd k v).jtag = s.jtag := rfl
@[simp] theorem State.setRd_cal (s : State) (k : Nat) (v : (BitVec 32)) : (s.setRd k v).cal = s.cal := rfl
@[simp] theorem State.setRd_undef (s : State) (k : Nat) (v : (BitVec 32)) : (s.setRd k v).undef = s.undef := rfl
@[simp] theorem State.setRd_rd (s : State) (k : Nat) (v : (BitVec 32)) : (s.setRd k v).rd = SMap.set (fun _ => (0 : BitVec 32)) s.rd k v := rfl
@[simp] theorem State.setDramByte_pending (s : State) (k : Nat) (v : Byte) : (s.setDramByte k v).pending = s.pending := rfl
@[simp] theorem State.setDramByte_free (s : State) (k : Nat) (v : Byte) : (s.setDramByte k v).free = s.free := rfl
@[simp] theorem State.setDramByte_rd (s : State) (k : Nat) (v : Byte) : (s.setDramByte k v).rd = s.rd := rfl
@[simp] theorem State.setDramByte_time (s : State) (k : Nat) (v : Byte) : (s.setDramByte k v).time = s.time := rfl
@[simp] theorem State.setDramByte_tofs (s : State) (k : Nat) (v : Byte) : (s.setDramByte k v).tofs = s.tofs := rfl
@[simp] theorem State.setDramByte_pw (s : State) (k : Nat) (v : Byte) : (s.setDramByte k v).pw = s.pw := rfl
@[simp] theorem State.setDramByte_regs (s : State) (k : Nat) (v : Byte) : (s.setDramByte k v).regs = s.regs := rfl
@[simp] theorem State.setDramByte_act (s : State) (k : Nat) (v : Byte) : (s.setDramByte k v).act = s.act := rfl
@[simp] theorem State.setDramByte_latch (s : State) (k : Nat) (v : Byte) : (s.setDramByte k v).latch = s.latch := rfl
@[simp] theorem State.setDramByte_released (s : State) (k : Nat) (v : Byte) : (s.setDramByte k v).released = s.released := rfl
@[simp] theorem State.setDramByte_hostMem (s : State) (k : Nat) (v : Byte) : (s.setDramByte k v).hostMem = s.hostMem := rfl
@[simp] theorem State.setDramByte_pool (s : State) (k : Nat) (v : Byte) : (s.setDramByte k v).pool = s.pool := rfl
@[simp] theorem State.setDramByte_encs (s : State) (k : Nat) (v : Byte) : (s.setDramByte k v).encs = s.encs := rfl
@[simp] theorem State.setDramByte_scheds (s : State) (k : Nat) (v : Byte) : (s.setDramByte k v).scheds = s.scheds := rfl
@[simp] theorem State.setDramByte_heads (s : State) (k : Nat) (v : Byte) : (s.setDramByte k v).heads = s.heads := rfl
@[simp] theorem State.setDramByte_seqs (s : State) (k : Nat) (v : Byte) : (s.setDramByte k v).seqs = s.seqs := rfl
@[simp] theorem State.setDramByte_sync (s : State) (k : Nat) (v : Byte) : (s.setDramByte k v).sync = s.sync := rfl
@[simp] theorem State.setDramByte_gpio (s : State) (k : Nat) (v : Byte) : (s.setDramByte k v).gpio = s.gpio := rfl
@[simp] theorem State.setDramByte_ports (s : State) (k : Nat) (v : Byte) : (s.setDramByte k v).ports = s.ports := rfl
@[simp] theorem State.setDramByte_faces (s : State) (k : Nat) (v : Byte) : (s.setDramByte k v).faces = s.faces := rfl
@[simp] theorem State.setDramByte_fctxs (s : State) (k : Nat) (v : Byte) : (s.setDramByte k v).fctxs = s.fctxs := rfl
@[simp] theorem State.setDramByte_sctxs (s : State) (k : Nat) (v : Byte) : (s.setDramByte k v).sctxs = s.sctxs := rfl
@[simp] theorem State.setDramByte_seamLast (s : State) (k : Nat) (v : Byte) : (s.setDramByte k v).seamLast = s.seamLast := rfl
@[simp] theorem State.setDramByte_stocks (s : State) (k : Nat) (v : Byte) : (s.setDramByte k v).stocks = s.stocks := rfl
@[simp] theorem State.setDramByte_closings (s : State) (k : Nat) (v : Byte) : (s.setDramByte k v).closings = s.closings := rfl
@[simp] theorem State.setDramByte_riddle (s : State) (k : Nat) (v : Byte) : (s.setDramByte k v).riddle = s.riddle := rfl
@[simp] theorem State.setDramByte_kerfs (s : State) (k : Nat) (v : Byte) : (s.setDramByte k v).kerfs = s.kerfs := rfl
@[simp] theorem State.setDramByte_benches (s : State) (k : Nat) (v : Byte) : (s.setDramByte k v).benches = s.benches := rfl
@[simp] theorem State.setDramByte_cores (s : State) (k : Nat) (v : Byte) : (s.setDramByte k v).cores = s.cores := rfl
@[simp] theorem State.setDramByte_boxes (s : State) (k : Nat) (v : Byte) : (s.setDramByte k v).boxes = s.boxes := rfl
@[simp] theorem State.setDramByte_swq (s : State) (k : Nat) (v : Byte) : (s.setDramByte k v).swq = s.swq := rfl
@[simp] theorem State.setDramByte_uarts (s : State) (k : Nat) (v : Byte) : (s.setDramByte k v).uarts = s.uarts := rfl
@[simp] theorem State.setDramByte_chans (s : State) (k : Nat) (v : Byte) : (s.setDramByte k v).chans = s.chans := rfl
@[simp] theorem State.setDramByte_fw (s : State) (k : Nat) (v : Byte) : (s.setDramByte k v).fw = s.fw := rfl
@[simp] theorem State.setDramByte_res (s : State) (k : Nat) (v : Byte) : (s.setDramByte k v).res = s.res := rfl
@[simp] theorem State.setDramByte_flash (s : State) (k : Nat) (v : Byte) : (s.setDramByte k v).flash = s.flash := rfl
@[simp] theorem State.setDramByte_spoil (s : State) (k : Nat) (v : Byte) : (s.setDramByte k v).spoil = s.spoil := rfl
@[simp] theorem State.setDramByte_pcie (s : State) (k : Nat) (v : Byte) : (s.setDramByte k v).pcie = s.pcie := rfl
@[simp] theorem State.setDramByte_jtag (s : State) (k : Nat) (v : Byte) : (s.setDramByte k v).jtag = s.jtag := rfl
@[simp] theorem State.setDramByte_cal (s : State) (k : Nat) (v : Byte) : (s.setDramByte k v).cal = s.cal := rfl
@[simp] theorem State.setDramByte_undef (s : State) (k : Nat) (v : Byte) : (s.setDramByte k v).undef = s.undef := rfl
@[simp] theorem State.setDramByte_dram (s : State) (k : Nat) (v : Byte) : (s.setDramByte k v).dram = SMap.set (fun _ => (0 : Byte)) s.dram k v := rfl
@[simp] theorem State.setHostByte_pending (s : State) (k : Nat) (v : Byte) : (s.setHostByte k v).pending = s.pending := rfl
@[simp] theorem State.setHostByte_free (s : State) (k : Nat) (v : Byte) : (s.setHostByte k v).free = s.free := rfl
@[simp] theorem State.setHostByte_rd (s : State) (k : Nat) (v : Byte) : (s.setHostByte k v).rd = s.rd := rfl
@[simp] theorem State.setHostByte_time (s : State) (k : Nat) (v : Byte) : (s.setHostByte k v).time = s.time := rfl
@[simp] theorem State.setHostByte_tofs (s : State) (k : Nat) (v : Byte) : (s.setHostByte k v).tofs = s.tofs := rfl
@[simp] theorem State.setHostByte_pw (s : State) (k : Nat) (v : Byte) : (s.setHostByte k v).pw = s.pw := rfl
@[simp] theorem State.setHostByte_regs (s : State) (k : Nat) (v : Byte) : (s.setHostByte k v).regs = s.regs := rfl
@[simp] theorem State.setHostByte_act (s : State) (k : Nat) (v : Byte) : (s.setHostByte k v).act = s.act := rfl
@[simp] theorem State.setHostByte_latch (s : State) (k : Nat) (v : Byte) : (s.setHostByte k v).latch = s.latch := rfl
@[simp] theorem State.setHostByte_released (s : State) (k : Nat) (v : Byte) : (s.setHostByte k v).released = s.released := rfl
@[simp] theorem State.setHostByte_dram (s : State) (k : Nat) (v : Byte) : (s.setHostByte k v).dram = s.dram := rfl
@[simp] theorem State.setHostByte_pool (s : State) (k : Nat) (v : Byte) : (s.setHostByte k v).pool = s.pool := rfl
@[simp] theorem State.setHostByte_encs (s : State) (k : Nat) (v : Byte) : (s.setHostByte k v).encs = s.encs := rfl
@[simp] theorem State.setHostByte_scheds (s : State) (k : Nat) (v : Byte) : (s.setHostByte k v).scheds = s.scheds := rfl
@[simp] theorem State.setHostByte_heads (s : State) (k : Nat) (v : Byte) : (s.setHostByte k v).heads = s.heads := rfl
@[simp] theorem State.setHostByte_seqs (s : State) (k : Nat) (v : Byte) : (s.setHostByte k v).seqs = s.seqs := rfl
@[simp] theorem State.setHostByte_sync (s : State) (k : Nat) (v : Byte) : (s.setHostByte k v).sync = s.sync := rfl
@[simp] theorem State.setHostByte_gpio (s : State) (k : Nat) (v : Byte) : (s.setHostByte k v).gpio = s.gpio := rfl
@[simp] theorem State.setHostByte_ports (s : State) (k : Nat) (v : Byte) : (s.setHostByte k v).ports = s.ports := rfl
@[simp] theorem State.setHostByte_faces (s : State) (k : Nat) (v : Byte) : (s.setHostByte k v).faces = s.faces := rfl
@[simp] theorem State.setHostByte_fctxs (s : State) (k : Nat) (v : Byte) : (s.setHostByte k v).fctxs = s.fctxs := rfl
@[simp] theorem State.setHostByte_sctxs (s : State) (k : Nat) (v : Byte) : (s.setHostByte k v).sctxs = s.sctxs := rfl
@[simp] theorem State.setHostByte_seamLast (s : State) (k : Nat) (v : Byte) : (s.setHostByte k v).seamLast = s.seamLast := rfl
@[simp] theorem State.setHostByte_stocks (s : State) (k : Nat) (v : Byte) : (s.setHostByte k v).stocks = s.stocks := rfl
@[simp] theorem State.setHostByte_closings (s : State) (k : Nat) (v : Byte) : (s.setHostByte k v).closings = s.closings := rfl
@[simp] theorem State.setHostByte_riddle (s : State) (k : Nat) (v : Byte) : (s.setHostByte k v).riddle = s.riddle := rfl
@[simp] theorem State.setHostByte_kerfs (s : State) (k : Nat) (v : Byte) : (s.setHostByte k v).kerfs = s.kerfs := rfl
@[simp] theorem State.setHostByte_benches (s : State) (k : Nat) (v : Byte) : (s.setHostByte k v).benches = s.benches := rfl
@[simp] theorem State.setHostByte_cores (s : State) (k : Nat) (v : Byte) : (s.setHostByte k v).cores = s.cores := rfl
@[simp] theorem State.setHostByte_boxes (s : State) (k : Nat) (v : Byte) : (s.setHostByte k v).boxes = s.boxes := rfl
@[simp] theorem State.setHostByte_swq (s : State) (k : Nat) (v : Byte) : (s.setHostByte k v).swq = s.swq := rfl
@[simp] theorem State.setHostByte_uarts (s : State) (k : Nat) (v : Byte) : (s.setHostByte k v).uarts = s.uarts := rfl
@[simp] theorem State.setHostByte_chans (s : State) (k : Nat) (v : Byte) : (s.setHostByte k v).chans = s.chans := rfl
@[simp] theorem State.setHostByte_fw (s : State) (k : Nat) (v : Byte) : (s.setHostByte k v).fw = s.fw := rfl
@[simp] theorem State.setHostByte_res (s : State) (k : Nat) (v : Byte) : (s.setHostByte k v).res = s.res := rfl
@[simp] theorem State.setHostByte_flash (s : State) (k : Nat) (v : Byte) : (s.setHostByte k v).flash = s.flash := rfl
@[simp] theorem State.setHostByte_spoil (s : State) (k : Nat) (v : Byte) : (s.setHostByte k v).spoil = s.spoil := rfl
@[simp] theorem State.setHostByte_pcie (s : State) (k : Nat) (v : Byte) : (s.setHostByte k v).pcie = s.pcie := rfl
@[simp] theorem State.setHostByte_jtag (s : State) (k : Nat) (v : Byte) : (s.setHostByte k v).jtag = s.jtag := rfl
@[simp] theorem State.setHostByte_cal (s : State) (k : Nat) (v : Byte) : (s.setHostByte k v).cal = s.cal := rfl
@[simp] theorem State.setHostByte_undef (s : State) (k : Nat) (v : Byte) : (s.setHostByte k v).undef = s.undef := rfl
@[simp] theorem State.setHostByte_hostMem (s : State) (k : Nat) (v : Byte) : (s.setHostByte k v).hostMem = SMap.set (fun _ => (0 : Byte)) s.hostMem k v := rfl
@[simp] theorem State.setEnc_pending (s : State) (k : Nat) (v : Enc) : (s.setEnc k v).pending = s.pending := rfl
@[simp] theorem State.setEnc_free (s : State) (k : Nat) (v : Enc) : (s.setEnc k v).free = s.free := rfl
@[simp] theorem State.setEnc_rd (s : State) (k : Nat) (v : Enc) : (s.setEnc k v).rd = s.rd := rfl
@[simp] theorem State.setEnc_time (s : State) (k : Nat) (v : Enc) : (s.setEnc k v).time = s.time := rfl
@[simp] theorem State.setEnc_tofs (s : State) (k : Nat) (v : Enc) : (s.setEnc k v).tofs = s.tofs := rfl
@[simp] theorem State.setEnc_pw (s : State) (k : Nat) (v : Enc) : (s.setEnc k v).pw = s.pw := rfl
@[simp] theorem State.setEnc_regs (s : State) (k : Nat) (v : Enc) : (s.setEnc k v).regs = s.regs := rfl
@[simp] theorem State.setEnc_act (s : State) (k : Nat) (v : Enc) : (s.setEnc k v).act = s.act := rfl
@[simp] theorem State.setEnc_latch (s : State) (k : Nat) (v : Enc) : (s.setEnc k v).latch = s.latch := rfl
@[simp] theorem State.setEnc_released (s : State) (k : Nat) (v : Enc) : (s.setEnc k v).released = s.released := rfl
@[simp] theorem State.setEnc_dram (s : State) (k : Nat) (v : Enc) : (s.setEnc k v).dram = s.dram := rfl
@[simp] theorem State.setEnc_hostMem (s : State) (k : Nat) (v : Enc) : (s.setEnc k v).hostMem = s.hostMem := rfl
@[simp] theorem State.setEnc_pool (s : State) (k : Nat) (v : Enc) : (s.setEnc k v).pool = s.pool := rfl
@[simp] theorem State.setEnc_scheds (s : State) (k : Nat) (v : Enc) : (s.setEnc k v).scheds = s.scheds := rfl
@[simp] theorem State.setEnc_heads (s : State) (k : Nat) (v : Enc) : (s.setEnc k v).heads = s.heads := rfl
@[simp] theorem State.setEnc_seqs (s : State) (k : Nat) (v : Enc) : (s.setEnc k v).seqs = s.seqs := rfl
@[simp] theorem State.setEnc_sync (s : State) (k : Nat) (v : Enc) : (s.setEnc k v).sync = s.sync := rfl
@[simp] theorem State.setEnc_gpio (s : State) (k : Nat) (v : Enc) : (s.setEnc k v).gpio = s.gpio := rfl
@[simp] theorem State.setEnc_ports (s : State) (k : Nat) (v : Enc) : (s.setEnc k v).ports = s.ports := rfl
@[simp] theorem State.setEnc_faces (s : State) (k : Nat) (v : Enc) : (s.setEnc k v).faces = s.faces := rfl
@[simp] theorem State.setEnc_fctxs (s : State) (k : Nat) (v : Enc) : (s.setEnc k v).fctxs = s.fctxs := rfl
@[simp] theorem State.setEnc_sctxs (s : State) (k : Nat) (v : Enc) : (s.setEnc k v).sctxs = s.sctxs := rfl
@[simp] theorem State.setEnc_seamLast (s : State) (k : Nat) (v : Enc) : (s.setEnc k v).seamLast = s.seamLast := rfl
@[simp] theorem State.setEnc_stocks (s : State) (k : Nat) (v : Enc) : (s.setEnc k v).stocks = s.stocks := rfl
@[simp] theorem State.setEnc_closings (s : State) (k : Nat) (v : Enc) : (s.setEnc k v).closings = s.closings := rfl
@[simp] theorem State.setEnc_riddle (s : State) (k : Nat) (v : Enc) : (s.setEnc k v).riddle = s.riddle := rfl
@[simp] theorem State.setEnc_kerfs (s : State) (k : Nat) (v : Enc) : (s.setEnc k v).kerfs = s.kerfs := rfl
@[simp] theorem State.setEnc_benches (s : State) (k : Nat) (v : Enc) : (s.setEnc k v).benches = s.benches := rfl
@[simp] theorem State.setEnc_cores (s : State) (k : Nat) (v : Enc) : (s.setEnc k v).cores = s.cores := rfl
@[simp] theorem State.setEnc_boxes (s : State) (k : Nat) (v : Enc) : (s.setEnc k v).boxes = s.boxes := rfl
@[simp] theorem State.setEnc_swq (s : State) (k : Nat) (v : Enc) : (s.setEnc k v).swq = s.swq := rfl
@[simp] theorem State.setEnc_uarts (s : State) (k : Nat) (v : Enc) : (s.setEnc k v).uarts = s.uarts := rfl
@[simp] theorem State.setEnc_chans (s : State) (k : Nat) (v : Enc) : (s.setEnc k v).chans = s.chans := rfl
@[simp] theorem State.setEnc_fw (s : State) (k : Nat) (v : Enc) : (s.setEnc k v).fw = s.fw := rfl
@[simp] theorem State.setEnc_res (s : State) (k : Nat) (v : Enc) : (s.setEnc k v).res = s.res := rfl
@[simp] theorem State.setEnc_flash (s : State) (k : Nat) (v : Enc) : (s.setEnc k v).flash = s.flash := rfl
@[simp] theorem State.setEnc_spoil (s : State) (k : Nat) (v : Enc) : (s.setEnc k v).spoil = s.spoil := rfl
@[simp] theorem State.setEnc_pcie (s : State) (k : Nat) (v : Enc) : (s.setEnc k v).pcie = s.pcie := rfl
@[simp] theorem State.setEnc_jtag (s : State) (k : Nat) (v : Enc) : (s.setEnc k v).jtag = s.jtag := rfl
@[simp] theorem State.setEnc_cal (s : State) (k : Nat) (v : Enc) : (s.setEnc k v).cal = s.cal := rfl
@[simp] theorem State.setEnc_undef (s : State) (k : Nat) (v : Enc) : (s.setEnc k v).undef = s.undef := rfl
@[simp] theorem State.setEnc_encs (s : State) (k : Nat) (v : Enc) : (s.setEnc k v).encs = SMap.set (fun _ => ({} : Enc)) s.encs k v := rfl
@[simp] theorem State.setSched_pending (s : State) (k : Nat) (v : Sched) : (s.setSched k v).pending = s.pending := rfl
@[simp] theorem State.setSched_free (s : State) (k : Nat) (v : Sched) : (s.setSched k v).free = s.free := rfl
@[simp] theorem State.setSched_rd (s : State) (k : Nat) (v : Sched) : (s.setSched k v).rd = s.rd := rfl
@[simp] theorem State.setSched_time (s : State) (k : Nat) (v : Sched) : (s.setSched k v).time = s.time := rfl
@[simp] theorem State.setSched_tofs (s : State) (k : Nat) (v : Sched) : (s.setSched k v).tofs = s.tofs := rfl
@[simp] theorem State.setSched_pw (s : State) (k : Nat) (v : Sched) : (s.setSched k v).pw = s.pw := rfl
@[simp] theorem State.setSched_regs (s : State) (k : Nat) (v : Sched) : (s.setSched k v).regs = s.regs := rfl
@[simp] theorem State.setSched_act (s : State) (k : Nat) (v : Sched) : (s.setSched k v).act = s.act := rfl
@[simp] theorem State.setSched_latch (s : State) (k : Nat) (v : Sched) : (s.setSched k v).latch = s.latch := rfl
@[simp] theorem State.setSched_released (s : State) (k : Nat) (v : Sched) : (s.setSched k v).released = s.released := rfl
@[simp] theorem State.setSched_dram (s : State) (k : Nat) (v : Sched) : (s.setSched k v).dram = s.dram := rfl
@[simp] theorem State.setSched_hostMem (s : State) (k : Nat) (v : Sched) : (s.setSched k v).hostMem = s.hostMem := rfl
@[simp] theorem State.setSched_pool (s : State) (k : Nat) (v : Sched) : (s.setSched k v).pool = s.pool := rfl
@[simp] theorem State.setSched_encs (s : State) (k : Nat) (v : Sched) : (s.setSched k v).encs = s.encs := rfl
@[simp] theorem State.setSched_heads (s : State) (k : Nat) (v : Sched) : (s.setSched k v).heads = s.heads := rfl
@[simp] theorem State.setSched_seqs (s : State) (k : Nat) (v : Sched) : (s.setSched k v).seqs = s.seqs := rfl
@[simp] theorem State.setSched_sync (s : State) (k : Nat) (v : Sched) : (s.setSched k v).sync = s.sync := rfl
@[simp] theorem State.setSched_gpio (s : State) (k : Nat) (v : Sched) : (s.setSched k v).gpio = s.gpio := rfl
@[simp] theorem State.setSched_ports (s : State) (k : Nat) (v : Sched) : (s.setSched k v).ports = s.ports := rfl
@[simp] theorem State.setSched_faces (s : State) (k : Nat) (v : Sched) : (s.setSched k v).faces = s.faces := rfl
@[simp] theorem State.setSched_fctxs (s : State) (k : Nat) (v : Sched) : (s.setSched k v).fctxs = s.fctxs := rfl
@[simp] theorem State.setSched_sctxs (s : State) (k : Nat) (v : Sched) : (s.setSched k v).sctxs = s.sctxs := rfl
@[simp] theorem State.setSched_seamLast (s : State) (k : Nat) (v : Sched) : (s.setSched k v).seamLast = s.seamLast := rfl
@[simp] theorem State.setSched_stocks (s : State) (k : Nat) (v : Sched) : (s.setSched k v).stocks = s.stocks := rfl
@[simp] theorem State.setSched_closings (s : State) (k : Nat) (v : Sched) : (s.setSched k v).closings = s.closings := rfl
@[simp] theorem State.setSched_riddle (s : State) (k : Nat) (v : Sched) : (s.setSched k v).riddle = s.riddle := rfl
@[simp] theorem State.setSched_kerfs (s : State) (k : Nat) (v : Sched) : (s.setSched k v).kerfs = s.kerfs := rfl
@[simp] theorem State.setSched_benches (s : State) (k : Nat) (v : Sched) : (s.setSched k v).benches = s.benches := rfl
@[simp] theorem State.setSched_cores (s : State) (k : Nat) (v : Sched) : (s.setSched k v).cores = s.cores := rfl
@[simp] theorem State.setSched_boxes (s : State) (k : Nat) (v : Sched) : (s.setSched k v).boxes = s.boxes := rfl
@[simp] theorem State.setSched_swq (s : State) (k : Nat) (v : Sched) : (s.setSched k v).swq = s.swq := rfl
@[simp] theorem State.setSched_uarts (s : State) (k : Nat) (v : Sched) : (s.setSched k v).uarts = s.uarts := rfl
@[simp] theorem State.setSched_chans (s : State) (k : Nat) (v : Sched) : (s.setSched k v).chans = s.chans := rfl
@[simp] theorem State.setSched_fw (s : State) (k : Nat) (v : Sched) : (s.setSched k v).fw = s.fw := rfl
@[simp] theorem State.setSched_res (s : State) (k : Nat) (v : Sched) : (s.setSched k v).res = s.res := rfl
@[simp] theorem State.setSched_flash (s : State) (k : Nat) (v : Sched) : (s.setSched k v).flash = s.flash := rfl
@[simp] theorem State.setSched_spoil (s : State) (k : Nat) (v : Sched) : (s.setSched k v).spoil = s.spoil := rfl
@[simp] theorem State.setSched_pcie (s : State) (k : Nat) (v : Sched) : (s.setSched k v).pcie = s.pcie := rfl
@[simp] theorem State.setSched_jtag (s : State) (k : Nat) (v : Sched) : (s.setSched k v).jtag = s.jtag := rfl
@[simp] theorem State.setSched_cal (s : State) (k : Nat) (v : Sched) : (s.setSched k v).cal = s.cal := rfl
@[simp] theorem State.setSched_undef (s : State) (k : Nat) (v : Sched) : (s.setSched k v).undef = s.undef := rfl
@[simp] theorem State.setSched_scheds (s : State) (k : Nat) (v : Sched) : (s.setSched k v).scheds = SMap.set (fun _ => ({} : Sched)) s.scheds k v := rfl
@[simp] theorem State.setHead_pending (s : State) (k : Nat) (v : Head) : (s.setHead k v).pending = s.pending := rfl
@[simp] theorem State.setHead_free (s : State) (k : Nat) (v : Head) : (s.setHead k v).free = s.free := rfl
@[simp] theorem State.setHead_rd (s : State) (k : Nat) (v : Head) : (s.setHead k v).rd = s.rd := rfl
@[simp] theorem State.setHead_time (s : State) (k : Nat) (v : Head) : (s.setHead k v).time = s.time := rfl
@[simp] theorem State.setHead_tofs (s : State) (k : Nat) (v : Head) : (s.setHead k v).tofs = s.tofs := rfl
@[simp] theorem State.setHead_pw (s : State) (k : Nat) (v : Head) : (s.setHead k v).pw = s.pw := rfl
@[simp] theorem State.setHead_regs (s : State) (k : Nat) (v : Head) : (s.setHead k v).regs = s.regs := rfl
@[simp] theorem State.setHead_act (s : State) (k : Nat) (v : Head) : (s.setHead k v).act = s.act := rfl
@[simp] theorem State.setHead_latch (s : State) (k : Nat) (v : Head) : (s.setHead k v).latch = s.latch := rfl
@[simp] theorem State.setHead_released (s : State) (k : Nat) (v : Head) : (s.setHead k v).released = s.released := rfl
@[simp] theorem State.setHead_dram (s : State) (k : Nat) (v : Head) : (s.setHead k v).dram = s.dram := rfl
@[simp] theorem State.setHead_hostMem (s : State) (k : Nat) (v : Head) : (s.setHead k v).hostMem = s.hostMem := rfl
@[simp] theorem State.setHead_pool (s : State) (k : Nat) (v : Head) : (s.setHead k v).pool = s.pool := rfl
@[simp] theorem State.setHead_encs (s : State) (k : Nat) (v : Head) : (s.setHead k v).encs = s.encs := rfl
@[simp] theorem State.setHead_scheds (s : State) (k : Nat) (v : Head) : (s.setHead k v).scheds = s.scheds := rfl
@[simp] theorem State.setHead_seqs (s : State) (k : Nat) (v : Head) : (s.setHead k v).seqs = s.seqs := rfl
@[simp] theorem State.setHead_sync (s : State) (k : Nat) (v : Head) : (s.setHead k v).sync = s.sync := rfl
@[simp] theorem State.setHead_gpio (s : State) (k : Nat) (v : Head) : (s.setHead k v).gpio = s.gpio := rfl
@[simp] theorem State.setHead_ports (s : State) (k : Nat) (v : Head) : (s.setHead k v).ports = s.ports := rfl
@[simp] theorem State.setHead_faces (s : State) (k : Nat) (v : Head) : (s.setHead k v).faces = s.faces := rfl
@[simp] theorem State.setHead_fctxs (s : State) (k : Nat) (v : Head) : (s.setHead k v).fctxs = s.fctxs := rfl
@[simp] theorem State.setHead_sctxs (s : State) (k : Nat) (v : Head) : (s.setHead k v).sctxs = s.sctxs := rfl
@[simp] theorem State.setHead_seamLast (s : State) (k : Nat) (v : Head) : (s.setHead k v).seamLast = s.seamLast := rfl
@[simp] theorem State.setHead_stocks (s : State) (k : Nat) (v : Head) : (s.setHead k v).stocks = s.stocks := rfl
@[simp] theorem State.setHead_closings (s : State) (k : Nat) (v : Head) : (s.setHead k v).closings = s.closings := rfl
@[simp] theorem State.setHead_riddle (s : State) (k : Nat) (v : Head) : (s.setHead k v).riddle = s.riddle := rfl
@[simp] theorem State.setHead_kerfs (s : State) (k : Nat) (v : Head) : (s.setHead k v).kerfs = s.kerfs := rfl
@[simp] theorem State.setHead_benches (s : State) (k : Nat) (v : Head) : (s.setHead k v).benches = s.benches := rfl
@[simp] theorem State.setHead_cores (s : State) (k : Nat) (v : Head) : (s.setHead k v).cores = s.cores := rfl
@[simp] theorem State.setHead_boxes (s : State) (k : Nat) (v : Head) : (s.setHead k v).boxes = s.boxes := rfl
@[simp] theorem State.setHead_swq (s : State) (k : Nat) (v : Head) : (s.setHead k v).swq = s.swq := rfl
@[simp] theorem State.setHead_uarts (s : State) (k : Nat) (v : Head) : (s.setHead k v).uarts = s.uarts := rfl
@[simp] theorem State.setHead_chans (s : State) (k : Nat) (v : Head) : (s.setHead k v).chans = s.chans := rfl
@[simp] theorem State.setHead_fw (s : State) (k : Nat) (v : Head) : (s.setHead k v).fw = s.fw := rfl
@[simp] theorem State.setHead_res (s : State) (k : Nat) (v : Head) : (s.setHead k v).res = s.res := rfl
@[simp] theorem State.setHead_flash (s : State) (k : Nat) (v : Head) : (s.setHead k v).flash = s.flash := rfl
@[simp] theorem State.setHead_spoil (s : State) (k : Nat) (v : Head) : (s.setHead k v).spoil = s.spoil := rfl
@[simp] theorem State.setHead_pcie (s : State) (k : Nat) (v : Head) : (s.setHead k v).pcie = s.pcie := rfl
@[simp] theorem State.setHead_jtag (s : State) (k : Nat) (v : Head) : (s.setHead k v).jtag = s.jtag := rfl
@[simp] theorem State.setHead_cal (s : State) (k : Nat) (v : Head) : (s.setHead k v).cal = s.cal := rfl
@[simp] theorem State.setHead_undef (s : State) (k : Nat) (v : Head) : (s.setHead k v).undef = s.undef := rfl
@[simp] theorem State.setHead_heads (s : State) (k : Nat) (v : Head) : (s.setHead k v).heads = SMap.set (fun _ => ({} : Head)) s.heads k v := rfl
@[simp] theorem State.setSeq_pending (s : State) (k : Nat) (v : Seq) : (s.setSeq k v).pending = s.pending := rfl
@[simp] theorem State.setSeq_free (s : State) (k : Nat) (v : Seq) : (s.setSeq k v).free = s.free := rfl
@[simp] theorem State.setSeq_rd (s : State) (k : Nat) (v : Seq) : (s.setSeq k v).rd = s.rd := rfl
@[simp] theorem State.setSeq_time (s : State) (k : Nat) (v : Seq) : (s.setSeq k v).time = s.time := rfl
@[simp] theorem State.setSeq_tofs (s : State) (k : Nat) (v : Seq) : (s.setSeq k v).tofs = s.tofs := rfl
@[simp] theorem State.setSeq_pw (s : State) (k : Nat) (v : Seq) : (s.setSeq k v).pw = s.pw := rfl
@[simp] theorem State.setSeq_regs (s : State) (k : Nat) (v : Seq) : (s.setSeq k v).regs = s.regs := rfl
@[simp] theorem State.setSeq_act (s : State) (k : Nat) (v : Seq) : (s.setSeq k v).act = s.act := rfl
@[simp] theorem State.setSeq_latch (s : State) (k : Nat) (v : Seq) : (s.setSeq k v).latch = s.latch := rfl
@[simp] theorem State.setSeq_released (s : State) (k : Nat) (v : Seq) : (s.setSeq k v).released = s.released := rfl
@[simp] theorem State.setSeq_dram (s : State) (k : Nat) (v : Seq) : (s.setSeq k v).dram = s.dram := rfl
@[simp] theorem State.setSeq_hostMem (s : State) (k : Nat) (v : Seq) : (s.setSeq k v).hostMem = s.hostMem := rfl
@[simp] theorem State.setSeq_pool (s : State) (k : Nat) (v : Seq) : (s.setSeq k v).pool = s.pool := rfl
@[simp] theorem State.setSeq_encs (s : State) (k : Nat) (v : Seq) : (s.setSeq k v).encs = s.encs := rfl
@[simp] theorem State.setSeq_scheds (s : State) (k : Nat) (v : Seq) : (s.setSeq k v).scheds = s.scheds := rfl
@[simp] theorem State.setSeq_heads (s : State) (k : Nat) (v : Seq) : (s.setSeq k v).heads = s.heads := rfl
@[simp] theorem State.setSeq_sync (s : State) (k : Nat) (v : Seq) : (s.setSeq k v).sync = s.sync := rfl
@[simp] theorem State.setSeq_gpio (s : State) (k : Nat) (v : Seq) : (s.setSeq k v).gpio = s.gpio := rfl
@[simp] theorem State.setSeq_ports (s : State) (k : Nat) (v : Seq) : (s.setSeq k v).ports = s.ports := rfl
@[simp] theorem State.setSeq_faces (s : State) (k : Nat) (v : Seq) : (s.setSeq k v).faces = s.faces := rfl
@[simp] theorem State.setSeq_fctxs (s : State) (k : Nat) (v : Seq) : (s.setSeq k v).fctxs = s.fctxs := rfl
@[simp] theorem State.setSeq_sctxs (s : State) (k : Nat) (v : Seq) : (s.setSeq k v).sctxs = s.sctxs := rfl
@[simp] theorem State.setSeq_seamLast (s : State) (k : Nat) (v : Seq) : (s.setSeq k v).seamLast = s.seamLast := rfl
@[simp] theorem State.setSeq_stocks (s : State) (k : Nat) (v : Seq) : (s.setSeq k v).stocks = s.stocks := rfl
@[simp] theorem State.setSeq_closings (s : State) (k : Nat) (v : Seq) : (s.setSeq k v).closings = s.closings := rfl
@[simp] theorem State.setSeq_riddle (s : State) (k : Nat) (v : Seq) : (s.setSeq k v).riddle = s.riddle := rfl
@[simp] theorem State.setSeq_kerfs (s : State) (k : Nat) (v : Seq) : (s.setSeq k v).kerfs = s.kerfs := rfl
@[simp] theorem State.setSeq_benches (s : State) (k : Nat) (v : Seq) : (s.setSeq k v).benches = s.benches := rfl
@[simp] theorem State.setSeq_cores (s : State) (k : Nat) (v : Seq) : (s.setSeq k v).cores = s.cores := rfl
@[simp] theorem State.setSeq_boxes (s : State) (k : Nat) (v : Seq) : (s.setSeq k v).boxes = s.boxes := rfl
@[simp] theorem State.setSeq_swq (s : State) (k : Nat) (v : Seq) : (s.setSeq k v).swq = s.swq := rfl
@[simp] theorem State.setSeq_uarts (s : State) (k : Nat) (v : Seq) : (s.setSeq k v).uarts = s.uarts := rfl
@[simp] theorem State.setSeq_chans (s : State) (k : Nat) (v : Seq) : (s.setSeq k v).chans = s.chans := rfl
@[simp] theorem State.setSeq_fw (s : State) (k : Nat) (v : Seq) : (s.setSeq k v).fw = s.fw := rfl
@[simp] theorem State.setSeq_res (s : State) (k : Nat) (v : Seq) : (s.setSeq k v).res = s.res := rfl
@[simp] theorem State.setSeq_flash (s : State) (k : Nat) (v : Seq) : (s.setSeq k v).flash = s.flash := rfl
@[simp] theorem State.setSeq_spoil (s : State) (k : Nat) (v : Seq) : (s.setSeq k v).spoil = s.spoil := rfl
@[simp] theorem State.setSeq_pcie (s : State) (k : Nat) (v : Seq) : (s.setSeq k v).pcie = s.pcie := rfl
@[simp] theorem State.setSeq_jtag (s : State) (k : Nat) (v : Seq) : (s.setSeq k v).jtag = s.jtag := rfl
@[simp] theorem State.setSeq_cal (s : State) (k : Nat) (v : Seq) : (s.setSeq k v).cal = s.cal := rfl
@[simp] theorem State.setSeq_undef (s : State) (k : Nat) (v : Seq) : (s.setSeq k v).undef = s.undef := rfl
@[simp] theorem State.setSeq_seqs (s : State) (k : Nat) (v : Seq) : (s.setSeq k v).seqs = SMap.set (fun _ => ({} : Seq)) s.seqs k v := rfl
@[simp] theorem State.setPort_pending (s : State) (k : Nat) (v : Port) : (s.setPort k v).pending = s.pending := rfl
@[simp] theorem State.setPort_free (s : State) (k : Nat) (v : Port) : (s.setPort k v).free = s.free := rfl
@[simp] theorem State.setPort_rd (s : State) (k : Nat) (v : Port) : (s.setPort k v).rd = s.rd := rfl
@[simp] theorem State.setPort_time (s : State) (k : Nat) (v : Port) : (s.setPort k v).time = s.time := rfl
@[simp] theorem State.setPort_tofs (s : State) (k : Nat) (v : Port) : (s.setPort k v).tofs = s.tofs := rfl
@[simp] theorem State.setPort_pw (s : State) (k : Nat) (v : Port) : (s.setPort k v).pw = s.pw := rfl
@[simp] theorem State.setPort_regs (s : State) (k : Nat) (v : Port) : (s.setPort k v).regs = s.regs := rfl
@[simp] theorem State.setPort_act (s : State) (k : Nat) (v : Port) : (s.setPort k v).act = s.act := rfl
@[simp] theorem State.setPort_latch (s : State) (k : Nat) (v : Port) : (s.setPort k v).latch = s.latch := rfl
@[simp] theorem State.setPort_released (s : State) (k : Nat) (v : Port) : (s.setPort k v).released = s.released := rfl
@[simp] theorem State.setPort_dram (s : State) (k : Nat) (v : Port) : (s.setPort k v).dram = s.dram := rfl
@[simp] theorem State.setPort_hostMem (s : State) (k : Nat) (v : Port) : (s.setPort k v).hostMem = s.hostMem := rfl
@[simp] theorem State.setPort_pool (s : State) (k : Nat) (v : Port) : (s.setPort k v).pool = s.pool := rfl
@[simp] theorem State.setPort_encs (s : State) (k : Nat) (v : Port) : (s.setPort k v).encs = s.encs := rfl
@[simp] theorem State.setPort_scheds (s : State) (k : Nat) (v : Port) : (s.setPort k v).scheds = s.scheds := rfl
@[simp] theorem State.setPort_heads (s : State) (k : Nat) (v : Port) : (s.setPort k v).heads = s.heads := rfl
@[simp] theorem State.setPort_seqs (s : State) (k : Nat) (v : Port) : (s.setPort k v).seqs = s.seqs := rfl
@[simp] theorem State.setPort_sync (s : State) (k : Nat) (v : Port) : (s.setPort k v).sync = s.sync := rfl
@[simp] theorem State.setPort_gpio (s : State) (k : Nat) (v : Port) : (s.setPort k v).gpio = s.gpio := rfl
@[simp] theorem State.setPort_faces (s : State) (k : Nat) (v : Port) : (s.setPort k v).faces = s.faces := rfl
@[simp] theorem State.setPort_fctxs (s : State) (k : Nat) (v : Port) : (s.setPort k v).fctxs = s.fctxs := rfl
@[simp] theorem State.setPort_sctxs (s : State) (k : Nat) (v : Port) : (s.setPort k v).sctxs = s.sctxs := rfl
@[simp] theorem State.setPort_seamLast (s : State) (k : Nat) (v : Port) : (s.setPort k v).seamLast = s.seamLast := rfl
@[simp] theorem State.setPort_stocks (s : State) (k : Nat) (v : Port) : (s.setPort k v).stocks = s.stocks := rfl
@[simp] theorem State.setPort_closings (s : State) (k : Nat) (v : Port) : (s.setPort k v).closings = s.closings := rfl
@[simp] theorem State.setPort_riddle (s : State) (k : Nat) (v : Port) : (s.setPort k v).riddle = s.riddle := rfl
@[simp] theorem State.setPort_kerfs (s : State) (k : Nat) (v : Port) : (s.setPort k v).kerfs = s.kerfs := rfl
@[simp] theorem State.setPort_benches (s : State) (k : Nat) (v : Port) : (s.setPort k v).benches = s.benches := rfl
@[simp] theorem State.setPort_cores (s : State) (k : Nat) (v : Port) : (s.setPort k v).cores = s.cores := rfl
@[simp] theorem State.setPort_boxes (s : State) (k : Nat) (v : Port) : (s.setPort k v).boxes = s.boxes := rfl
@[simp] theorem State.setPort_swq (s : State) (k : Nat) (v : Port) : (s.setPort k v).swq = s.swq := rfl
@[simp] theorem State.setPort_uarts (s : State) (k : Nat) (v : Port) : (s.setPort k v).uarts = s.uarts := rfl
@[simp] theorem State.setPort_chans (s : State) (k : Nat) (v : Port) : (s.setPort k v).chans = s.chans := rfl
@[simp] theorem State.setPort_fw (s : State) (k : Nat) (v : Port) : (s.setPort k v).fw = s.fw := rfl
@[simp] theorem State.setPort_res (s : State) (k : Nat) (v : Port) : (s.setPort k v).res = s.res := rfl
@[simp] theorem State.setPort_flash (s : State) (k : Nat) (v : Port) : (s.setPort k v).flash = s.flash := rfl
@[simp] theorem State.setPort_spoil (s : State) (k : Nat) (v : Port) : (s.setPort k v).spoil = s.spoil := rfl
@[simp] theorem State.setPort_pcie (s : State) (k : Nat) (v : Port) : (s.setPort k v).pcie = s.pcie := rfl
@[simp] theorem State.setPort_jtag (s : State) (k : Nat) (v : Port) : (s.setPort k v).jtag = s.jtag := rfl
@[simp] theorem State.setPort_cal (s : State) (k : Nat) (v : Port) : (s.setPort k v).cal = s.cal := rfl
@[simp] theorem State.setPort_undef (s : State) (k : Nat) (v : Port) : (s.setPort k v).undef = s.undef := rfl
@[simp] theorem State.setPort_ports (s : State) (k : Nat) (v : Port) : (s.setPort k v).ports = SMap.set (fun _ => ({} : Port)) s.ports k v := rfl
@[simp] theorem State.setFace_pending (s : State) (k : Nat) (v : Face) : (s.setFace k v).pending = s.pending := rfl
@[simp] theorem State.setFace_free (s : State) (k : Nat) (v : Face) : (s.setFace k v).free = s.free := rfl
@[simp] theorem State.setFace_rd (s : State) (k : Nat) (v : Face) : (s.setFace k v).rd = s.rd := rfl
@[simp] theorem State.setFace_time (s : State) (k : Nat) (v : Face) : (s.setFace k v).time = s.time := rfl
@[simp] theorem State.setFace_tofs (s : State) (k : Nat) (v : Face) : (s.setFace k v).tofs = s.tofs := rfl
@[simp] theorem State.setFace_pw (s : State) (k : Nat) (v : Face) : (s.setFace k v).pw = s.pw := rfl
@[simp] theorem State.setFace_regs (s : State) (k : Nat) (v : Face) : (s.setFace k v).regs = s.regs := rfl
@[simp] theorem State.setFace_act (s : State) (k : Nat) (v : Face) : (s.setFace k v).act = s.act := rfl
@[simp] theorem State.setFace_latch (s : State) (k : Nat) (v : Face) : (s.setFace k v).latch = s.latch := rfl
@[simp] theorem State.setFace_released (s : State) (k : Nat) (v : Face) : (s.setFace k v).released = s.released := rfl
@[simp] theorem State.setFace_dram (s : State) (k : Nat) (v : Face) : (s.setFace k v).dram = s.dram := rfl
@[simp] theorem State.setFace_hostMem (s : State) (k : Nat) (v : Face) : (s.setFace k v).hostMem = s.hostMem := rfl
@[simp] theorem State.setFace_pool (s : State) (k : Nat) (v : Face) : (s.setFace k v).pool = s.pool := rfl
@[simp] theorem State.setFace_encs (s : State) (k : Nat) (v : Face) : (s.setFace k v).encs = s.encs := rfl
@[simp] theorem State.setFace_scheds (s : State) (k : Nat) (v : Face) : (s.setFace k v).scheds = s.scheds := rfl
@[simp] theorem State.setFace_heads (s : State) (k : Nat) (v : Face) : (s.setFace k v).heads = s.heads := rfl
@[simp] theorem State.setFace_seqs (s : State) (k : Nat) (v : Face) : (s.setFace k v).seqs = s.seqs := rfl
@[simp] theorem State.setFace_sync (s : State) (k : Nat) (v : Face) : (s.setFace k v).sync = s.sync := rfl
@[simp] theorem State.setFace_gpio (s : State) (k : Nat) (v : Face) : (s.setFace k v).gpio = s.gpio := rfl
@[simp] theorem State.setFace_ports (s : State) (k : Nat) (v : Face) : (s.setFace k v).ports = s.ports := rfl
@[simp] theorem State.setFace_fctxs (s : State) (k : Nat) (v : Face) : (s.setFace k v).fctxs = s.fctxs := rfl
@[simp] theorem State.setFace_sctxs (s : State) (k : Nat) (v : Face) : (s.setFace k v).sctxs = s.sctxs := rfl
@[simp] theorem State.setFace_seamLast (s : State) (k : Nat) (v : Face) : (s.setFace k v).seamLast = s.seamLast := rfl
@[simp] theorem State.setFace_stocks (s : State) (k : Nat) (v : Face) : (s.setFace k v).stocks = s.stocks := rfl
@[simp] theorem State.setFace_closings (s : State) (k : Nat) (v : Face) : (s.setFace k v).closings = s.closings := rfl
@[simp] theorem State.setFace_riddle (s : State) (k : Nat) (v : Face) : (s.setFace k v).riddle = s.riddle := rfl
@[simp] theorem State.setFace_kerfs (s : State) (k : Nat) (v : Face) : (s.setFace k v).kerfs = s.kerfs := rfl
@[simp] theorem State.setFace_benches (s : State) (k : Nat) (v : Face) : (s.setFace k v).benches = s.benches := rfl
@[simp] theorem State.setFace_cores (s : State) (k : Nat) (v : Face) : (s.setFace k v).cores = s.cores := rfl
@[simp] theorem State.setFace_boxes (s : State) (k : Nat) (v : Face) : (s.setFace k v).boxes = s.boxes := rfl
@[simp] theorem State.setFace_swq (s : State) (k : Nat) (v : Face) : (s.setFace k v).swq = s.swq := rfl
@[simp] theorem State.setFace_uarts (s : State) (k : Nat) (v : Face) : (s.setFace k v).uarts = s.uarts := rfl
@[simp] theorem State.setFace_chans (s : State) (k : Nat) (v : Face) : (s.setFace k v).chans = s.chans := rfl
@[simp] theorem State.setFace_fw (s : State) (k : Nat) (v : Face) : (s.setFace k v).fw = s.fw := rfl
@[simp] theorem State.setFace_res (s : State) (k : Nat) (v : Face) : (s.setFace k v).res = s.res := rfl
@[simp] theorem State.setFace_flash (s : State) (k : Nat) (v : Face) : (s.setFace k v).flash = s.flash := rfl
@[simp] theorem State.setFace_spoil (s : State) (k : Nat) (v : Face) : (s.setFace k v).spoil = s.spoil := rfl
@[simp] theorem State.setFace_pcie (s : State) (k : Nat) (v : Face) : (s.setFace k v).pcie = s.pcie := rfl
@[simp] theorem State.setFace_jtag (s : State) (k : Nat) (v : Face) : (s.setFace k v).jtag = s.jtag := rfl
@[simp] theorem State.setFace_cal (s : State) (k : Nat) (v : Face) : (s.setFace k v).cal = s.cal := rfl
@[simp] theorem State.setFace_undef (s : State) (k : Nat) (v : Face) : (s.setFace k v).undef = s.undef := rfl
@[simp] theorem State.setFace_faces (s : State) (k : Nat) (v : Face) : (s.setFace k v).faces = SMap.set (fun _ => ({} : Face)) s.faces k v := rfl
@[simp] theorem State.setFctx_pending (s : State) (k : Nat) (v : FCtx) : (s.setFctx k v).pending = s.pending := rfl
@[simp] theorem State.setFctx_free (s : State) (k : Nat) (v : FCtx) : (s.setFctx k v).free = s.free := rfl
@[simp] theorem State.setFctx_rd (s : State) (k : Nat) (v : FCtx) : (s.setFctx k v).rd = s.rd := rfl
@[simp] theorem State.setFctx_time (s : State) (k : Nat) (v : FCtx) : (s.setFctx k v).time = s.time := rfl
@[simp] theorem State.setFctx_tofs (s : State) (k : Nat) (v : FCtx) : (s.setFctx k v).tofs = s.tofs := rfl
@[simp] theorem State.setFctx_pw (s : State) (k : Nat) (v : FCtx) : (s.setFctx k v).pw = s.pw := rfl
@[simp] theorem State.setFctx_regs (s : State) (k : Nat) (v : FCtx) : (s.setFctx k v).regs = s.regs := rfl
@[simp] theorem State.setFctx_act (s : State) (k : Nat) (v : FCtx) : (s.setFctx k v).act = s.act := rfl
@[simp] theorem State.setFctx_latch (s : State) (k : Nat) (v : FCtx) : (s.setFctx k v).latch = s.latch := rfl
@[simp] theorem State.setFctx_released (s : State) (k : Nat) (v : FCtx) : (s.setFctx k v).released = s.released := rfl
@[simp] theorem State.setFctx_dram (s : State) (k : Nat) (v : FCtx) : (s.setFctx k v).dram = s.dram := rfl
@[simp] theorem State.setFctx_hostMem (s : State) (k : Nat) (v : FCtx) : (s.setFctx k v).hostMem = s.hostMem := rfl
@[simp] theorem State.setFctx_pool (s : State) (k : Nat) (v : FCtx) : (s.setFctx k v).pool = s.pool := rfl
@[simp] theorem State.setFctx_encs (s : State) (k : Nat) (v : FCtx) : (s.setFctx k v).encs = s.encs := rfl
@[simp] theorem State.setFctx_scheds (s : State) (k : Nat) (v : FCtx) : (s.setFctx k v).scheds = s.scheds := rfl
@[simp] theorem State.setFctx_heads (s : State) (k : Nat) (v : FCtx) : (s.setFctx k v).heads = s.heads := rfl
@[simp] theorem State.setFctx_seqs (s : State) (k : Nat) (v : FCtx) : (s.setFctx k v).seqs = s.seqs := rfl
@[simp] theorem State.setFctx_sync (s : State) (k : Nat) (v : FCtx) : (s.setFctx k v).sync = s.sync := rfl
@[simp] theorem State.setFctx_gpio (s : State) (k : Nat) (v : FCtx) : (s.setFctx k v).gpio = s.gpio := rfl
@[simp] theorem State.setFctx_ports (s : State) (k : Nat) (v : FCtx) : (s.setFctx k v).ports = s.ports := rfl
@[simp] theorem State.setFctx_faces (s : State) (k : Nat) (v : FCtx) : (s.setFctx k v).faces = s.faces := rfl
@[simp] theorem State.setFctx_sctxs (s : State) (k : Nat) (v : FCtx) : (s.setFctx k v).sctxs = s.sctxs := rfl
@[simp] theorem State.setFctx_seamLast (s : State) (k : Nat) (v : FCtx) : (s.setFctx k v).seamLast = s.seamLast := rfl
@[simp] theorem State.setFctx_stocks (s : State) (k : Nat) (v : FCtx) : (s.setFctx k v).stocks = s.stocks := rfl
@[simp] theorem State.setFctx_closings (s : State) (k : Nat) (v : FCtx) : (s.setFctx k v).closings = s.closings := rfl
@[simp] theorem State.setFctx_riddle (s : State) (k : Nat) (v : FCtx) : (s.setFctx k v).riddle = s.riddle := rfl
@[simp] theorem State.setFctx_kerfs (s : State) (k : Nat) (v : FCtx) : (s.setFctx k v).kerfs = s.kerfs := rfl
@[simp] theorem State.setFctx_benches (s : State) (k : Nat) (v : FCtx) : (s.setFctx k v).benches = s.benches := rfl
@[simp] theorem State.setFctx_cores (s : State) (k : Nat) (v : FCtx) : (s.setFctx k v).cores = s.cores := rfl
@[simp] theorem State.setFctx_boxes (s : State) (k : Nat) (v : FCtx) : (s.setFctx k v).boxes = s.boxes := rfl
@[simp] theorem State.setFctx_swq (s : State) (k : Nat) (v : FCtx) : (s.setFctx k v).swq = s.swq := rfl
@[simp] theorem State.setFctx_uarts (s : State) (k : Nat) (v : FCtx) : (s.setFctx k v).uarts = s.uarts := rfl
@[simp] theorem State.setFctx_chans (s : State) (k : Nat) (v : FCtx) : (s.setFctx k v).chans = s.chans := rfl
@[simp] theorem State.setFctx_fw (s : State) (k : Nat) (v : FCtx) : (s.setFctx k v).fw = s.fw := rfl
@[simp] theorem State.setFctx_res (s : State) (k : Nat) (v : FCtx) : (s.setFctx k v).res = s.res := rfl
@[simp] theorem State.setFctx_flash (s : State) (k : Nat) (v : FCtx) : (s.setFctx k v).flash = s.flash := rfl
@[simp] theorem State.setFctx_spoil (s : State) (k : Nat) (v : FCtx) : (s.setFctx k v).spoil = s.spoil := rfl
@[simp] theorem State.setFctx_pcie (s : State) (k : Nat) (v : FCtx) : (s.setFctx k v).pcie = s.pcie := rfl
@[simp] theorem State.setFctx_jtag (s : State) (k : Nat) (v : FCtx) : (s.setFctx k v).jtag = s.jtag := rfl
@[simp] theorem State.setFctx_cal (s : State) (k : Nat) (v : FCtx) : (s.setFctx k v).cal = s.cal := rfl
@[simp] theorem State.setFctx_undef (s : State) (k : Nat) (v : FCtx) : (s.setFctx k v).undef = s.undef := rfl
@[simp] theorem State.setFctx_fctxs (s : State) (k : Nat) (v : FCtx) : (s.setFctx k v).fctxs = SMap.set (fun _ => ({} : FCtx)) s.fctxs k v := rfl
@[simp] theorem State.setSctx_pending (s : State) (k : Nat) (v : SCtx) : (s.setSctx k v).pending = s.pending := rfl
@[simp] theorem State.setSctx_free (s : State) (k : Nat) (v : SCtx) : (s.setSctx k v).free = s.free := rfl
@[simp] theorem State.setSctx_rd (s : State) (k : Nat) (v : SCtx) : (s.setSctx k v).rd = s.rd := rfl
@[simp] theorem State.setSctx_time (s : State) (k : Nat) (v : SCtx) : (s.setSctx k v).time = s.time := rfl
@[simp] theorem State.setSctx_tofs (s : State) (k : Nat) (v : SCtx) : (s.setSctx k v).tofs = s.tofs := rfl
@[simp] theorem State.setSctx_pw (s : State) (k : Nat) (v : SCtx) : (s.setSctx k v).pw = s.pw := rfl
@[simp] theorem State.setSctx_regs (s : State) (k : Nat) (v : SCtx) : (s.setSctx k v).regs = s.regs := rfl
@[simp] theorem State.setSctx_act (s : State) (k : Nat) (v : SCtx) : (s.setSctx k v).act = s.act := rfl
@[simp] theorem State.setSctx_latch (s : State) (k : Nat) (v : SCtx) : (s.setSctx k v).latch = s.latch := rfl
@[simp] theorem State.setSctx_released (s : State) (k : Nat) (v : SCtx) : (s.setSctx k v).released = s.released := rfl
@[simp] theorem State.setSctx_dram (s : State) (k : Nat) (v : SCtx) : (s.setSctx k v).dram = s.dram := rfl
@[simp] theorem State.setSctx_hostMem (s : State) (k : Nat) (v : SCtx) : (s.setSctx k v).hostMem = s.hostMem := rfl
@[simp] theorem State.setSctx_pool (s : State) (k : Nat) (v : SCtx) : (s.setSctx k v).pool = s.pool := rfl
@[simp] theorem State.setSctx_encs (s : State) (k : Nat) (v : SCtx) : (s.setSctx k v).encs = s.encs := rfl
@[simp] theorem State.setSctx_scheds (s : State) (k : Nat) (v : SCtx) : (s.setSctx k v).scheds = s.scheds := rfl
@[simp] theorem State.setSctx_heads (s : State) (k : Nat) (v : SCtx) : (s.setSctx k v).heads = s.heads := rfl
@[simp] theorem State.setSctx_seqs (s : State) (k : Nat) (v : SCtx) : (s.setSctx k v).seqs = s.seqs := rfl
@[simp] theorem State.setSctx_sync (s : State) (k : Nat) (v : SCtx) : (s.setSctx k v).sync = s.sync := rfl
@[simp] theorem State.setSctx_gpio (s : State) (k : Nat) (v : SCtx) : (s.setSctx k v).gpio = s.gpio := rfl
@[simp] theorem State.setSctx_ports (s : State) (k : Nat) (v : SCtx) : (s.setSctx k v).ports = s.ports := rfl
@[simp] theorem State.setSctx_faces (s : State) (k : Nat) (v : SCtx) : (s.setSctx k v).faces = s.faces := rfl
@[simp] theorem State.setSctx_fctxs (s : State) (k : Nat) (v : SCtx) : (s.setSctx k v).fctxs = s.fctxs := rfl
@[simp] theorem State.setSctx_seamLast (s : State) (k : Nat) (v : SCtx) : (s.setSctx k v).seamLast = s.seamLast := rfl
@[simp] theorem State.setSctx_stocks (s : State) (k : Nat) (v : SCtx) : (s.setSctx k v).stocks = s.stocks := rfl
@[simp] theorem State.setSctx_closings (s : State) (k : Nat) (v : SCtx) : (s.setSctx k v).closings = s.closings := rfl
@[simp] theorem State.setSctx_riddle (s : State) (k : Nat) (v : SCtx) : (s.setSctx k v).riddle = s.riddle := rfl
@[simp] theorem State.setSctx_kerfs (s : State) (k : Nat) (v : SCtx) : (s.setSctx k v).kerfs = s.kerfs := rfl
@[simp] theorem State.setSctx_benches (s : State) (k : Nat) (v : SCtx) : (s.setSctx k v).benches = s.benches := rfl
@[simp] theorem State.setSctx_cores (s : State) (k : Nat) (v : SCtx) : (s.setSctx k v).cores = s.cores := rfl
@[simp] theorem State.setSctx_boxes (s : State) (k : Nat) (v : SCtx) : (s.setSctx k v).boxes = s.boxes := rfl
@[simp] theorem State.setSctx_swq (s : State) (k : Nat) (v : SCtx) : (s.setSctx k v).swq = s.swq := rfl
@[simp] theorem State.setSctx_uarts (s : State) (k : Nat) (v : SCtx) : (s.setSctx k v).uarts = s.uarts := rfl
@[simp] theorem State.setSctx_chans (s : State) (k : Nat) (v : SCtx) : (s.setSctx k v).chans = s.chans := rfl
@[simp] theorem State.setSctx_fw (s : State) (k : Nat) (v : SCtx) : (s.setSctx k v).fw = s.fw := rfl
@[simp] theorem State.setSctx_res (s : State) (k : Nat) (v : SCtx) : (s.setSctx k v).res = s.res := rfl
@[simp] theorem State.setSctx_flash (s : State) (k : Nat) (v : SCtx) : (s.setSctx k v).flash = s.flash := rfl
@[simp] theorem State.setSctx_spoil (s : State) (k : Nat) (v : SCtx) : (s.setSctx k v).spoil = s.spoil := rfl
@[simp] theorem State.setSctx_pcie (s : State) (k : Nat) (v : SCtx) : (s.setSctx k v).pcie = s.pcie := rfl
@[simp] theorem State.setSctx_jtag (s : State) (k : Nat) (v : SCtx) : (s.setSctx k v).jtag = s.jtag := rfl
@[simp] theorem State.setSctx_cal (s : State) (k : Nat) (v : SCtx) : (s.setSctx k v).cal = s.cal := rfl
@[simp] theorem State.setSctx_undef (s : State) (k : Nat) (v : SCtx) : (s.setSctx k v).undef = s.undef := rfl
@[simp] theorem State.setSctx_sctxs (s : State) (k : Nat) (v : SCtx) : (s.setSctx k v).sctxs = SMap.set (fun _ => ({} : SCtx)) s.sctxs k v := rfl
@[simp] theorem State.setLastCand_pending (s : State) (k : Nat) (v : (Option Cand)) : (s.setLastCand k v).pending = s.pending := rfl
@[simp] theorem State.setLastCand_free (s : State) (k : Nat) (v : (Option Cand)) : (s.setLastCand k v).free = s.free := rfl
@[simp] theorem State.setLastCand_rd (s : State) (k : Nat) (v : (Option Cand)) : (s.setLastCand k v).rd = s.rd := rfl
@[simp] theorem State.setLastCand_time (s : State) (k : Nat) (v : (Option Cand)) : (s.setLastCand k v).time = s.time := rfl
@[simp] theorem State.setLastCand_tofs (s : State) (k : Nat) (v : (Option Cand)) : (s.setLastCand k v).tofs = s.tofs := rfl
@[simp] theorem State.setLastCand_pw (s : State) (k : Nat) (v : (Option Cand)) : (s.setLastCand k v).pw = s.pw := rfl
@[simp] theorem State.setLastCand_regs (s : State) (k : Nat) (v : (Option Cand)) : (s.setLastCand k v).regs = s.regs := rfl
@[simp] theorem State.setLastCand_act (s : State) (k : Nat) (v : (Option Cand)) : (s.setLastCand k v).act = s.act := rfl
@[simp] theorem State.setLastCand_latch (s : State) (k : Nat) (v : (Option Cand)) : (s.setLastCand k v).latch = s.latch := rfl
@[simp] theorem State.setLastCand_released (s : State) (k : Nat) (v : (Option Cand)) : (s.setLastCand k v).released = s.released := rfl
@[simp] theorem State.setLastCand_dram (s : State) (k : Nat) (v : (Option Cand)) : (s.setLastCand k v).dram = s.dram := rfl
@[simp] theorem State.setLastCand_hostMem (s : State) (k : Nat) (v : (Option Cand)) : (s.setLastCand k v).hostMem = s.hostMem := rfl
@[simp] theorem State.setLastCand_pool (s : State) (k : Nat) (v : (Option Cand)) : (s.setLastCand k v).pool = s.pool := rfl
@[simp] theorem State.setLastCand_encs (s : State) (k : Nat) (v : (Option Cand)) : (s.setLastCand k v).encs = s.encs := rfl
@[simp] theorem State.setLastCand_scheds (s : State) (k : Nat) (v : (Option Cand)) : (s.setLastCand k v).scheds = s.scheds := rfl
@[simp] theorem State.setLastCand_heads (s : State) (k : Nat) (v : (Option Cand)) : (s.setLastCand k v).heads = s.heads := rfl
@[simp] theorem State.setLastCand_seqs (s : State) (k : Nat) (v : (Option Cand)) : (s.setLastCand k v).seqs = s.seqs := rfl
@[simp] theorem State.setLastCand_sync (s : State) (k : Nat) (v : (Option Cand)) : (s.setLastCand k v).sync = s.sync := rfl
@[simp] theorem State.setLastCand_gpio (s : State) (k : Nat) (v : (Option Cand)) : (s.setLastCand k v).gpio = s.gpio := rfl
@[simp] theorem State.setLastCand_ports (s : State) (k : Nat) (v : (Option Cand)) : (s.setLastCand k v).ports = s.ports := rfl
@[simp] theorem State.setLastCand_faces (s : State) (k : Nat) (v : (Option Cand)) : (s.setLastCand k v).faces = s.faces := rfl
@[simp] theorem State.setLastCand_fctxs (s : State) (k : Nat) (v : (Option Cand)) : (s.setLastCand k v).fctxs = s.fctxs := rfl
@[simp] theorem State.setLastCand_sctxs (s : State) (k : Nat) (v : (Option Cand)) : (s.setLastCand k v).sctxs = s.sctxs := rfl
@[simp] theorem State.setLastCand_stocks (s : State) (k : Nat) (v : (Option Cand)) : (s.setLastCand k v).stocks = s.stocks := rfl
@[simp] theorem State.setLastCand_closings (s : State) (k : Nat) (v : (Option Cand)) : (s.setLastCand k v).closings = s.closings := rfl
@[simp] theorem State.setLastCand_riddle (s : State) (k : Nat) (v : (Option Cand)) : (s.setLastCand k v).riddle = s.riddle := rfl
@[simp] theorem State.setLastCand_kerfs (s : State) (k : Nat) (v : (Option Cand)) : (s.setLastCand k v).kerfs = s.kerfs := rfl
@[simp] theorem State.setLastCand_benches (s : State) (k : Nat) (v : (Option Cand)) : (s.setLastCand k v).benches = s.benches := rfl
@[simp] theorem State.setLastCand_cores (s : State) (k : Nat) (v : (Option Cand)) : (s.setLastCand k v).cores = s.cores := rfl
@[simp] theorem State.setLastCand_boxes (s : State) (k : Nat) (v : (Option Cand)) : (s.setLastCand k v).boxes = s.boxes := rfl
@[simp] theorem State.setLastCand_swq (s : State) (k : Nat) (v : (Option Cand)) : (s.setLastCand k v).swq = s.swq := rfl
@[simp] theorem State.setLastCand_uarts (s : State) (k : Nat) (v : (Option Cand)) : (s.setLastCand k v).uarts = s.uarts := rfl
@[simp] theorem State.setLastCand_chans (s : State) (k : Nat) (v : (Option Cand)) : (s.setLastCand k v).chans = s.chans := rfl
@[simp] theorem State.setLastCand_fw (s : State) (k : Nat) (v : (Option Cand)) : (s.setLastCand k v).fw = s.fw := rfl
@[simp] theorem State.setLastCand_res (s : State) (k : Nat) (v : (Option Cand)) : (s.setLastCand k v).res = s.res := rfl
@[simp] theorem State.setLastCand_flash (s : State) (k : Nat) (v : (Option Cand)) : (s.setLastCand k v).flash = s.flash := rfl
@[simp] theorem State.setLastCand_spoil (s : State) (k : Nat) (v : (Option Cand)) : (s.setLastCand k v).spoil = s.spoil := rfl
@[simp] theorem State.setLastCand_pcie (s : State) (k : Nat) (v : (Option Cand)) : (s.setLastCand k v).pcie = s.pcie := rfl
@[simp] theorem State.setLastCand_jtag (s : State) (k : Nat) (v : (Option Cand)) : (s.setLastCand k v).jtag = s.jtag := rfl
@[simp] theorem State.setLastCand_cal (s : State) (k : Nat) (v : (Option Cand)) : (s.setLastCand k v).cal = s.cal := rfl
@[simp] theorem State.setLastCand_undef (s : State) (k : Nat) (v : (Option Cand)) : (s.setLastCand k v).undef = s.undef := rfl
@[simp] theorem State.setLastCand_seamLast (s : State) (k : Nat) (v : (Option Cand)) : (s.setLastCand k v).seamLast = SMap.set (fun _ => (none : Option Cand)) s.seamLast k v := rfl
@[simp] theorem State.setStock_pending (s : State) (k : Nat) (v : Stock) : (s.setStock k v).pending = s.pending := rfl
@[simp] theorem State.setStock_free (s : State) (k : Nat) (v : Stock) : (s.setStock k v).free = s.free := rfl
@[simp] theorem State.setStock_rd (s : State) (k : Nat) (v : Stock) : (s.setStock k v).rd = s.rd := rfl
@[simp] theorem State.setStock_time (s : State) (k : Nat) (v : Stock) : (s.setStock k v).time = s.time := rfl
@[simp] theorem State.setStock_tofs (s : State) (k : Nat) (v : Stock) : (s.setStock k v).tofs = s.tofs := rfl
@[simp] theorem State.setStock_pw (s : State) (k : Nat) (v : Stock) : (s.setStock k v).pw = s.pw := rfl
@[simp] theorem State.setStock_regs (s : State) (k : Nat) (v : Stock) : (s.setStock k v).regs = s.regs := rfl
@[simp] theorem State.setStock_act (s : State) (k : Nat) (v : Stock) : (s.setStock k v).act = s.act := rfl
@[simp] theorem State.setStock_latch (s : State) (k : Nat) (v : Stock) : (s.setStock k v).latch = s.latch := rfl
@[simp] theorem State.setStock_released (s : State) (k : Nat) (v : Stock) : (s.setStock k v).released = s.released := rfl
@[simp] theorem State.setStock_dram (s : State) (k : Nat) (v : Stock) : (s.setStock k v).dram = s.dram := rfl
@[simp] theorem State.setStock_hostMem (s : State) (k : Nat) (v : Stock) : (s.setStock k v).hostMem = s.hostMem := rfl
@[simp] theorem State.setStock_pool (s : State) (k : Nat) (v : Stock) : (s.setStock k v).pool = s.pool := rfl
@[simp] theorem State.setStock_encs (s : State) (k : Nat) (v : Stock) : (s.setStock k v).encs = s.encs := rfl
@[simp] theorem State.setStock_scheds (s : State) (k : Nat) (v : Stock) : (s.setStock k v).scheds = s.scheds := rfl
@[simp] theorem State.setStock_heads (s : State) (k : Nat) (v : Stock) : (s.setStock k v).heads = s.heads := rfl
@[simp] theorem State.setStock_seqs (s : State) (k : Nat) (v : Stock) : (s.setStock k v).seqs = s.seqs := rfl
@[simp] theorem State.setStock_sync (s : State) (k : Nat) (v : Stock) : (s.setStock k v).sync = s.sync := rfl
@[simp] theorem State.setStock_gpio (s : State) (k : Nat) (v : Stock) : (s.setStock k v).gpio = s.gpio := rfl
@[simp] theorem State.setStock_ports (s : State) (k : Nat) (v : Stock) : (s.setStock k v).ports = s.ports := rfl
@[simp] theorem State.setStock_faces (s : State) (k : Nat) (v : Stock) : (s.setStock k v).faces = s.faces := rfl
@[simp] theorem State.setStock_fctxs (s : State) (k : Nat) (v : Stock) : (s.setStock k v).fctxs = s.fctxs := rfl
@[simp] theorem State.setStock_sctxs (s : State) (k : Nat) (v : Stock) : (s.setStock k v).sctxs = s.sctxs := rfl
@[simp] theorem State.setStock_seamLast (s : State) (k : Nat) (v : Stock) : (s.setStock k v).seamLast = s.seamLast := rfl
@[simp] theorem State.setStock_closings (s : State) (k : Nat) (v : Stock) : (s.setStock k v).closings = s.closings := rfl
@[simp] theorem State.setStock_riddle (s : State) (k : Nat) (v : Stock) : (s.setStock k v).riddle = s.riddle := rfl
@[simp] theorem State.setStock_kerfs (s : State) (k : Nat) (v : Stock) : (s.setStock k v).kerfs = s.kerfs := rfl
@[simp] theorem State.setStock_benches (s : State) (k : Nat) (v : Stock) : (s.setStock k v).benches = s.benches := rfl
@[simp] theorem State.setStock_cores (s : State) (k : Nat) (v : Stock) : (s.setStock k v).cores = s.cores := rfl
@[simp] theorem State.setStock_boxes (s : State) (k : Nat) (v : Stock) : (s.setStock k v).boxes = s.boxes := rfl
@[simp] theorem State.setStock_swq (s : State) (k : Nat) (v : Stock) : (s.setStock k v).swq = s.swq := rfl
@[simp] theorem State.setStock_uarts (s : State) (k : Nat) (v : Stock) : (s.setStock k v).uarts = s.uarts := rfl
@[simp] theorem State.setStock_chans (s : State) (k : Nat) (v : Stock) : (s.setStock k v).chans = s.chans := rfl
@[simp] theorem State.setStock_fw (s : State) (k : Nat) (v : Stock) : (s.setStock k v).fw = s.fw := rfl
@[simp] theorem State.setStock_res (s : State) (k : Nat) (v : Stock) : (s.setStock k v).res = s.res := rfl
@[simp] theorem State.setStock_flash (s : State) (k : Nat) (v : Stock) : (s.setStock k v).flash = s.flash := rfl
@[simp] theorem State.setStock_spoil (s : State) (k : Nat) (v : Stock) : (s.setStock k v).spoil = s.spoil := rfl
@[simp] theorem State.setStock_pcie (s : State) (k : Nat) (v : Stock) : (s.setStock k v).pcie = s.pcie := rfl
@[simp] theorem State.setStock_jtag (s : State) (k : Nat) (v : Stock) : (s.setStock k v).jtag = s.jtag := rfl
@[simp] theorem State.setStock_cal (s : State) (k : Nat) (v : Stock) : (s.setStock k v).cal = s.cal := rfl
@[simp] theorem State.setStock_undef (s : State) (k : Nat) (v : Stock) : (s.setStock k v).undef = s.undef := rfl
@[simp] theorem State.setStock_stocks (s : State) (k : Nat) (v : Stock) : (s.setStock k v).stocks = SMap.set (fun _ => ({} : Stock)) s.stocks k v := rfl
@[simp] theorem State.setClosing_pending (s : State) (k : Nat) (v : (List ClosingRec)) : (s.setClosing k v).pending = s.pending := rfl
@[simp] theorem State.setClosing_free (s : State) (k : Nat) (v : (List ClosingRec)) : (s.setClosing k v).free = s.free := rfl
@[simp] theorem State.setClosing_rd (s : State) (k : Nat) (v : (List ClosingRec)) : (s.setClosing k v).rd = s.rd := rfl
@[simp] theorem State.setClosing_time (s : State) (k : Nat) (v : (List ClosingRec)) : (s.setClosing k v).time = s.time := rfl
@[simp] theorem State.setClosing_tofs (s : State) (k : Nat) (v : (List ClosingRec)) : (s.setClosing k v).tofs = s.tofs := rfl
@[simp] theorem State.setClosing_pw (s : State) (k : Nat) (v : (List ClosingRec)) : (s.setClosing k v).pw = s.pw := rfl
@[simp] theorem State.setClosing_regs (s : State) (k : Nat) (v : (List ClosingRec)) : (s.setClosing k v).regs = s.regs := rfl
@[simp] theorem State.setClosing_act (s : State) (k : Nat) (v : (List ClosingRec)) : (s.setClosing k v).act = s.act := rfl
@[simp] theorem State.setClosing_latch (s : State) (k : Nat) (v : (List ClosingRec)) : (s.setClosing k v).latch = s.latch := rfl
@[simp] theorem State.setClosing_released (s : State) (k : Nat) (v : (List ClosingRec)) : (s.setClosing k v).released = s.released := rfl
@[simp] theorem State.setClosing_dram (s : State) (k : Nat) (v : (List ClosingRec)) : (s.setClosing k v).dram = s.dram := rfl
@[simp] theorem State.setClosing_hostMem (s : State) (k : Nat) (v : (List ClosingRec)) : (s.setClosing k v).hostMem = s.hostMem := rfl
@[simp] theorem State.setClosing_pool (s : State) (k : Nat) (v : (List ClosingRec)) : (s.setClosing k v).pool = s.pool := rfl
@[simp] theorem State.setClosing_encs (s : State) (k : Nat) (v : (List ClosingRec)) : (s.setClosing k v).encs = s.encs := rfl
@[simp] theorem State.setClosing_scheds (s : State) (k : Nat) (v : (List ClosingRec)) : (s.setClosing k v).scheds = s.scheds := rfl
@[simp] theorem State.setClosing_heads (s : State) (k : Nat) (v : (List ClosingRec)) : (s.setClosing k v).heads = s.heads := rfl
@[simp] theorem State.setClosing_seqs (s : State) (k : Nat) (v : (List ClosingRec)) : (s.setClosing k v).seqs = s.seqs := rfl
@[simp] theorem State.setClosing_sync (s : State) (k : Nat) (v : (List ClosingRec)) : (s.setClosing k v).sync = s.sync := rfl
@[simp] theorem State.setClosing_gpio (s : State) (k : Nat) (v : (List ClosingRec)) : (s.setClosing k v).gpio = s.gpio := rfl
@[simp] theorem State.setClosing_ports (s : State) (k : Nat) (v : (List ClosingRec)) : (s.setClosing k v).ports = s.ports := rfl
@[simp] theorem State.setClosing_faces (s : State) (k : Nat) (v : (List ClosingRec)) : (s.setClosing k v).faces = s.faces := rfl
@[simp] theorem State.setClosing_fctxs (s : State) (k : Nat) (v : (List ClosingRec)) : (s.setClosing k v).fctxs = s.fctxs := rfl
@[simp] theorem State.setClosing_sctxs (s : State) (k : Nat) (v : (List ClosingRec)) : (s.setClosing k v).sctxs = s.sctxs := rfl
@[simp] theorem State.setClosing_seamLast (s : State) (k : Nat) (v : (List ClosingRec)) : (s.setClosing k v).seamLast = s.seamLast := rfl
@[simp] theorem State.setClosing_stocks (s : State) (k : Nat) (v : (List ClosingRec)) : (s.setClosing k v).stocks = s.stocks := rfl
@[simp] theorem State.setClosing_riddle (s : State) (k : Nat) (v : (List ClosingRec)) : (s.setClosing k v).riddle = s.riddle := rfl
@[simp] theorem State.setClosing_kerfs (s : State) (k : Nat) (v : (List ClosingRec)) : (s.setClosing k v).kerfs = s.kerfs := rfl
@[simp] theorem State.setClosing_benches (s : State) (k : Nat) (v : (List ClosingRec)) : (s.setClosing k v).benches = s.benches := rfl
@[simp] theorem State.setClosing_cores (s : State) (k : Nat) (v : (List ClosingRec)) : (s.setClosing k v).cores = s.cores := rfl
@[simp] theorem State.setClosing_boxes (s : State) (k : Nat) (v : (List ClosingRec)) : (s.setClosing k v).boxes = s.boxes := rfl
@[simp] theorem State.setClosing_swq (s : State) (k : Nat) (v : (List ClosingRec)) : (s.setClosing k v).swq = s.swq := rfl
@[simp] theorem State.setClosing_uarts (s : State) (k : Nat) (v : (List ClosingRec)) : (s.setClosing k v).uarts = s.uarts := rfl
@[simp] theorem State.setClosing_chans (s : State) (k : Nat) (v : (List ClosingRec)) : (s.setClosing k v).chans = s.chans := rfl
@[simp] theorem State.setClosing_fw (s : State) (k : Nat) (v : (List ClosingRec)) : (s.setClosing k v).fw = s.fw := rfl
@[simp] theorem State.setClosing_res (s : State) (k : Nat) (v : (List ClosingRec)) : (s.setClosing k v).res = s.res := rfl
@[simp] theorem State.setClosing_flash (s : State) (k : Nat) (v : (List ClosingRec)) : (s.setClosing k v).flash = s.flash := rfl
@[simp] theorem State.setClosing_spoil (s : State) (k : Nat) (v : (List ClosingRec)) : (s.setClosing k v).spoil = s.spoil := rfl
@[simp] theorem State.setClosing_pcie (s : State) (k : Nat) (v : (List ClosingRec)) : (s.setClosing k v).pcie = s.pcie := rfl
@[simp] theorem State.setClosing_jtag (s : State) (k : Nat) (v : (List ClosingRec)) : (s.setClosing k v).jtag = s.jtag := rfl
@[simp] theorem State.setClosing_cal (s : State) (k : Nat) (v : (List ClosingRec)) : (s.setClosing k v).cal = s.cal := rfl
@[simp] theorem State.setClosing_undef (s : State) (k : Nat) (v : (List ClosingRec)) : (s.setClosing k v).undef = s.undef := rfl
@[simp] theorem State.setClosing_closings (s : State) (k : Nat) (v : (List ClosingRec)) : (s.setClosing k v).closings = SMap.set (fun _ => ([] : List ClosingRec)) s.closings k v := rfl
@[simp] theorem State.setKerf_pending (s : State) (k : Nat) (v : Kerf) : (s.setKerf k v).pending = s.pending := rfl
@[simp] theorem State.setKerf_free (s : State) (k : Nat) (v : Kerf) : (s.setKerf k v).free = s.free := rfl
@[simp] theorem State.setKerf_rd (s : State) (k : Nat) (v : Kerf) : (s.setKerf k v).rd = s.rd := rfl
@[simp] theorem State.setKerf_time (s : State) (k : Nat) (v : Kerf) : (s.setKerf k v).time = s.time := rfl
@[simp] theorem State.setKerf_tofs (s : State) (k : Nat) (v : Kerf) : (s.setKerf k v).tofs = s.tofs := rfl
@[simp] theorem State.setKerf_pw (s : State) (k : Nat) (v : Kerf) : (s.setKerf k v).pw = s.pw := rfl
@[simp] theorem State.setKerf_regs (s : State) (k : Nat) (v : Kerf) : (s.setKerf k v).regs = s.regs := rfl
@[simp] theorem State.setKerf_act (s : State) (k : Nat) (v : Kerf) : (s.setKerf k v).act = s.act := rfl
@[simp] theorem State.setKerf_latch (s : State) (k : Nat) (v : Kerf) : (s.setKerf k v).latch = s.latch := rfl
@[simp] theorem State.setKerf_released (s : State) (k : Nat) (v : Kerf) : (s.setKerf k v).released = s.released := rfl
@[simp] theorem State.setKerf_dram (s : State) (k : Nat) (v : Kerf) : (s.setKerf k v).dram = s.dram := rfl
@[simp] theorem State.setKerf_hostMem (s : State) (k : Nat) (v : Kerf) : (s.setKerf k v).hostMem = s.hostMem := rfl
@[simp] theorem State.setKerf_pool (s : State) (k : Nat) (v : Kerf) : (s.setKerf k v).pool = s.pool := rfl
@[simp] theorem State.setKerf_encs (s : State) (k : Nat) (v : Kerf) : (s.setKerf k v).encs = s.encs := rfl
@[simp] theorem State.setKerf_scheds (s : State) (k : Nat) (v : Kerf) : (s.setKerf k v).scheds = s.scheds := rfl
@[simp] theorem State.setKerf_heads (s : State) (k : Nat) (v : Kerf) : (s.setKerf k v).heads = s.heads := rfl
@[simp] theorem State.setKerf_seqs (s : State) (k : Nat) (v : Kerf) : (s.setKerf k v).seqs = s.seqs := rfl
@[simp] theorem State.setKerf_sync (s : State) (k : Nat) (v : Kerf) : (s.setKerf k v).sync = s.sync := rfl
@[simp] theorem State.setKerf_gpio (s : State) (k : Nat) (v : Kerf) : (s.setKerf k v).gpio = s.gpio := rfl
@[simp] theorem State.setKerf_ports (s : State) (k : Nat) (v : Kerf) : (s.setKerf k v).ports = s.ports := rfl
@[simp] theorem State.setKerf_faces (s : State) (k : Nat) (v : Kerf) : (s.setKerf k v).faces = s.faces := rfl
@[simp] theorem State.setKerf_fctxs (s : State) (k : Nat) (v : Kerf) : (s.setKerf k v).fctxs = s.fctxs := rfl
@[simp] theorem State.setKerf_sctxs (s : State) (k : Nat) (v : Kerf) : (s.setKerf k v).sctxs = s.sctxs := rfl
@[simp] theorem State.setKerf_seamLast (s : State) (k : Nat) (v : Kerf) : (s.setKerf k v).seamLast = s.seamLast := rfl
@[simp] theorem State.setKerf_stocks (s : State) (k : Nat) (v : Kerf) : (s.setKerf k v).stocks = s.stocks := rfl
@[simp] theorem State.setKerf_closings (s : State) (k : Nat) (v : Kerf) : (s.setKerf k v).closings = s.closings := rfl
@[simp] theorem State.setKerf_riddle (s : State) (k : Nat) (v : Kerf) : (s.setKerf k v).riddle = s.riddle := rfl
@[simp] theorem State.setKerf_benches (s : State) (k : Nat) (v : Kerf) : (s.setKerf k v).benches = s.benches := rfl
@[simp] theorem State.setKerf_cores (s : State) (k : Nat) (v : Kerf) : (s.setKerf k v).cores = s.cores := rfl
@[simp] theorem State.setKerf_boxes (s : State) (k : Nat) (v : Kerf) : (s.setKerf k v).boxes = s.boxes := rfl
@[simp] theorem State.setKerf_swq (s : State) (k : Nat) (v : Kerf) : (s.setKerf k v).swq = s.swq := rfl
@[simp] theorem State.setKerf_uarts (s : State) (k : Nat) (v : Kerf) : (s.setKerf k v).uarts = s.uarts := rfl
@[simp] theorem State.setKerf_chans (s : State) (k : Nat) (v : Kerf) : (s.setKerf k v).chans = s.chans := rfl
@[simp] theorem State.setKerf_fw (s : State) (k : Nat) (v : Kerf) : (s.setKerf k v).fw = s.fw := rfl
@[simp] theorem State.setKerf_res (s : State) (k : Nat) (v : Kerf) : (s.setKerf k v).res = s.res := rfl
@[simp] theorem State.setKerf_flash (s : State) (k : Nat) (v : Kerf) : (s.setKerf k v).flash = s.flash := rfl
@[simp] theorem State.setKerf_spoil (s : State) (k : Nat) (v : Kerf) : (s.setKerf k v).spoil = s.spoil := rfl
@[simp] theorem State.setKerf_pcie (s : State) (k : Nat) (v : Kerf) : (s.setKerf k v).pcie = s.pcie := rfl
@[simp] theorem State.setKerf_jtag (s : State) (k : Nat) (v : Kerf) : (s.setKerf k v).jtag = s.jtag := rfl
@[simp] theorem State.setKerf_cal (s : State) (k : Nat) (v : Kerf) : (s.setKerf k v).cal = s.cal := rfl
@[simp] theorem State.setKerf_undef (s : State) (k : Nat) (v : Kerf) : (s.setKerf k v).undef = s.undef := rfl
@[simp] theorem State.setKerf_kerfs (s : State) (k : Nat) (v : Kerf) : (s.setKerf k v).kerfs = SMap.set (fun _ => ({} : Kerf)) s.kerfs k v := rfl
@[simp] theorem State.setBench_pending (s : State) (k : Nat) (v : Bench) : (s.setBench k v).pending = s.pending := rfl
@[simp] theorem State.setBench_free (s : State) (k : Nat) (v : Bench) : (s.setBench k v).free = s.free := rfl
@[simp] theorem State.setBench_rd (s : State) (k : Nat) (v : Bench) : (s.setBench k v).rd = s.rd := rfl
@[simp] theorem State.setBench_time (s : State) (k : Nat) (v : Bench) : (s.setBench k v).time = s.time := rfl
@[simp] theorem State.setBench_tofs (s : State) (k : Nat) (v : Bench) : (s.setBench k v).tofs = s.tofs := rfl
@[simp] theorem State.setBench_pw (s : State) (k : Nat) (v : Bench) : (s.setBench k v).pw = s.pw := rfl
@[simp] theorem State.setBench_regs (s : State) (k : Nat) (v : Bench) : (s.setBench k v).regs = s.regs := rfl
@[simp] theorem State.setBench_act (s : State) (k : Nat) (v : Bench) : (s.setBench k v).act = s.act := rfl
@[simp] theorem State.setBench_latch (s : State) (k : Nat) (v : Bench) : (s.setBench k v).latch = s.latch := rfl
@[simp] theorem State.setBench_released (s : State) (k : Nat) (v : Bench) : (s.setBench k v).released = s.released := rfl
@[simp] theorem State.setBench_dram (s : State) (k : Nat) (v : Bench) : (s.setBench k v).dram = s.dram := rfl
@[simp] theorem State.setBench_hostMem (s : State) (k : Nat) (v : Bench) : (s.setBench k v).hostMem = s.hostMem := rfl
@[simp] theorem State.setBench_pool (s : State) (k : Nat) (v : Bench) : (s.setBench k v).pool = s.pool := rfl
@[simp] theorem State.setBench_encs (s : State) (k : Nat) (v : Bench) : (s.setBench k v).encs = s.encs := rfl
@[simp] theorem State.setBench_scheds (s : State) (k : Nat) (v : Bench) : (s.setBench k v).scheds = s.scheds := rfl
@[simp] theorem State.setBench_heads (s : State) (k : Nat) (v : Bench) : (s.setBench k v).heads = s.heads := rfl
@[simp] theorem State.setBench_seqs (s : State) (k : Nat) (v : Bench) : (s.setBench k v).seqs = s.seqs := rfl
@[simp] theorem State.setBench_sync (s : State) (k : Nat) (v : Bench) : (s.setBench k v).sync = s.sync := rfl
@[simp] theorem State.setBench_gpio (s : State) (k : Nat) (v : Bench) : (s.setBench k v).gpio = s.gpio := rfl
@[simp] theorem State.setBench_ports (s : State) (k : Nat) (v : Bench) : (s.setBench k v).ports = s.ports := rfl
@[simp] theorem State.setBench_faces (s : State) (k : Nat) (v : Bench) : (s.setBench k v).faces = s.faces := rfl
@[simp] theorem State.setBench_fctxs (s : State) (k : Nat) (v : Bench) : (s.setBench k v).fctxs = s.fctxs := rfl
@[simp] theorem State.setBench_sctxs (s : State) (k : Nat) (v : Bench) : (s.setBench k v).sctxs = s.sctxs := rfl
@[simp] theorem State.setBench_seamLast (s : State) (k : Nat) (v : Bench) : (s.setBench k v).seamLast = s.seamLast := rfl
@[simp] theorem State.setBench_stocks (s : State) (k : Nat) (v : Bench) : (s.setBench k v).stocks = s.stocks := rfl
@[simp] theorem State.setBench_closings (s : State) (k : Nat) (v : Bench) : (s.setBench k v).closings = s.closings := rfl
@[simp] theorem State.setBench_riddle (s : State) (k : Nat) (v : Bench) : (s.setBench k v).riddle = s.riddle := rfl
@[simp] theorem State.setBench_kerfs (s : State) (k : Nat) (v : Bench) : (s.setBench k v).kerfs = s.kerfs := rfl
@[simp] theorem State.setBench_cores (s : State) (k : Nat) (v : Bench) : (s.setBench k v).cores = s.cores := rfl
@[simp] theorem State.setBench_boxes (s : State) (k : Nat) (v : Bench) : (s.setBench k v).boxes = s.boxes := rfl
@[simp] theorem State.setBench_swq (s : State) (k : Nat) (v : Bench) : (s.setBench k v).swq = s.swq := rfl
@[simp] theorem State.setBench_uarts (s : State) (k : Nat) (v : Bench) : (s.setBench k v).uarts = s.uarts := rfl
@[simp] theorem State.setBench_chans (s : State) (k : Nat) (v : Bench) : (s.setBench k v).chans = s.chans := rfl
@[simp] theorem State.setBench_fw (s : State) (k : Nat) (v : Bench) : (s.setBench k v).fw = s.fw := rfl
@[simp] theorem State.setBench_res (s : State) (k : Nat) (v : Bench) : (s.setBench k v).res = s.res := rfl
@[simp] theorem State.setBench_flash (s : State) (k : Nat) (v : Bench) : (s.setBench k v).flash = s.flash := rfl
@[simp] theorem State.setBench_spoil (s : State) (k : Nat) (v : Bench) : (s.setBench k v).spoil = s.spoil := rfl
@[simp] theorem State.setBench_pcie (s : State) (k : Nat) (v : Bench) : (s.setBench k v).pcie = s.pcie := rfl
@[simp] theorem State.setBench_jtag (s : State) (k : Nat) (v : Bench) : (s.setBench k v).jtag = s.jtag := rfl
@[simp] theorem State.setBench_cal (s : State) (k : Nat) (v : Bench) : (s.setBench k v).cal = s.cal := rfl
@[simp] theorem State.setBench_undef (s : State) (k : Nat) (v : Bench) : (s.setBench k v).undef = s.undef := rfl
@[simp] theorem State.setBench_benches (s : State) (k : Nat) (v : Bench) : (s.setBench k v).benches = SMap.set (fun _ => ({} : Bench)) s.benches k v := rfl
@[simp] theorem State.setCore_pending (s : State) (k : Nat) (v : Hewer) : (s.setCore k v).pending = s.pending := rfl
@[simp] theorem State.setCore_free (s : State) (k : Nat) (v : Hewer) : (s.setCore k v).free = s.free := rfl
@[simp] theorem State.setCore_rd (s : State) (k : Nat) (v : Hewer) : (s.setCore k v).rd = s.rd := rfl
@[simp] theorem State.setCore_time (s : State) (k : Nat) (v : Hewer) : (s.setCore k v).time = s.time := rfl
@[simp] theorem State.setCore_tofs (s : State) (k : Nat) (v : Hewer) : (s.setCore k v).tofs = s.tofs := rfl
@[simp] theorem State.setCore_pw (s : State) (k : Nat) (v : Hewer) : (s.setCore k v).pw = s.pw := rfl
@[simp] theorem State.setCore_regs (s : State) (k : Nat) (v : Hewer) : (s.setCore k v).regs = s.regs := rfl
@[simp] theorem State.setCore_act (s : State) (k : Nat) (v : Hewer) : (s.setCore k v).act = s.act := rfl
@[simp] theorem State.setCore_latch (s : State) (k : Nat) (v : Hewer) : (s.setCore k v).latch = s.latch := rfl
@[simp] theorem State.setCore_released (s : State) (k : Nat) (v : Hewer) : (s.setCore k v).released = s.released := rfl
@[simp] theorem State.setCore_dram (s : State) (k : Nat) (v : Hewer) : (s.setCore k v).dram = s.dram := rfl
@[simp] theorem State.setCore_hostMem (s : State) (k : Nat) (v : Hewer) : (s.setCore k v).hostMem = s.hostMem := rfl
@[simp] theorem State.setCore_pool (s : State) (k : Nat) (v : Hewer) : (s.setCore k v).pool = s.pool := rfl
@[simp] theorem State.setCore_encs (s : State) (k : Nat) (v : Hewer) : (s.setCore k v).encs = s.encs := rfl
@[simp] theorem State.setCore_scheds (s : State) (k : Nat) (v : Hewer) : (s.setCore k v).scheds = s.scheds := rfl
@[simp] theorem State.setCore_heads (s : State) (k : Nat) (v : Hewer) : (s.setCore k v).heads = s.heads := rfl
@[simp] theorem State.setCore_seqs (s : State) (k : Nat) (v : Hewer) : (s.setCore k v).seqs = s.seqs := rfl
@[simp] theorem State.setCore_sync (s : State) (k : Nat) (v : Hewer) : (s.setCore k v).sync = s.sync := rfl
@[simp] theorem State.setCore_gpio (s : State) (k : Nat) (v : Hewer) : (s.setCore k v).gpio = s.gpio := rfl
@[simp] theorem State.setCore_ports (s : State) (k : Nat) (v : Hewer) : (s.setCore k v).ports = s.ports := rfl
@[simp] theorem State.setCore_faces (s : State) (k : Nat) (v : Hewer) : (s.setCore k v).faces = s.faces := rfl
@[simp] theorem State.setCore_fctxs (s : State) (k : Nat) (v : Hewer) : (s.setCore k v).fctxs = s.fctxs := rfl
@[simp] theorem State.setCore_sctxs (s : State) (k : Nat) (v : Hewer) : (s.setCore k v).sctxs = s.sctxs := rfl
@[simp] theorem State.setCore_seamLast (s : State) (k : Nat) (v : Hewer) : (s.setCore k v).seamLast = s.seamLast := rfl
@[simp] theorem State.setCore_stocks (s : State) (k : Nat) (v : Hewer) : (s.setCore k v).stocks = s.stocks := rfl
@[simp] theorem State.setCore_closings (s : State) (k : Nat) (v : Hewer) : (s.setCore k v).closings = s.closings := rfl
@[simp] theorem State.setCore_riddle (s : State) (k : Nat) (v : Hewer) : (s.setCore k v).riddle = s.riddle := rfl
@[simp] theorem State.setCore_kerfs (s : State) (k : Nat) (v : Hewer) : (s.setCore k v).kerfs = s.kerfs := rfl
@[simp] theorem State.setCore_benches (s : State) (k : Nat) (v : Hewer) : (s.setCore k v).benches = s.benches := rfl
@[simp] theorem State.setCore_boxes (s : State) (k : Nat) (v : Hewer) : (s.setCore k v).boxes = s.boxes := rfl
@[simp] theorem State.setCore_swq (s : State) (k : Nat) (v : Hewer) : (s.setCore k v).swq = s.swq := rfl
@[simp] theorem State.setCore_uarts (s : State) (k : Nat) (v : Hewer) : (s.setCore k v).uarts = s.uarts := rfl
@[simp] theorem State.setCore_chans (s : State) (k : Nat) (v : Hewer) : (s.setCore k v).chans = s.chans := rfl
@[simp] theorem State.setCore_fw (s : State) (k : Nat) (v : Hewer) : (s.setCore k v).fw = s.fw := rfl
@[simp] theorem State.setCore_res (s : State) (k : Nat) (v : Hewer) : (s.setCore k v).res = s.res := rfl
@[simp] theorem State.setCore_flash (s : State) (k : Nat) (v : Hewer) : (s.setCore k v).flash = s.flash := rfl
@[simp] theorem State.setCore_spoil (s : State) (k : Nat) (v : Hewer) : (s.setCore k v).spoil = s.spoil := rfl
@[simp] theorem State.setCore_pcie (s : State) (k : Nat) (v : Hewer) : (s.setCore k v).pcie = s.pcie := rfl
@[simp] theorem State.setCore_jtag (s : State) (k : Nat) (v : Hewer) : (s.setCore k v).jtag = s.jtag := rfl
@[simp] theorem State.setCore_cal (s : State) (k : Nat) (v : Hewer) : (s.setCore k v).cal = s.cal := rfl
@[simp] theorem State.setCore_undef (s : State) (k : Nat) (v : Hewer) : (s.setCore k v).undef = s.undef := rfl
@[simp] theorem State.setCore_cores (s : State) (k : Nat) (v : Hewer) : (s.setCore k v).cores = SMap.set (fun _ => ({} : Hewer)) s.cores k v := rfl
@[simp] theorem State.setBox_pending (s : State) (k : Nat) (v : Mbx) : (s.setBox k v).pending = s.pending := rfl
@[simp] theorem State.setBox_free (s : State) (k : Nat) (v : Mbx) : (s.setBox k v).free = s.free := rfl
@[simp] theorem State.setBox_rd (s : State) (k : Nat) (v : Mbx) : (s.setBox k v).rd = s.rd := rfl
@[simp] theorem State.setBox_time (s : State) (k : Nat) (v : Mbx) : (s.setBox k v).time = s.time := rfl
@[simp] theorem State.setBox_tofs (s : State) (k : Nat) (v : Mbx) : (s.setBox k v).tofs = s.tofs := rfl
@[simp] theorem State.setBox_pw (s : State) (k : Nat) (v : Mbx) : (s.setBox k v).pw = s.pw := rfl
@[simp] theorem State.setBox_regs (s : State) (k : Nat) (v : Mbx) : (s.setBox k v).regs = s.regs := rfl
@[simp] theorem State.setBox_act (s : State) (k : Nat) (v : Mbx) : (s.setBox k v).act = s.act := rfl
@[simp] theorem State.setBox_latch (s : State) (k : Nat) (v : Mbx) : (s.setBox k v).latch = s.latch := rfl
@[simp] theorem State.setBox_released (s : State) (k : Nat) (v : Mbx) : (s.setBox k v).released = s.released := rfl
@[simp] theorem State.setBox_dram (s : State) (k : Nat) (v : Mbx) : (s.setBox k v).dram = s.dram := rfl
@[simp] theorem State.setBox_hostMem (s : State) (k : Nat) (v : Mbx) : (s.setBox k v).hostMem = s.hostMem := rfl
@[simp] theorem State.setBox_pool (s : State) (k : Nat) (v : Mbx) : (s.setBox k v).pool = s.pool := rfl
@[simp] theorem State.setBox_encs (s : State) (k : Nat) (v : Mbx) : (s.setBox k v).encs = s.encs := rfl
@[simp] theorem State.setBox_scheds (s : State) (k : Nat) (v : Mbx) : (s.setBox k v).scheds = s.scheds := rfl
@[simp] theorem State.setBox_heads (s : State) (k : Nat) (v : Mbx) : (s.setBox k v).heads = s.heads := rfl
@[simp] theorem State.setBox_seqs (s : State) (k : Nat) (v : Mbx) : (s.setBox k v).seqs = s.seqs := rfl
@[simp] theorem State.setBox_sync (s : State) (k : Nat) (v : Mbx) : (s.setBox k v).sync = s.sync := rfl
@[simp] theorem State.setBox_gpio (s : State) (k : Nat) (v : Mbx) : (s.setBox k v).gpio = s.gpio := rfl
@[simp] theorem State.setBox_ports (s : State) (k : Nat) (v : Mbx) : (s.setBox k v).ports = s.ports := rfl
@[simp] theorem State.setBox_faces (s : State) (k : Nat) (v : Mbx) : (s.setBox k v).faces = s.faces := rfl
@[simp] theorem State.setBox_fctxs (s : State) (k : Nat) (v : Mbx) : (s.setBox k v).fctxs = s.fctxs := rfl
@[simp] theorem State.setBox_sctxs (s : State) (k : Nat) (v : Mbx) : (s.setBox k v).sctxs = s.sctxs := rfl
@[simp] theorem State.setBox_seamLast (s : State) (k : Nat) (v : Mbx) : (s.setBox k v).seamLast = s.seamLast := rfl
@[simp] theorem State.setBox_stocks (s : State) (k : Nat) (v : Mbx) : (s.setBox k v).stocks = s.stocks := rfl
@[simp] theorem State.setBox_closings (s : State) (k : Nat) (v : Mbx) : (s.setBox k v).closings = s.closings := rfl
@[simp] theorem State.setBox_riddle (s : State) (k : Nat) (v : Mbx) : (s.setBox k v).riddle = s.riddle := rfl
@[simp] theorem State.setBox_kerfs (s : State) (k : Nat) (v : Mbx) : (s.setBox k v).kerfs = s.kerfs := rfl
@[simp] theorem State.setBox_benches (s : State) (k : Nat) (v : Mbx) : (s.setBox k v).benches = s.benches := rfl
@[simp] theorem State.setBox_cores (s : State) (k : Nat) (v : Mbx) : (s.setBox k v).cores = s.cores := rfl
@[simp] theorem State.setBox_swq (s : State) (k : Nat) (v : Mbx) : (s.setBox k v).swq = s.swq := rfl
@[simp] theorem State.setBox_uarts (s : State) (k : Nat) (v : Mbx) : (s.setBox k v).uarts = s.uarts := rfl
@[simp] theorem State.setBox_chans (s : State) (k : Nat) (v : Mbx) : (s.setBox k v).chans = s.chans := rfl
@[simp] theorem State.setBox_fw (s : State) (k : Nat) (v : Mbx) : (s.setBox k v).fw = s.fw := rfl
@[simp] theorem State.setBox_res (s : State) (k : Nat) (v : Mbx) : (s.setBox k v).res = s.res := rfl
@[simp] theorem State.setBox_flash (s : State) (k : Nat) (v : Mbx) : (s.setBox k v).flash = s.flash := rfl
@[simp] theorem State.setBox_spoil (s : State) (k : Nat) (v : Mbx) : (s.setBox k v).spoil = s.spoil := rfl
@[simp] theorem State.setBox_pcie (s : State) (k : Nat) (v : Mbx) : (s.setBox k v).pcie = s.pcie := rfl
@[simp] theorem State.setBox_jtag (s : State) (k : Nat) (v : Mbx) : (s.setBox k v).jtag = s.jtag := rfl
@[simp] theorem State.setBox_cal (s : State) (k : Nat) (v : Mbx) : (s.setBox k v).cal = s.cal := rfl
@[simp] theorem State.setBox_undef (s : State) (k : Nat) (v : Mbx) : (s.setBox k v).undef = s.undef := rfl
@[simp] theorem State.setBox_boxes (s : State) (k : Nat) (v : Mbx) : (s.setBox k v).boxes = SMap.set (fun _ => ({} : Mbx)) s.boxes k v := rfl
@[simp] theorem State.setUart_pending (s : State) (k : Nat) (v : Uart) : (s.setUart k v).pending = s.pending := rfl
@[simp] theorem State.setUart_free (s : State) (k : Nat) (v : Uart) : (s.setUart k v).free = s.free := rfl
@[simp] theorem State.setUart_rd (s : State) (k : Nat) (v : Uart) : (s.setUart k v).rd = s.rd := rfl
@[simp] theorem State.setUart_time (s : State) (k : Nat) (v : Uart) : (s.setUart k v).time = s.time := rfl
@[simp] theorem State.setUart_tofs (s : State) (k : Nat) (v : Uart) : (s.setUart k v).tofs = s.tofs := rfl
@[simp] theorem State.setUart_pw (s : State) (k : Nat) (v : Uart) : (s.setUart k v).pw = s.pw := rfl
@[simp] theorem State.setUart_regs (s : State) (k : Nat) (v : Uart) : (s.setUart k v).regs = s.regs := rfl
@[simp] theorem State.setUart_act (s : State) (k : Nat) (v : Uart) : (s.setUart k v).act = s.act := rfl
@[simp] theorem State.setUart_latch (s : State) (k : Nat) (v : Uart) : (s.setUart k v).latch = s.latch := rfl
@[simp] theorem State.setUart_released (s : State) (k : Nat) (v : Uart) : (s.setUart k v).released = s.released := rfl
@[simp] theorem State.setUart_dram (s : State) (k : Nat) (v : Uart) : (s.setUart k v).dram = s.dram := rfl
@[simp] theorem State.setUart_hostMem (s : State) (k : Nat) (v : Uart) : (s.setUart k v).hostMem = s.hostMem := rfl
@[simp] theorem State.setUart_pool (s : State) (k : Nat) (v : Uart) : (s.setUart k v).pool = s.pool := rfl
@[simp] theorem State.setUart_encs (s : State) (k : Nat) (v : Uart) : (s.setUart k v).encs = s.encs := rfl
@[simp] theorem State.setUart_scheds (s : State) (k : Nat) (v : Uart) : (s.setUart k v).scheds = s.scheds := rfl
@[simp] theorem State.setUart_heads (s : State) (k : Nat) (v : Uart) : (s.setUart k v).heads = s.heads := rfl
@[simp] theorem State.setUart_seqs (s : State) (k : Nat) (v : Uart) : (s.setUart k v).seqs = s.seqs := rfl
@[simp] theorem State.setUart_sync (s : State) (k : Nat) (v : Uart) : (s.setUart k v).sync = s.sync := rfl
@[simp] theorem State.setUart_gpio (s : State) (k : Nat) (v : Uart) : (s.setUart k v).gpio = s.gpio := rfl
@[simp] theorem State.setUart_ports (s : State) (k : Nat) (v : Uart) : (s.setUart k v).ports = s.ports := rfl
@[simp] theorem State.setUart_faces (s : State) (k : Nat) (v : Uart) : (s.setUart k v).faces = s.faces := rfl
@[simp] theorem State.setUart_fctxs (s : State) (k : Nat) (v : Uart) : (s.setUart k v).fctxs = s.fctxs := rfl
@[simp] theorem State.setUart_sctxs (s : State) (k : Nat) (v : Uart) : (s.setUart k v).sctxs = s.sctxs := rfl
@[simp] theorem State.setUart_seamLast (s : State) (k : Nat) (v : Uart) : (s.setUart k v).seamLast = s.seamLast := rfl
@[simp] theorem State.setUart_stocks (s : State) (k : Nat) (v : Uart) : (s.setUart k v).stocks = s.stocks := rfl
@[simp] theorem State.setUart_closings (s : State) (k : Nat) (v : Uart) : (s.setUart k v).closings = s.closings := rfl
@[simp] theorem State.setUart_riddle (s : State) (k : Nat) (v : Uart) : (s.setUart k v).riddle = s.riddle := rfl
@[simp] theorem State.setUart_kerfs (s : State) (k : Nat) (v : Uart) : (s.setUart k v).kerfs = s.kerfs := rfl
@[simp] theorem State.setUart_benches (s : State) (k : Nat) (v : Uart) : (s.setUart k v).benches = s.benches := rfl
@[simp] theorem State.setUart_cores (s : State) (k : Nat) (v : Uart) : (s.setUart k v).cores = s.cores := rfl
@[simp] theorem State.setUart_boxes (s : State) (k : Nat) (v : Uart) : (s.setUart k v).boxes = s.boxes := rfl
@[simp] theorem State.setUart_swq (s : State) (k : Nat) (v : Uart) : (s.setUart k v).swq = s.swq := rfl
@[simp] theorem State.setUart_chans (s : State) (k : Nat) (v : Uart) : (s.setUart k v).chans = s.chans := rfl
@[simp] theorem State.setUart_fw (s : State) (k : Nat) (v : Uart) : (s.setUart k v).fw = s.fw := rfl
@[simp] theorem State.setUart_res (s : State) (k : Nat) (v : Uart) : (s.setUart k v).res = s.res := rfl
@[simp] theorem State.setUart_flash (s : State) (k : Nat) (v : Uart) : (s.setUart k v).flash = s.flash := rfl
@[simp] theorem State.setUart_spoil (s : State) (k : Nat) (v : Uart) : (s.setUart k v).spoil = s.spoil := rfl
@[simp] theorem State.setUart_pcie (s : State) (k : Nat) (v : Uart) : (s.setUart k v).pcie = s.pcie := rfl
@[simp] theorem State.setUart_jtag (s : State) (k : Nat) (v : Uart) : (s.setUart k v).jtag = s.jtag := rfl
@[simp] theorem State.setUart_cal (s : State) (k : Nat) (v : Uart) : (s.setUart k v).cal = s.cal := rfl
@[simp] theorem State.setUart_undef (s : State) (k : Nat) (v : Uart) : (s.setUart k v).undef = s.undef := rfl
@[simp] theorem State.setUart_uarts (s : State) (k : Nat) (v : Uart) : (s.setUart k v).uarts = SMap.set (Uart.init) s.uarts k v := rfl
@[simp] theorem State.setChan_pending (s : State) (k : Nat) (v : CmdChan) : (s.setChan k v).pending = s.pending := rfl
@[simp] theorem State.setChan_free (s : State) (k : Nat) (v : CmdChan) : (s.setChan k v).free = s.free := rfl
@[simp] theorem State.setChan_rd (s : State) (k : Nat) (v : CmdChan) : (s.setChan k v).rd = s.rd := rfl
@[simp] theorem State.setChan_time (s : State) (k : Nat) (v : CmdChan) : (s.setChan k v).time = s.time := rfl
@[simp] theorem State.setChan_tofs (s : State) (k : Nat) (v : CmdChan) : (s.setChan k v).tofs = s.tofs := rfl
@[simp] theorem State.setChan_pw (s : State) (k : Nat) (v : CmdChan) : (s.setChan k v).pw = s.pw := rfl
@[simp] theorem State.setChan_regs (s : State) (k : Nat) (v : CmdChan) : (s.setChan k v).regs = s.regs := rfl
@[simp] theorem State.setChan_act (s : State) (k : Nat) (v : CmdChan) : (s.setChan k v).act = s.act := rfl
@[simp] theorem State.setChan_latch (s : State) (k : Nat) (v : CmdChan) : (s.setChan k v).latch = s.latch := rfl
@[simp] theorem State.setChan_released (s : State) (k : Nat) (v : CmdChan) : (s.setChan k v).released = s.released := rfl
@[simp] theorem State.setChan_dram (s : State) (k : Nat) (v : CmdChan) : (s.setChan k v).dram = s.dram := rfl
@[simp] theorem State.setChan_hostMem (s : State) (k : Nat) (v : CmdChan) : (s.setChan k v).hostMem = s.hostMem := rfl
@[simp] theorem State.setChan_pool (s : State) (k : Nat) (v : CmdChan) : (s.setChan k v).pool = s.pool := rfl
@[simp] theorem State.setChan_encs (s : State) (k : Nat) (v : CmdChan) : (s.setChan k v).encs = s.encs := rfl
@[simp] theorem State.setChan_scheds (s : State) (k : Nat) (v : CmdChan) : (s.setChan k v).scheds = s.scheds := rfl
@[simp] theorem State.setChan_heads (s : State) (k : Nat) (v : CmdChan) : (s.setChan k v).heads = s.heads := rfl
@[simp] theorem State.setChan_seqs (s : State) (k : Nat) (v : CmdChan) : (s.setChan k v).seqs = s.seqs := rfl
@[simp] theorem State.setChan_sync (s : State) (k : Nat) (v : CmdChan) : (s.setChan k v).sync = s.sync := rfl
@[simp] theorem State.setChan_gpio (s : State) (k : Nat) (v : CmdChan) : (s.setChan k v).gpio = s.gpio := rfl
@[simp] theorem State.setChan_ports (s : State) (k : Nat) (v : CmdChan) : (s.setChan k v).ports = s.ports := rfl
@[simp] theorem State.setChan_faces (s : State) (k : Nat) (v : CmdChan) : (s.setChan k v).faces = s.faces := rfl
@[simp] theorem State.setChan_fctxs (s : State) (k : Nat) (v : CmdChan) : (s.setChan k v).fctxs = s.fctxs := rfl
@[simp] theorem State.setChan_sctxs (s : State) (k : Nat) (v : CmdChan) : (s.setChan k v).sctxs = s.sctxs := rfl
@[simp] theorem State.setChan_seamLast (s : State) (k : Nat) (v : CmdChan) : (s.setChan k v).seamLast = s.seamLast := rfl
@[simp] theorem State.setChan_stocks (s : State) (k : Nat) (v : CmdChan) : (s.setChan k v).stocks = s.stocks := rfl
@[simp] theorem State.setChan_closings (s : State) (k : Nat) (v : CmdChan) : (s.setChan k v).closings = s.closings := rfl
@[simp] theorem State.setChan_riddle (s : State) (k : Nat) (v : CmdChan) : (s.setChan k v).riddle = s.riddle := rfl
@[simp] theorem State.setChan_kerfs (s : State) (k : Nat) (v : CmdChan) : (s.setChan k v).kerfs = s.kerfs := rfl
@[simp] theorem State.setChan_benches (s : State) (k : Nat) (v : CmdChan) : (s.setChan k v).benches = s.benches := rfl
@[simp] theorem State.setChan_cores (s : State) (k : Nat) (v : CmdChan) : (s.setChan k v).cores = s.cores := rfl
@[simp] theorem State.setChan_boxes (s : State) (k : Nat) (v : CmdChan) : (s.setChan k v).boxes = s.boxes := rfl
@[simp] theorem State.setChan_swq (s : State) (k : Nat) (v : CmdChan) : (s.setChan k v).swq = s.swq := rfl
@[simp] theorem State.setChan_uarts (s : State) (k : Nat) (v : CmdChan) : (s.setChan k v).uarts = s.uarts := rfl
@[simp] theorem State.setChan_fw (s : State) (k : Nat) (v : CmdChan) : (s.setChan k v).fw = s.fw := rfl
@[simp] theorem State.setChan_res (s : State) (k : Nat) (v : CmdChan) : (s.setChan k v).res = s.res := rfl
@[simp] theorem State.setChan_flash (s : State) (k : Nat) (v : CmdChan) : (s.setChan k v).flash = s.flash := rfl
@[simp] theorem State.setChan_spoil (s : State) (k : Nat) (v : CmdChan) : (s.setChan k v).spoil = s.spoil := rfl
@[simp] theorem State.setChan_pcie (s : State) (k : Nat) (v : CmdChan) : (s.setChan k v).pcie = s.pcie := rfl
@[simp] theorem State.setChan_jtag (s : State) (k : Nat) (v : CmdChan) : (s.setChan k v).jtag = s.jtag := rfl
@[simp] theorem State.setChan_cal (s : State) (k : Nat) (v : CmdChan) : (s.setChan k v).cal = s.cal := rfl
@[simp] theorem State.setChan_undef (s : State) (k : Nat) (v : CmdChan) : (s.setChan k v).undef = s.undef := rfl
@[simp] theorem State.setChan_chans (s : State) (k : Nat) (v : CmdChan) : (s.setChan k v).chans = SMap.set (fun _ => ({} : CmdChan)) s.chans k v := rfl
@[simp] theorem State.setSync_pending (s : State) (v : Sync) : (s.setSync v).pending = s.pending := rfl
@[simp] theorem State.setSync_free (s : State) (v : Sync) : (s.setSync v).free = s.free := rfl
@[simp] theorem State.setSync_rd (s : State) (v : Sync) : (s.setSync v).rd = s.rd := rfl
@[simp] theorem State.setSync_time (s : State) (v : Sync) : (s.setSync v).time = s.time := rfl
@[simp] theorem State.setSync_tofs (s : State) (v : Sync) : (s.setSync v).tofs = s.tofs := rfl
@[simp] theorem State.setSync_pw (s : State) (v : Sync) : (s.setSync v).pw = s.pw := rfl
@[simp] theorem State.setSync_regs (s : State) (v : Sync) : (s.setSync v).regs = s.regs := rfl
@[simp] theorem State.setSync_act (s : State) (v : Sync) : (s.setSync v).act = s.act := rfl
@[simp] theorem State.setSync_latch (s : State) (v : Sync) : (s.setSync v).latch = s.latch := rfl
@[simp] theorem State.setSync_released (s : State) (v : Sync) : (s.setSync v).released = s.released := rfl
@[simp] theorem State.setSync_dram (s : State) (v : Sync) : (s.setSync v).dram = s.dram := rfl
@[simp] theorem State.setSync_hostMem (s : State) (v : Sync) : (s.setSync v).hostMem = s.hostMem := rfl
@[simp] theorem State.setSync_pool (s : State) (v : Sync) : (s.setSync v).pool = s.pool := rfl
@[simp] theorem State.setSync_encs (s : State) (v : Sync) : (s.setSync v).encs = s.encs := rfl
@[simp] theorem State.setSync_scheds (s : State) (v : Sync) : (s.setSync v).scheds = s.scheds := rfl
@[simp] theorem State.setSync_heads (s : State) (v : Sync) : (s.setSync v).heads = s.heads := rfl
@[simp] theorem State.setSync_seqs (s : State) (v : Sync) : (s.setSync v).seqs = s.seqs := rfl
@[simp] theorem State.setSync_gpio (s : State) (v : Sync) : (s.setSync v).gpio = s.gpio := rfl
@[simp] theorem State.setSync_ports (s : State) (v : Sync) : (s.setSync v).ports = s.ports := rfl
@[simp] theorem State.setSync_faces (s : State) (v : Sync) : (s.setSync v).faces = s.faces := rfl
@[simp] theorem State.setSync_fctxs (s : State) (v : Sync) : (s.setSync v).fctxs = s.fctxs := rfl
@[simp] theorem State.setSync_sctxs (s : State) (v : Sync) : (s.setSync v).sctxs = s.sctxs := rfl
@[simp] theorem State.setSync_seamLast (s : State) (v : Sync) : (s.setSync v).seamLast = s.seamLast := rfl
@[simp] theorem State.setSync_stocks (s : State) (v : Sync) : (s.setSync v).stocks = s.stocks := rfl
@[simp] theorem State.setSync_closings (s : State) (v : Sync) : (s.setSync v).closings = s.closings := rfl
@[simp] theorem State.setSync_riddle (s : State) (v : Sync) : (s.setSync v).riddle = s.riddle := rfl
@[simp] theorem State.setSync_kerfs (s : State) (v : Sync) : (s.setSync v).kerfs = s.kerfs := rfl
@[simp] theorem State.setSync_benches (s : State) (v : Sync) : (s.setSync v).benches = s.benches := rfl
@[simp] theorem State.setSync_cores (s : State) (v : Sync) : (s.setSync v).cores = s.cores := rfl
@[simp] theorem State.setSync_boxes (s : State) (v : Sync) : (s.setSync v).boxes = s.boxes := rfl
@[simp] theorem State.setSync_swq (s : State) (v : Sync) : (s.setSync v).swq = s.swq := rfl
@[simp] theorem State.setSync_uarts (s : State) (v : Sync) : (s.setSync v).uarts = s.uarts := rfl
@[simp] theorem State.setSync_chans (s : State) (v : Sync) : (s.setSync v).chans = s.chans := rfl
@[simp] theorem State.setSync_fw (s : State) (v : Sync) : (s.setSync v).fw = s.fw := rfl
@[simp] theorem State.setSync_res (s : State) (v : Sync) : (s.setSync v).res = s.res := rfl
@[simp] theorem State.setSync_flash (s : State) (v : Sync) : (s.setSync v).flash = s.flash := rfl
@[simp] theorem State.setSync_spoil (s : State) (v : Sync) : (s.setSync v).spoil = s.spoil := rfl
@[simp] theorem State.setSync_pcie (s : State) (v : Sync) : (s.setSync v).pcie = s.pcie := rfl
@[simp] theorem State.setSync_jtag (s : State) (v : Sync) : (s.setSync v).jtag = s.jtag := rfl
@[simp] theorem State.setSync_cal (s : State) (v : Sync) : (s.setSync v).cal = s.cal := rfl
@[simp] theorem State.setSync_undef (s : State) (v : Sync) : (s.setSync v).undef = s.undef := rfl
@[simp] theorem State.setSync_sync (s : State) (v : Sync) : (s.setSync v).sync = v := rfl
@[simp] theorem State.setGpio_pending (s : State) (v : Gpio) : (s.setGpio v).pending = s.pending := rfl
@[simp] theorem State.setGpio_free (s : State) (v : Gpio) : (s.setGpio v).free = s.free := rfl
@[simp] theorem State.setGpio_rd (s : State) (v : Gpio) : (s.setGpio v).rd = s.rd := rfl
@[simp] theorem State.setGpio_time (s : State) (v : Gpio) : (s.setGpio v).time = s.time := rfl
@[simp] theorem State.setGpio_tofs (s : State) (v : Gpio) : (s.setGpio v).tofs = s.tofs := rfl
@[simp] theorem State.setGpio_pw (s : State) (v : Gpio) : (s.setGpio v).pw = s.pw := rfl
@[simp] theorem State.setGpio_regs (s : State) (v : Gpio) : (s.setGpio v).regs = s.regs := rfl
@[simp] theorem State.setGpio_act (s : State) (v : Gpio) : (s.setGpio v).act = s.act := rfl
@[simp] theorem State.setGpio_latch (s : State) (v : Gpio) : (s.setGpio v).latch = s.latch := rfl
@[simp] theorem State.setGpio_released (s : State) (v : Gpio) : (s.setGpio v).released = s.released := rfl
@[simp] theorem State.setGpio_dram (s : State) (v : Gpio) : (s.setGpio v).dram = s.dram := rfl
@[simp] theorem State.setGpio_hostMem (s : State) (v : Gpio) : (s.setGpio v).hostMem = s.hostMem := rfl
@[simp] theorem State.setGpio_pool (s : State) (v : Gpio) : (s.setGpio v).pool = s.pool := rfl
@[simp] theorem State.setGpio_encs (s : State) (v : Gpio) : (s.setGpio v).encs = s.encs := rfl
@[simp] theorem State.setGpio_scheds (s : State) (v : Gpio) : (s.setGpio v).scheds = s.scheds := rfl
@[simp] theorem State.setGpio_heads (s : State) (v : Gpio) : (s.setGpio v).heads = s.heads := rfl
@[simp] theorem State.setGpio_seqs (s : State) (v : Gpio) : (s.setGpio v).seqs = s.seqs := rfl
@[simp] theorem State.setGpio_sync (s : State) (v : Gpio) : (s.setGpio v).sync = s.sync := rfl
@[simp] theorem State.setGpio_ports (s : State) (v : Gpio) : (s.setGpio v).ports = s.ports := rfl
@[simp] theorem State.setGpio_faces (s : State) (v : Gpio) : (s.setGpio v).faces = s.faces := rfl
@[simp] theorem State.setGpio_fctxs (s : State) (v : Gpio) : (s.setGpio v).fctxs = s.fctxs := rfl
@[simp] theorem State.setGpio_sctxs (s : State) (v : Gpio) : (s.setGpio v).sctxs = s.sctxs := rfl
@[simp] theorem State.setGpio_seamLast (s : State) (v : Gpio) : (s.setGpio v).seamLast = s.seamLast := rfl
@[simp] theorem State.setGpio_stocks (s : State) (v : Gpio) : (s.setGpio v).stocks = s.stocks := rfl
@[simp] theorem State.setGpio_closings (s : State) (v : Gpio) : (s.setGpio v).closings = s.closings := rfl
@[simp] theorem State.setGpio_riddle (s : State) (v : Gpio) : (s.setGpio v).riddle = s.riddle := rfl
@[simp] theorem State.setGpio_kerfs (s : State) (v : Gpio) : (s.setGpio v).kerfs = s.kerfs := rfl
@[simp] theorem State.setGpio_benches (s : State) (v : Gpio) : (s.setGpio v).benches = s.benches := rfl
@[simp] theorem State.setGpio_cores (s : State) (v : Gpio) : (s.setGpio v).cores = s.cores := rfl
@[simp] theorem State.setGpio_boxes (s : State) (v : Gpio) : (s.setGpio v).boxes = s.boxes := rfl
@[simp] theorem State.setGpio_swq (s : State) (v : Gpio) : (s.setGpio v).swq = s.swq := rfl
@[simp] theorem State.setGpio_uarts (s : State) (v : Gpio) : (s.setGpio v).uarts = s.uarts := rfl
@[simp] theorem State.setGpio_chans (s : State) (v : Gpio) : (s.setGpio v).chans = s.chans := rfl
@[simp] theorem State.setGpio_fw (s : State) (v : Gpio) : (s.setGpio v).fw = s.fw := rfl
@[simp] theorem State.setGpio_res (s : State) (v : Gpio) : (s.setGpio v).res = s.res := rfl
@[simp] theorem State.setGpio_flash (s : State) (v : Gpio) : (s.setGpio v).flash = s.flash := rfl
@[simp] theorem State.setGpio_spoil (s : State) (v : Gpio) : (s.setGpio v).spoil = s.spoil := rfl
@[simp] theorem State.setGpio_pcie (s : State) (v : Gpio) : (s.setGpio v).pcie = s.pcie := rfl
@[simp] theorem State.setGpio_jtag (s : State) (v : Gpio) : (s.setGpio v).jtag = s.jtag := rfl
@[simp] theorem State.setGpio_cal (s : State) (v : Gpio) : (s.setGpio v).cal = s.cal := rfl
@[simp] theorem State.setGpio_undef (s : State) (v : Gpio) : (s.setGpio v).undef = s.undef := rfl
@[simp] theorem State.setGpio_gpio (s : State) (v : Gpio) : (s.setGpio v).gpio = v := rfl
@[simp] theorem State.setPw_pending (s : State) (v : Power) : (s.setPw v).pending = s.pending := rfl
@[simp] theorem State.setPw_free (s : State) (v : Power) : (s.setPw v).free = s.free := rfl
@[simp] theorem State.setPw_rd (s : State) (v : Power) : (s.setPw v).rd = s.rd := rfl
@[simp] theorem State.setPw_time (s : State) (v : Power) : (s.setPw v).time = s.time := rfl
@[simp] theorem State.setPw_tofs (s : State) (v : Power) : (s.setPw v).tofs = s.tofs := rfl
@[simp] theorem State.setPw_regs (s : State) (v : Power) : (s.setPw v).regs = s.regs := rfl
@[simp] theorem State.setPw_act (s : State) (v : Power) : (s.setPw v).act = s.act := rfl
@[simp] theorem State.setPw_latch (s : State) (v : Power) : (s.setPw v).latch = s.latch := rfl
@[simp] theorem State.setPw_released (s : State) (v : Power) : (s.setPw v).released = s.released := rfl
@[simp] theorem State.setPw_dram (s : State) (v : Power) : (s.setPw v).dram = s.dram := rfl
@[simp] theorem State.setPw_hostMem (s : State) (v : Power) : (s.setPw v).hostMem = s.hostMem := rfl
@[simp] theorem State.setPw_pool (s : State) (v : Power) : (s.setPw v).pool = s.pool := rfl
@[simp] theorem State.setPw_encs (s : State) (v : Power) : (s.setPw v).encs = s.encs := rfl
@[simp] theorem State.setPw_scheds (s : State) (v : Power) : (s.setPw v).scheds = s.scheds := rfl
@[simp] theorem State.setPw_heads (s : State) (v : Power) : (s.setPw v).heads = s.heads := rfl
@[simp] theorem State.setPw_seqs (s : State) (v : Power) : (s.setPw v).seqs = s.seqs := rfl
@[simp] theorem State.setPw_sync (s : State) (v : Power) : (s.setPw v).sync = s.sync := rfl
@[simp] theorem State.setPw_gpio (s : State) (v : Power) : (s.setPw v).gpio = s.gpio := rfl
@[simp] theorem State.setPw_ports (s : State) (v : Power) : (s.setPw v).ports = s.ports := rfl
@[simp] theorem State.setPw_faces (s : State) (v : Power) : (s.setPw v).faces = s.faces := rfl
@[simp] theorem State.setPw_fctxs (s : State) (v : Power) : (s.setPw v).fctxs = s.fctxs := rfl
@[simp] theorem State.setPw_sctxs (s : State) (v : Power) : (s.setPw v).sctxs = s.sctxs := rfl
@[simp] theorem State.setPw_seamLast (s : State) (v : Power) : (s.setPw v).seamLast = s.seamLast := rfl
@[simp] theorem State.setPw_stocks (s : State) (v : Power) : (s.setPw v).stocks = s.stocks := rfl
@[simp] theorem State.setPw_closings (s : State) (v : Power) : (s.setPw v).closings = s.closings := rfl
@[simp] theorem State.setPw_riddle (s : State) (v : Power) : (s.setPw v).riddle = s.riddle := rfl
@[simp] theorem State.setPw_kerfs (s : State) (v : Power) : (s.setPw v).kerfs = s.kerfs := rfl
@[simp] theorem State.setPw_benches (s : State) (v : Power) : (s.setPw v).benches = s.benches := rfl
@[simp] theorem State.setPw_cores (s : State) (v : Power) : (s.setPw v).cores = s.cores := rfl
@[simp] theorem State.setPw_boxes (s : State) (v : Power) : (s.setPw v).boxes = s.boxes := rfl
@[simp] theorem State.setPw_swq (s : State) (v : Power) : (s.setPw v).swq = s.swq := rfl
@[simp] theorem State.setPw_uarts (s : State) (v : Power) : (s.setPw v).uarts = s.uarts := rfl
@[simp] theorem State.setPw_chans (s : State) (v : Power) : (s.setPw v).chans = s.chans := rfl
@[simp] theorem State.setPw_fw (s : State) (v : Power) : (s.setPw v).fw = s.fw := rfl
@[simp] theorem State.setPw_res (s : State) (v : Power) : (s.setPw v).res = s.res := rfl
@[simp] theorem State.setPw_flash (s : State) (v : Power) : (s.setPw v).flash = s.flash := rfl
@[simp] theorem State.setPw_spoil (s : State) (v : Power) : (s.setPw v).spoil = s.spoil := rfl
@[simp] theorem State.setPw_pcie (s : State) (v : Power) : (s.setPw v).pcie = s.pcie := rfl
@[simp] theorem State.setPw_jtag (s : State) (v : Power) : (s.setPw v).jtag = s.jtag := rfl
@[simp] theorem State.setPw_cal (s : State) (v : Power) : (s.setPw v).cal = s.cal := rfl
@[simp] theorem State.setPw_undef (s : State) (v : Power) : (s.setPw v).undef = s.undef := rfl
@[simp] theorem State.setPw_pw (s : State) (v : Power) : (s.setPw v).pw = v := rfl
@[simp] theorem State.setTime_pending (s : State) (v : (BitVec 64)) : (s.setTime v).pending = s.pending := rfl
@[simp] theorem State.setTime_free (s : State) (v : (BitVec 64)) : (s.setTime v).free = s.free := rfl
@[simp] theorem State.setTime_rd (s : State) (v : (BitVec 64)) : (s.setTime v).rd = s.rd := rfl
@[simp] theorem State.setTime_tofs (s : State) (v : (BitVec 64)) : (s.setTime v).tofs = s.tofs := rfl
@[simp] theorem State.setTime_pw (s : State) (v : (BitVec 64)) : (s.setTime v).pw = s.pw := rfl
@[simp] theorem State.setTime_regs (s : State) (v : (BitVec 64)) : (s.setTime v).regs = s.regs := rfl
@[simp] theorem State.setTime_act (s : State) (v : (BitVec 64)) : (s.setTime v).act = s.act := rfl
@[simp] theorem State.setTime_latch (s : State) (v : (BitVec 64)) : (s.setTime v).latch = s.latch := rfl
@[simp] theorem State.setTime_released (s : State) (v : (BitVec 64)) : (s.setTime v).released = s.released := rfl
@[simp] theorem State.setTime_dram (s : State) (v : (BitVec 64)) : (s.setTime v).dram = s.dram := rfl
@[simp] theorem State.setTime_hostMem (s : State) (v : (BitVec 64)) : (s.setTime v).hostMem = s.hostMem := rfl
@[simp] theorem State.setTime_pool (s : State) (v : (BitVec 64)) : (s.setTime v).pool = s.pool := rfl
@[simp] theorem State.setTime_encs (s : State) (v : (BitVec 64)) : (s.setTime v).encs = s.encs := rfl
@[simp] theorem State.setTime_scheds (s : State) (v : (BitVec 64)) : (s.setTime v).scheds = s.scheds := rfl
@[simp] theorem State.setTime_heads (s : State) (v : (BitVec 64)) : (s.setTime v).heads = s.heads := rfl
@[simp] theorem State.setTime_seqs (s : State) (v : (BitVec 64)) : (s.setTime v).seqs = s.seqs := rfl
@[simp] theorem State.setTime_sync (s : State) (v : (BitVec 64)) : (s.setTime v).sync = s.sync := rfl
@[simp] theorem State.setTime_gpio (s : State) (v : (BitVec 64)) : (s.setTime v).gpio = s.gpio := rfl
@[simp] theorem State.setTime_ports (s : State) (v : (BitVec 64)) : (s.setTime v).ports = s.ports := rfl
@[simp] theorem State.setTime_faces (s : State) (v : (BitVec 64)) : (s.setTime v).faces = s.faces := rfl
@[simp] theorem State.setTime_fctxs (s : State) (v : (BitVec 64)) : (s.setTime v).fctxs = s.fctxs := rfl
@[simp] theorem State.setTime_sctxs (s : State) (v : (BitVec 64)) : (s.setTime v).sctxs = s.sctxs := rfl
@[simp] theorem State.setTime_seamLast (s : State) (v : (BitVec 64)) : (s.setTime v).seamLast = s.seamLast := rfl
@[simp] theorem State.setTime_stocks (s : State) (v : (BitVec 64)) : (s.setTime v).stocks = s.stocks := rfl
@[simp] theorem State.setTime_closings (s : State) (v : (BitVec 64)) : (s.setTime v).closings = s.closings := rfl
@[simp] theorem State.setTime_riddle (s : State) (v : (BitVec 64)) : (s.setTime v).riddle = s.riddle := rfl
@[simp] theorem State.setTime_kerfs (s : State) (v : (BitVec 64)) : (s.setTime v).kerfs = s.kerfs := rfl
@[simp] theorem State.setTime_benches (s : State) (v : (BitVec 64)) : (s.setTime v).benches = s.benches := rfl
@[simp] theorem State.setTime_cores (s : State) (v : (BitVec 64)) : (s.setTime v).cores = s.cores := rfl
@[simp] theorem State.setTime_boxes (s : State) (v : (BitVec 64)) : (s.setTime v).boxes = s.boxes := rfl
@[simp] theorem State.setTime_swq (s : State) (v : (BitVec 64)) : (s.setTime v).swq = s.swq := rfl
@[simp] theorem State.setTime_uarts (s : State) (v : (BitVec 64)) : (s.setTime v).uarts = s.uarts := rfl
@[simp] theorem State.setTime_chans (s : State) (v : (BitVec 64)) : (s.setTime v).chans = s.chans := rfl
@[simp] theorem State.setTime_fw (s : State) (v : (BitVec 64)) : (s.setTime v).fw = s.fw := rfl
@[simp] theorem State.setTime_res (s : State) (v : (BitVec 64)) : (s.setTime v).res = s.res := rfl
@[simp] theorem State.setTime_flash (s : State) (v : (BitVec 64)) : (s.setTime v).flash = s.flash := rfl
@[simp] theorem State.setTime_spoil (s : State) (v : (BitVec 64)) : (s.setTime v).spoil = s.spoil := rfl
@[simp] theorem State.setTime_pcie (s : State) (v : (BitVec 64)) : (s.setTime v).pcie = s.pcie := rfl
@[simp] theorem State.setTime_jtag (s : State) (v : (BitVec 64)) : (s.setTime v).jtag = s.jtag := rfl
@[simp] theorem State.setTime_cal (s : State) (v : (BitVec 64)) : (s.setTime v).cal = s.cal := rfl
@[simp] theorem State.setTime_undef (s : State) (v : (BitVec 64)) : (s.setTime v).undef = s.undef := rfl
@[simp] theorem State.setTime_time (s : State) (v : (BitVec 64)) : (s.setTime v).time = v := rfl
@[simp] theorem State.setTofs_pending (s : State) (v : (BitVec 64)) : (s.setTofs v).pending = s.pending := rfl
@[simp] theorem State.setTofs_free (s : State) (v : (BitVec 64)) : (s.setTofs v).free = s.free := rfl
@[simp] theorem State.setTofs_rd (s : State) (v : (BitVec 64)) : (s.setTofs v).rd = s.rd := rfl
@[simp] theorem State.setTofs_time (s : State) (v : (BitVec 64)) : (s.setTofs v).time = s.time := rfl
@[simp] theorem State.setTofs_pw (s : State) (v : (BitVec 64)) : (s.setTofs v).pw = s.pw := rfl
@[simp] theorem State.setTofs_regs (s : State) (v : (BitVec 64)) : (s.setTofs v).regs = s.regs := rfl
@[simp] theorem State.setTofs_act (s : State) (v : (BitVec 64)) : (s.setTofs v).act = s.act := rfl
@[simp] theorem State.setTofs_latch (s : State) (v : (BitVec 64)) : (s.setTofs v).latch = s.latch := rfl
@[simp] theorem State.setTofs_released (s : State) (v : (BitVec 64)) : (s.setTofs v).released = s.released := rfl
@[simp] theorem State.setTofs_dram (s : State) (v : (BitVec 64)) : (s.setTofs v).dram = s.dram := rfl
@[simp] theorem State.setTofs_hostMem (s : State) (v : (BitVec 64)) : (s.setTofs v).hostMem = s.hostMem := rfl
@[simp] theorem State.setTofs_pool (s : State) (v : (BitVec 64)) : (s.setTofs v).pool = s.pool := rfl
@[simp] theorem State.setTofs_encs (s : State) (v : (BitVec 64)) : (s.setTofs v).encs = s.encs := rfl
@[simp] theorem State.setTofs_scheds (s : State) (v : (BitVec 64)) : (s.setTofs v).scheds = s.scheds := rfl
@[simp] theorem State.setTofs_heads (s : State) (v : (BitVec 64)) : (s.setTofs v).heads = s.heads := rfl
@[simp] theorem State.setTofs_seqs (s : State) (v : (BitVec 64)) : (s.setTofs v).seqs = s.seqs := rfl
@[simp] theorem State.setTofs_sync (s : State) (v : (BitVec 64)) : (s.setTofs v).sync = s.sync := rfl
@[simp] theorem State.setTofs_gpio (s : State) (v : (BitVec 64)) : (s.setTofs v).gpio = s.gpio := rfl
@[simp] theorem State.setTofs_ports (s : State) (v : (BitVec 64)) : (s.setTofs v).ports = s.ports := rfl
@[simp] theorem State.setTofs_faces (s : State) (v : (BitVec 64)) : (s.setTofs v).faces = s.faces := rfl
@[simp] theorem State.setTofs_fctxs (s : State) (v : (BitVec 64)) : (s.setTofs v).fctxs = s.fctxs := rfl
@[simp] theorem State.setTofs_sctxs (s : State) (v : (BitVec 64)) : (s.setTofs v).sctxs = s.sctxs := rfl
@[simp] theorem State.setTofs_seamLast (s : State) (v : (BitVec 64)) : (s.setTofs v).seamLast = s.seamLast := rfl
@[simp] theorem State.setTofs_stocks (s : State) (v : (BitVec 64)) : (s.setTofs v).stocks = s.stocks := rfl
@[simp] theorem State.setTofs_closings (s : State) (v : (BitVec 64)) : (s.setTofs v).closings = s.closings := rfl
@[simp] theorem State.setTofs_riddle (s : State) (v : (BitVec 64)) : (s.setTofs v).riddle = s.riddle := rfl
@[simp] theorem State.setTofs_kerfs (s : State) (v : (BitVec 64)) : (s.setTofs v).kerfs = s.kerfs := rfl
@[simp] theorem State.setTofs_benches (s : State) (v : (BitVec 64)) : (s.setTofs v).benches = s.benches := rfl
@[simp] theorem State.setTofs_cores (s : State) (v : (BitVec 64)) : (s.setTofs v).cores = s.cores := rfl
@[simp] theorem State.setTofs_boxes (s : State) (v : (BitVec 64)) : (s.setTofs v).boxes = s.boxes := rfl
@[simp] theorem State.setTofs_swq (s : State) (v : (BitVec 64)) : (s.setTofs v).swq = s.swq := rfl
@[simp] theorem State.setTofs_uarts (s : State) (v : (BitVec 64)) : (s.setTofs v).uarts = s.uarts := rfl
@[simp] theorem State.setTofs_chans (s : State) (v : (BitVec 64)) : (s.setTofs v).chans = s.chans := rfl
@[simp] theorem State.setTofs_fw (s : State) (v : (BitVec 64)) : (s.setTofs v).fw = s.fw := rfl
@[simp] theorem State.setTofs_res (s : State) (v : (BitVec 64)) : (s.setTofs v).res = s.res := rfl
@[simp] theorem State.setTofs_flash (s : State) (v : (BitVec 64)) : (s.setTofs v).flash = s.flash := rfl
@[simp] theorem State.setTofs_spoil (s : State) (v : (BitVec 64)) : (s.setTofs v).spoil = s.spoil := rfl
@[simp] theorem State.setTofs_pcie (s : State) (v : (BitVec 64)) : (s.setTofs v).pcie = s.pcie := rfl
@[simp] theorem State.setTofs_jtag (s : State) (v : (BitVec 64)) : (s.setTofs v).jtag = s.jtag := rfl
@[simp] theorem State.setTofs_cal (s : State) (v : (BitVec 64)) : (s.setTofs v).cal = s.cal := rfl
@[simp] theorem State.setTofs_undef (s : State) (v : (BitVec 64)) : (s.setTofs v).undef = s.undef := rfl
@[simp] theorem State.setTofs_tofs (s : State) (v : (BitVec 64)) : (s.setTofs v).tofs = v := rfl
@[simp] theorem State.setRiddle_pending (s : State) (v : Riddle) : (s.setRiddle v).pending = s.pending := rfl
@[simp] theorem State.setRiddle_free (s : State) (v : Riddle) : (s.setRiddle v).free = s.free := rfl
@[simp] theorem State.setRiddle_rd (s : State) (v : Riddle) : (s.setRiddle v).rd = s.rd := rfl
@[simp] theorem State.setRiddle_time (s : State) (v : Riddle) : (s.setRiddle v).time = s.time := rfl
@[simp] theorem State.setRiddle_tofs (s : State) (v : Riddle) : (s.setRiddle v).tofs = s.tofs := rfl
@[simp] theorem State.setRiddle_pw (s : State) (v : Riddle) : (s.setRiddle v).pw = s.pw := rfl
@[simp] theorem State.setRiddle_regs (s : State) (v : Riddle) : (s.setRiddle v).regs = s.regs := rfl
@[simp] theorem State.setRiddle_act (s : State) (v : Riddle) : (s.setRiddle v).act = s.act := rfl
@[simp] theorem State.setRiddle_latch (s : State) (v : Riddle) : (s.setRiddle v).latch = s.latch := rfl
@[simp] theorem State.setRiddle_released (s : State) (v : Riddle) : (s.setRiddle v).released = s.released := rfl
@[simp] theorem State.setRiddle_dram (s : State) (v : Riddle) : (s.setRiddle v).dram = s.dram := rfl
@[simp] theorem State.setRiddle_hostMem (s : State) (v : Riddle) : (s.setRiddle v).hostMem = s.hostMem := rfl
@[simp] theorem State.setRiddle_pool (s : State) (v : Riddle) : (s.setRiddle v).pool = s.pool := rfl
@[simp] theorem State.setRiddle_encs (s : State) (v : Riddle) : (s.setRiddle v).encs = s.encs := rfl
@[simp] theorem State.setRiddle_scheds (s : State) (v : Riddle) : (s.setRiddle v).scheds = s.scheds := rfl
@[simp] theorem State.setRiddle_heads (s : State) (v : Riddle) : (s.setRiddle v).heads = s.heads := rfl
@[simp] theorem State.setRiddle_seqs (s : State) (v : Riddle) : (s.setRiddle v).seqs = s.seqs := rfl
@[simp] theorem State.setRiddle_sync (s : State) (v : Riddle) : (s.setRiddle v).sync = s.sync := rfl
@[simp] theorem State.setRiddle_gpio (s : State) (v : Riddle) : (s.setRiddle v).gpio = s.gpio := rfl
@[simp] theorem State.setRiddle_ports (s : State) (v : Riddle) : (s.setRiddle v).ports = s.ports := rfl
@[simp] theorem State.setRiddle_faces (s : State) (v : Riddle) : (s.setRiddle v).faces = s.faces := rfl
@[simp] theorem State.setRiddle_fctxs (s : State) (v : Riddle) : (s.setRiddle v).fctxs = s.fctxs := rfl
@[simp] theorem State.setRiddle_sctxs (s : State) (v : Riddle) : (s.setRiddle v).sctxs = s.sctxs := rfl
@[simp] theorem State.setRiddle_seamLast (s : State) (v : Riddle) : (s.setRiddle v).seamLast = s.seamLast := rfl
@[simp] theorem State.setRiddle_stocks (s : State) (v : Riddle) : (s.setRiddle v).stocks = s.stocks := rfl
@[simp] theorem State.setRiddle_closings (s : State) (v : Riddle) : (s.setRiddle v).closings = s.closings := rfl
@[simp] theorem State.setRiddle_kerfs (s : State) (v : Riddle) : (s.setRiddle v).kerfs = s.kerfs := rfl
@[simp] theorem State.setRiddle_benches (s : State) (v : Riddle) : (s.setRiddle v).benches = s.benches := rfl
@[simp] theorem State.setRiddle_cores (s : State) (v : Riddle) : (s.setRiddle v).cores = s.cores := rfl
@[simp] theorem State.setRiddle_boxes (s : State) (v : Riddle) : (s.setRiddle v).boxes = s.boxes := rfl
@[simp] theorem State.setRiddle_swq (s : State) (v : Riddle) : (s.setRiddle v).swq = s.swq := rfl
@[simp] theorem State.setRiddle_uarts (s : State) (v : Riddle) : (s.setRiddle v).uarts = s.uarts := rfl
@[simp] theorem State.setRiddle_chans (s : State) (v : Riddle) : (s.setRiddle v).chans = s.chans := rfl
@[simp] theorem State.setRiddle_fw (s : State) (v : Riddle) : (s.setRiddle v).fw = s.fw := rfl
@[simp] theorem State.setRiddle_res (s : State) (v : Riddle) : (s.setRiddle v).res = s.res := rfl
@[simp] theorem State.setRiddle_flash (s : State) (v : Riddle) : (s.setRiddle v).flash = s.flash := rfl
@[simp] theorem State.setRiddle_spoil (s : State) (v : Riddle) : (s.setRiddle v).spoil = s.spoil := rfl
@[simp] theorem State.setRiddle_pcie (s : State) (v : Riddle) : (s.setRiddle v).pcie = s.pcie := rfl
@[simp] theorem State.setRiddle_jtag (s : State) (v : Riddle) : (s.setRiddle v).jtag = s.jtag := rfl
@[simp] theorem State.setRiddle_cal (s : State) (v : Riddle) : (s.setRiddle v).cal = s.cal := rfl
@[simp] theorem State.setRiddle_undef (s : State) (v : Riddle) : (s.setRiddle v).undef = s.undef := rfl
@[simp] theorem State.setRiddle_riddle (s : State) (v : Riddle) : (s.setRiddle v).riddle = v := rfl
@[simp] theorem State.setFw_pending (s : State) (v : FwSet) : (s.setFw v).pending = s.pending := rfl
@[simp] theorem State.setFw_free (s : State) (v : FwSet) : (s.setFw v).free = s.free := rfl
@[simp] theorem State.setFw_rd (s : State) (v : FwSet) : (s.setFw v).rd = s.rd := rfl
@[simp] theorem State.setFw_time (s : State) (v : FwSet) : (s.setFw v).time = s.time := rfl
@[simp] theorem State.setFw_tofs (s : State) (v : FwSet) : (s.setFw v).tofs = s.tofs := rfl
@[simp] theorem State.setFw_pw (s : State) (v : FwSet) : (s.setFw v).pw = s.pw := rfl
@[simp] theorem State.setFw_regs (s : State) (v : FwSet) : (s.setFw v).regs = s.regs := rfl
@[simp] theorem State.setFw_act (s : State) (v : FwSet) : (s.setFw v).act = s.act := rfl
@[simp] theorem State.setFw_latch (s : State) (v : FwSet) : (s.setFw v).latch = s.latch := rfl
@[simp] theorem State.setFw_released (s : State) (v : FwSet) : (s.setFw v).released = s.released := rfl
@[simp] theorem State.setFw_dram (s : State) (v : FwSet) : (s.setFw v).dram = s.dram := rfl
@[simp] theorem State.setFw_hostMem (s : State) (v : FwSet) : (s.setFw v).hostMem = s.hostMem := rfl
@[simp] theorem State.setFw_pool (s : State) (v : FwSet) : (s.setFw v).pool = s.pool := rfl
@[simp] theorem State.setFw_encs (s : State) (v : FwSet) : (s.setFw v).encs = s.encs := rfl
@[simp] theorem State.setFw_scheds (s : State) (v : FwSet) : (s.setFw v).scheds = s.scheds := rfl
@[simp] theorem State.setFw_heads (s : State) (v : FwSet) : (s.setFw v).heads = s.heads := rfl
@[simp] theorem State.setFw_seqs (s : State) (v : FwSet) : (s.setFw v).seqs = s.seqs := rfl
@[simp] theorem State.setFw_sync (s : State) (v : FwSet) : (s.setFw v).sync = s.sync := rfl
@[simp] theorem State.setFw_gpio (s : State) (v : FwSet) : (s.setFw v).gpio = s.gpio := rfl
@[simp] theorem State.setFw_ports (s : State) (v : FwSet) : (s.setFw v).ports = s.ports := rfl
@[simp] theorem State.setFw_faces (s : State) (v : FwSet) : (s.setFw v).faces = s.faces := rfl
@[simp] theorem State.setFw_fctxs (s : State) (v : FwSet) : (s.setFw v).fctxs = s.fctxs := rfl
@[simp] theorem State.setFw_sctxs (s : State) (v : FwSet) : (s.setFw v).sctxs = s.sctxs := rfl
@[simp] theorem State.setFw_seamLast (s : State) (v : FwSet) : (s.setFw v).seamLast = s.seamLast := rfl
@[simp] theorem State.setFw_stocks (s : State) (v : FwSet) : (s.setFw v).stocks = s.stocks := rfl
@[simp] theorem State.setFw_closings (s : State) (v : FwSet) : (s.setFw v).closings = s.closings := rfl
@[simp] theorem State.setFw_riddle (s : State) (v : FwSet) : (s.setFw v).riddle = s.riddle := rfl
@[simp] theorem State.setFw_kerfs (s : State) (v : FwSet) : (s.setFw v).kerfs = s.kerfs := rfl
@[simp] theorem State.setFw_benches (s : State) (v : FwSet) : (s.setFw v).benches = s.benches := rfl
@[simp] theorem State.setFw_cores (s : State) (v : FwSet) : (s.setFw v).cores = s.cores := rfl
@[simp] theorem State.setFw_boxes (s : State) (v : FwSet) : (s.setFw v).boxes = s.boxes := rfl
@[simp] theorem State.setFw_swq (s : State) (v : FwSet) : (s.setFw v).swq = s.swq := rfl
@[simp] theorem State.setFw_uarts (s : State) (v : FwSet) : (s.setFw v).uarts = s.uarts := rfl
@[simp] theorem State.setFw_chans (s : State) (v : FwSet) : (s.setFw v).chans = s.chans := rfl
@[simp] theorem State.setFw_res (s : State) (v : FwSet) : (s.setFw v).res = s.res := rfl
@[simp] theorem State.setFw_flash (s : State) (v : FwSet) : (s.setFw v).flash = s.flash := rfl
@[simp] theorem State.setFw_spoil (s : State) (v : FwSet) : (s.setFw v).spoil = s.spoil := rfl
@[simp] theorem State.setFw_pcie (s : State) (v : FwSet) : (s.setFw v).pcie = s.pcie := rfl
@[simp] theorem State.setFw_jtag (s : State) (v : FwSet) : (s.setFw v).jtag = s.jtag := rfl
@[simp] theorem State.setFw_cal (s : State) (v : FwSet) : (s.setFw v).cal = s.cal := rfl
@[simp] theorem State.setFw_undef (s : State) (v : FwSet) : (s.setFw v).undef = s.undef := rfl
@[simp] theorem State.setFw_fw (s : State) (v : FwSet) : (s.setFw v).fw = v := rfl
@[simp] theorem State.setRes_pending (s : State) (v : Results) : (s.setRes v).pending = s.pending := rfl
@[simp] theorem State.setRes_free (s : State) (v : Results) : (s.setRes v).free = s.free := rfl
@[simp] theorem State.setRes_rd (s : State) (v : Results) : (s.setRes v).rd = s.rd := rfl
@[simp] theorem State.setRes_time (s : State) (v : Results) : (s.setRes v).time = s.time := rfl
@[simp] theorem State.setRes_tofs (s : State) (v : Results) : (s.setRes v).tofs = s.tofs := rfl
@[simp] theorem State.setRes_pw (s : State) (v : Results) : (s.setRes v).pw = s.pw := rfl
@[simp] theorem State.setRes_regs (s : State) (v : Results) : (s.setRes v).regs = s.regs := rfl
@[simp] theorem State.setRes_act (s : State) (v : Results) : (s.setRes v).act = s.act := rfl
@[simp] theorem State.setRes_latch (s : State) (v : Results) : (s.setRes v).latch = s.latch := rfl
@[simp] theorem State.setRes_released (s : State) (v : Results) : (s.setRes v).released = s.released := rfl
@[simp] theorem State.setRes_dram (s : State) (v : Results) : (s.setRes v).dram = s.dram := rfl
@[simp] theorem State.setRes_hostMem (s : State) (v : Results) : (s.setRes v).hostMem = s.hostMem := rfl
@[simp] theorem State.setRes_pool (s : State) (v : Results) : (s.setRes v).pool = s.pool := rfl
@[simp] theorem State.setRes_encs (s : State) (v : Results) : (s.setRes v).encs = s.encs := rfl
@[simp] theorem State.setRes_scheds (s : State) (v : Results) : (s.setRes v).scheds = s.scheds := rfl
@[simp] theorem State.setRes_heads (s : State) (v : Results) : (s.setRes v).heads = s.heads := rfl
@[simp] theorem State.setRes_seqs (s : State) (v : Results) : (s.setRes v).seqs = s.seqs := rfl
@[simp] theorem State.setRes_sync (s : State) (v : Results) : (s.setRes v).sync = s.sync := rfl
@[simp] theorem State.setRes_gpio (s : State) (v : Results) : (s.setRes v).gpio = s.gpio := rfl
@[simp] theorem State.setRes_ports (s : State) (v : Results) : (s.setRes v).ports = s.ports := rfl
@[simp] theorem State.setRes_faces (s : State) (v : Results) : (s.setRes v).faces = s.faces := rfl
@[simp] theorem State.setRes_fctxs (s : State) (v : Results) : (s.setRes v).fctxs = s.fctxs := rfl
@[simp] theorem State.setRes_sctxs (s : State) (v : Results) : (s.setRes v).sctxs = s.sctxs := rfl
@[simp] theorem State.setRes_seamLast (s : State) (v : Results) : (s.setRes v).seamLast = s.seamLast := rfl
@[simp] theorem State.setRes_stocks (s : State) (v : Results) : (s.setRes v).stocks = s.stocks := rfl
@[simp] theorem State.setRes_closings (s : State) (v : Results) : (s.setRes v).closings = s.closings := rfl
@[simp] theorem State.setRes_riddle (s : State) (v : Results) : (s.setRes v).riddle = s.riddle := rfl
@[simp] theorem State.setRes_kerfs (s : State) (v : Results) : (s.setRes v).kerfs = s.kerfs := rfl
@[simp] theorem State.setRes_benches (s : State) (v : Results) : (s.setRes v).benches = s.benches := rfl
@[simp] theorem State.setRes_cores (s : State) (v : Results) : (s.setRes v).cores = s.cores := rfl
@[simp] theorem State.setRes_boxes (s : State) (v : Results) : (s.setRes v).boxes = s.boxes := rfl
@[simp] theorem State.setRes_swq (s : State) (v : Results) : (s.setRes v).swq = s.swq := rfl
@[simp] theorem State.setRes_uarts (s : State) (v : Results) : (s.setRes v).uarts = s.uarts := rfl
@[simp] theorem State.setRes_chans (s : State) (v : Results) : (s.setRes v).chans = s.chans := rfl
@[simp] theorem State.setRes_fw (s : State) (v : Results) : (s.setRes v).fw = s.fw := rfl
@[simp] theorem State.setRes_flash (s : State) (v : Results) : (s.setRes v).flash = s.flash := rfl
@[simp] theorem State.setRes_spoil (s : State) (v : Results) : (s.setRes v).spoil = s.spoil := rfl
@[simp] theorem State.setRes_pcie (s : State) (v : Results) : (s.setRes v).pcie = s.pcie := rfl
@[simp] theorem State.setRes_jtag (s : State) (v : Results) : (s.setRes v).jtag = s.jtag := rfl
@[simp] theorem State.setRes_cal (s : State) (v : Results) : (s.setRes v).cal = s.cal := rfl
@[simp] theorem State.setRes_undef (s : State) (v : Results) : (s.setRes v).undef = s.undef := rfl
@[simp] theorem State.setRes_res (s : State) (v : Results) : (s.setRes v).res = v := rfl
@[simp] theorem State.setFlash_pending (s : State) (v : Flash) : (s.setFlash v).pending = s.pending := rfl
@[simp] theorem State.setFlash_free (s : State) (v : Flash) : (s.setFlash v).free = s.free := rfl
@[simp] theorem State.setFlash_rd (s : State) (v : Flash) : (s.setFlash v).rd = s.rd := rfl
@[simp] theorem State.setFlash_time (s : State) (v : Flash) : (s.setFlash v).time = s.time := rfl
@[simp] theorem State.setFlash_tofs (s : State) (v : Flash) : (s.setFlash v).tofs = s.tofs := rfl
@[simp] theorem State.setFlash_pw (s : State) (v : Flash) : (s.setFlash v).pw = s.pw := rfl
@[simp] theorem State.setFlash_regs (s : State) (v : Flash) : (s.setFlash v).regs = s.regs := rfl
@[simp] theorem State.setFlash_act (s : State) (v : Flash) : (s.setFlash v).act = s.act := rfl
@[simp] theorem State.setFlash_latch (s : State) (v : Flash) : (s.setFlash v).latch = s.latch := rfl
@[simp] theorem State.setFlash_released (s : State) (v : Flash) : (s.setFlash v).released = s.released := rfl
@[simp] theorem State.setFlash_dram (s : State) (v : Flash) : (s.setFlash v).dram = s.dram := rfl
@[simp] theorem State.setFlash_hostMem (s : State) (v : Flash) : (s.setFlash v).hostMem = s.hostMem := rfl
@[simp] theorem State.setFlash_pool (s : State) (v : Flash) : (s.setFlash v).pool = s.pool := rfl
@[simp] theorem State.setFlash_encs (s : State) (v : Flash) : (s.setFlash v).encs = s.encs := rfl
@[simp] theorem State.setFlash_scheds (s : State) (v : Flash) : (s.setFlash v).scheds = s.scheds := rfl
@[simp] theorem State.setFlash_heads (s : State) (v : Flash) : (s.setFlash v).heads = s.heads := rfl
@[simp] theorem State.setFlash_seqs (s : State) (v : Flash) : (s.setFlash v).seqs = s.seqs := rfl
@[simp] theorem State.setFlash_sync (s : State) (v : Flash) : (s.setFlash v).sync = s.sync := rfl
@[simp] theorem State.setFlash_gpio (s : State) (v : Flash) : (s.setFlash v).gpio = s.gpio := rfl
@[simp] theorem State.setFlash_ports (s : State) (v : Flash) : (s.setFlash v).ports = s.ports := rfl
@[simp] theorem State.setFlash_faces (s : State) (v : Flash) : (s.setFlash v).faces = s.faces := rfl
@[simp] theorem State.setFlash_fctxs (s : State) (v : Flash) : (s.setFlash v).fctxs = s.fctxs := rfl
@[simp] theorem State.setFlash_sctxs (s : State) (v : Flash) : (s.setFlash v).sctxs = s.sctxs := rfl
@[simp] theorem State.setFlash_seamLast (s : State) (v : Flash) : (s.setFlash v).seamLast = s.seamLast := rfl
@[simp] theorem State.setFlash_stocks (s : State) (v : Flash) : (s.setFlash v).stocks = s.stocks := rfl
@[simp] theorem State.setFlash_closings (s : State) (v : Flash) : (s.setFlash v).closings = s.closings := rfl
@[simp] theorem State.setFlash_riddle (s : State) (v : Flash) : (s.setFlash v).riddle = s.riddle := rfl
@[simp] theorem State.setFlash_kerfs (s : State) (v : Flash) : (s.setFlash v).kerfs = s.kerfs := rfl
@[simp] theorem State.setFlash_benches (s : State) (v : Flash) : (s.setFlash v).benches = s.benches := rfl
@[simp] theorem State.setFlash_cores (s : State) (v : Flash) : (s.setFlash v).cores = s.cores := rfl
@[simp] theorem State.setFlash_boxes (s : State) (v : Flash) : (s.setFlash v).boxes = s.boxes := rfl
@[simp] theorem State.setFlash_swq (s : State) (v : Flash) : (s.setFlash v).swq = s.swq := rfl
@[simp] theorem State.setFlash_uarts (s : State) (v : Flash) : (s.setFlash v).uarts = s.uarts := rfl
@[simp] theorem State.setFlash_chans (s : State) (v : Flash) : (s.setFlash v).chans = s.chans := rfl
@[simp] theorem State.setFlash_fw (s : State) (v : Flash) : (s.setFlash v).fw = s.fw := rfl
@[simp] theorem State.setFlash_res (s : State) (v : Flash) : (s.setFlash v).res = s.res := rfl
@[simp] theorem State.setFlash_spoil (s : State) (v : Flash) : (s.setFlash v).spoil = s.spoil := rfl
@[simp] theorem State.setFlash_pcie (s : State) (v : Flash) : (s.setFlash v).pcie = s.pcie := rfl
@[simp] theorem State.setFlash_jtag (s : State) (v : Flash) : (s.setFlash v).jtag = s.jtag := rfl
@[simp] theorem State.setFlash_cal (s : State) (v : Flash) : (s.setFlash v).cal = s.cal := rfl
@[simp] theorem State.setFlash_undef (s : State) (v : Flash) : (s.setFlash v).undef = s.undef := rfl
@[simp] theorem State.setFlash_flash (s : State) (v : Flash) : (s.setFlash v).flash = v := rfl
@[simp] theorem State.setSpoil_pending (s : State) (v : Spoil) : (s.setSpoil v).pending = s.pending := rfl
@[simp] theorem State.setSpoil_free (s : State) (v : Spoil) : (s.setSpoil v).free = s.free := rfl
@[simp] theorem State.setSpoil_rd (s : State) (v : Spoil) : (s.setSpoil v).rd = s.rd := rfl
@[simp] theorem State.setSpoil_time (s : State) (v : Spoil) : (s.setSpoil v).time = s.time := rfl
@[simp] theorem State.setSpoil_tofs (s : State) (v : Spoil) : (s.setSpoil v).tofs = s.tofs := rfl
@[simp] theorem State.setSpoil_pw (s : State) (v : Spoil) : (s.setSpoil v).pw = s.pw := rfl
@[simp] theorem State.setSpoil_regs (s : State) (v : Spoil) : (s.setSpoil v).regs = s.regs := rfl
@[simp] theorem State.setSpoil_act (s : State) (v : Spoil) : (s.setSpoil v).act = s.act := rfl
@[simp] theorem State.setSpoil_latch (s : State) (v : Spoil) : (s.setSpoil v).latch = s.latch := rfl
@[simp] theorem State.setSpoil_released (s : State) (v : Spoil) : (s.setSpoil v).released = s.released := rfl
@[simp] theorem State.setSpoil_dram (s : State) (v : Spoil) : (s.setSpoil v).dram = s.dram := rfl
@[simp] theorem State.setSpoil_hostMem (s : State) (v : Spoil) : (s.setSpoil v).hostMem = s.hostMem := rfl
@[simp] theorem State.setSpoil_pool (s : State) (v : Spoil) : (s.setSpoil v).pool = s.pool := rfl
@[simp] theorem State.setSpoil_encs (s : State) (v : Spoil) : (s.setSpoil v).encs = s.encs := rfl
@[simp] theorem State.setSpoil_scheds (s : State) (v : Spoil) : (s.setSpoil v).scheds = s.scheds := rfl
@[simp] theorem State.setSpoil_heads (s : State) (v : Spoil) : (s.setSpoil v).heads = s.heads := rfl
@[simp] theorem State.setSpoil_seqs (s : State) (v : Spoil) : (s.setSpoil v).seqs = s.seqs := rfl
@[simp] theorem State.setSpoil_sync (s : State) (v : Spoil) : (s.setSpoil v).sync = s.sync := rfl
@[simp] theorem State.setSpoil_gpio (s : State) (v : Spoil) : (s.setSpoil v).gpio = s.gpio := rfl
@[simp] theorem State.setSpoil_ports (s : State) (v : Spoil) : (s.setSpoil v).ports = s.ports := rfl
@[simp] theorem State.setSpoil_faces (s : State) (v : Spoil) : (s.setSpoil v).faces = s.faces := rfl
@[simp] theorem State.setSpoil_fctxs (s : State) (v : Spoil) : (s.setSpoil v).fctxs = s.fctxs := rfl
@[simp] theorem State.setSpoil_sctxs (s : State) (v : Spoil) : (s.setSpoil v).sctxs = s.sctxs := rfl
@[simp] theorem State.setSpoil_seamLast (s : State) (v : Spoil) : (s.setSpoil v).seamLast = s.seamLast := rfl
@[simp] theorem State.setSpoil_stocks (s : State) (v : Spoil) : (s.setSpoil v).stocks = s.stocks := rfl
@[simp] theorem State.setSpoil_closings (s : State) (v : Spoil) : (s.setSpoil v).closings = s.closings := rfl
@[simp] theorem State.setSpoil_riddle (s : State) (v : Spoil) : (s.setSpoil v).riddle = s.riddle := rfl
@[simp] theorem State.setSpoil_kerfs (s : State) (v : Spoil) : (s.setSpoil v).kerfs = s.kerfs := rfl
@[simp] theorem State.setSpoil_benches (s : State) (v : Spoil) : (s.setSpoil v).benches = s.benches := rfl
@[simp] theorem State.setSpoil_cores (s : State) (v : Spoil) : (s.setSpoil v).cores = s.cores := rfl
@[simp] theorem State.setSpoil_boxes (s : State) (v : Spoil) : (s.setSpoil v).boxes = s.boxes := rfl
@[simp] theorem State.setSpoil_swq (s : State) (v : Spoil) : (s.setSpoil v).swq = s.swq := rfl
@[simp] theorem State.setSpoil_uarts (s : State) (v : Spoil) : (s.setSpoil v).uarts = s.uarts := rfl
@[simp] theorem State.setSpoil_chans (s : State) (v : Spoil) : (s.setSpoil v).chans = s.chans := rfl
@[simp] theorem State.setSpoil_fw (s : State) (v : Spoil) : (s.setSpoil v).fw = s.fw := rfl
@[simp] theorem State.setSpoil_res (s : State) (v : Spoil) : (s.setSpoil v).res = s.res := rfl
@[simp] theorem State.setSpoil_flash (s : State) (v : Spoil) : (s.setSpoil v).flash = s.flash := rfl
@[simp] theorem State.setSpoil_pcie (s : State) (v : Spoil) : (s.setSpoil v).pcie = s.pcie := rfl
@[simp] theorem State.setSpoil_jtag (s : State) (v : Spoil) : (s.setSpoil v).jtag = s.jtag := rfl
@[simp] theorem State.setSpoil_cal (s : State) (v : Spoil) : (s.setSpoil v).cal = s.cal := rfl
@[simp] theorem State.setSpoil_undef (s : State) (v : Spoil) : (s.setSpoil v).undef = s.undef := rfl
@[simp] theorem State.setSpoil_spoil (s : State) (v : Spoil) : (s.setSpoil v).spoil = v := rfl
@[simp] theorem State.setPcie_pending (s : State) (v : Pcie) : (s.setPcie v).pending = s.pending := rfl
@[simp] theorem State.setPcie_free (s : State) (v : Pcie) : (s.setPcie v).free = s.free := rfl
@[simp] theorem State.setPcie_rd (s : State) (v : Pcie) : (s.setPcie v).rd = s.rd := rfl
@[simp] theorem State.setPcie_time (s : State) (v : Pcie) : (s.setPcie v).time = s.time := rfl
@[simp] theorem State.setPcie_tofs (s : State) (v : Pcie) : (s.setPcie v).tofs = s.tofs := rfl
@[simp] theorem State.setPcie_pw (s : State) (v : Pcie) : (s.setPcie v).pw = s.pw := rfl
@[simp] theorem State.setPcie_regs (s : State) (v : Pcie) : (s.setPcie v).regs = s.regs := rfl
@[simp] theorem State.setPcie_act (s : State) (v : Pcie) : (s.setPcie v).act = s.act := rfl
@[simp] theorem State.setPcie_latch (s : State) (v : Pcie) : (s.setPcie v).latch = s.latch := rfl
@[simp] theorem State.setPcie_released (s : State) (v : Pcie) : (s.setPcie v).released = s.released := rfl
@[simp] theorem State.setPcie_dram (s : State) (v : Pcie) : (s.setPcie v).dram = s.dram := rfl
@[simp] theorem State.setPcie_hostMem (s : State) (v : Pcie) : (s.setPcie v).hostMem = s.hostMem := rfl
@[simp] theorem State.setPcie_pool (s : State) (v : Pcie) : (s.setPcie v).pool = s.pool := rfl
@[simp] theorem State.setPcie_encs (s : State) (v : Pcie) : (s.setPcie v).encs = s.encs := rfl
@[simp] theorem State.setPcie_scheds (s : State) (v : Pcie) : (s.setPcie v).scheds = s.scheds := rfl
@[simp] theorem State.setPcie_heads (s : State) (v : Pcie) : (s.setPcie v).heads = s.heads := rfl
@[simp] theorem State.setPcie_seqs (s : State) (v : Pcie) : (s.setPcie v).seqs = s.seqs := rfl
@[simp] theorem State.setPcie_sync (s : State) (v : Pcie) : (s.setPcie v).sync = s.sync := rfl
@[simp] theorem State.setPcie_gpio (s : State) (v : Pcie) : (s.setPcie v).gpio = s.gpio := rfl
@[simp] theorem State.setPcie_ports (s : State) (v : Pcie) : (s.setPcie v).ports = s.ports := rfl
@[simp] theorem State.setPcie_faces (s : State) (v : Pcie) : (s.setPcie v).faces = s.faces := rfl
@[simp] theorem State.setPcie_fctxs (s : State) (v : Pcie) : (s.setPcie v).fctxs = s.fctxs := rfl
@[simp] theorem State.setPcie_sctxs (s : State) (v : Pcie) : (s.setPcie v).sctxs = s.sctxs := rfl
@[simp] theorem State.setPcie_seamLast (s : State) (v : Pcie) : (s.setPcie v).seamLast = s.seamLast := rfl
@[simp] theorem State.setPcie_stocks (s : State) (v : Pcie) : (s.setPcie v).stocks = s.stocks := rfl
@[simp] theorem State.setPcie_closings (s : State) (v : Pcie) : (s.setPcie v).closings = s.closings := rfl
@[simp] theorem State.setPcie_riddle (s : State) (v : Pcie) : (s.setPcie v).riddle = s.riddle := rfl
@[simp] theorem State.setPcie_kerfs (s : State) (v : Pcie) : (s.setPcie v).kerfs = s.kerfs := rfl
@[simp] theorem State.setPcie_benches (s : State) (v : Pcie) : (s.setPcie v).benches = s.benches := rfl
@[simp] theorem State.setPcie_cores (s : State) (v : Pcie) : (s.setPcie v).cores = s.cores := rfl
@[simp] theorem State.setPcie_boxes (s : State) (v : Pcie) : (s.setPcie v).boxes = s.boxes := rfl
@[simp] theorem State.setPcie_swq (s : State) (v : Pcie) : (s.setPcie v).swq = s.swq := rfl
@[simp] theorem State.setPcie_uarts (s : State) (v : Pcie) : (s.setPcie v).uarts = s.uarts := rfl
@[simp] theorem State.setPcie_chans (s : State) (v : Pcie) : (s.setPcie v).chans = s.chans := rfl
@[simp] theorem State.setPcie_fw (s : State) (v : Pcie) : (s.setPcie v).fw = s.fw := rfl
@[simp] theorem State.setPcie_res (s : State) (v : Pcie) : (s.setPcie v).res = s.res := rfl
@[simp] theorem State.setPcie_flash (s : State) (v : Pcie) : (s.setPcie v).flash = s.flash := rfl
@[simp] theorem State.setPcie_spoil (s : State) (v : Pcie) : (s.setPcie v).spoil = s.spoil := rfl
@[simp] theorem State.setPcie_jtag (s : State) (v : Pcie) : (s.setPcie v).jtag = s.jtag := rfl
@[simp] theorem State.setPcie_cal (s : State) (v : Pcie) : (s.setPcie v).cal = s.cal := rfl
@[simp] theorem State.setPcie_undef (s : State) (v : Pcie) : (s.setPcie v).undef = s.undef := rfl
@[simp] theorem State.setPcie_pcie (s : State) (v : Pcie) : (s.setPcie v).pcie = v := rfl
@[simp] theorem State.setJtag_pending (s : State) (v : Jtag) : (s.setJtag v).pending = s.pending := rfl
@[simp] theorem State.setJtag_free (s : State) (v : Jtag) : (s.setJtag v).free = s.free := rfl
@[simp] theorem State.setJtag_rd (s : State) (v : Jtag) : (s.setJtag v).rd = s.rd := rfl
@[simp] theorem State.setJtag_time (s : State) (v : Jtag) : (s.setJtag v).time = s.time := rfl
@[simp] theorem State.setJtag_tofs (s : State) (v : Jtag) : (s.setJtag v).tofs = s.tofs := rfl
@[simp] theorem State.setJtag_pw (s : State) (v : Jtag) : (s.setJtag v).pw = s.pw := rfl
@[simp] theorem State.setJtag_regs (s : State) (v : Jtag) : (s.setJtag v).regs = s.regs := rfl
@[simp] theorem State.setJtag_act (s : State) (v : Jtag) : (s.setJtag v).act = s.act := rfl
@[simp] theorem State.setJtag_latch (s : State) (v : Jtag) : (s.setJtag v).latch = s.latch := rfl
@[simp] theorem State.setJtag_released (s : State) (v : Jtag) : (s.setJtag v).released = s.released := rfl
@[simp] theorem State.setJtag_dram (s : State) (v : Jtag) : (s.setJtag v).dram = s.dram := rfl
@[simp] theorem State.setJtag_hostMem (s : State) (v : Jtag) : (s.setJtag v).hostMem = s.hostMem := rfl
@[simp] theorem State.setJtag_pool (s : State) (v : Jtag) : (s.setJtag v).pool = s.pool := rfl
@[simp] theorem State.setJtag_encs (s : State) (v : Jtag) : (s.setJtag v).encs = s.encs := rfl
@[simp] theorem State.setJtag_scheds (s : State) (v : Jtag) : (s.setJtag v).scheds = s.scheds := rfl
@[simp] theorem State.setJtag_heads (s : State) (v : Jtag) : (s.setJtag v).heads = s.heads := rfl
@[simp] theorem State.setJtag_seqs (s : State) (v : Jtag) : (s.setJtag v).seqs = s.seqs := rfl
@[simp] theorem State.setJtag_sync (s : State) (v : Jtag) : (s.setJtag v).sync = s.sync := rfl
@[simp] theorem State.setJtag_gpio (s : State) (v : Jtag) : (s.setJtag v).gpio = s.gpio := rfl
@[simp] theorem State.setJtag_ports (s : State) (v : Jtag) : (s.setJtag v).ports = s.ports := rfl
@[simp] theorem State.setJtag_faces (s : State) (v : Jtag) : (s.setJtag v).faces = s.faces := rfl
@[simp] theorem State.setJtag_fctxs (s : State) (v : Jtag) : (s.setJtag v).fctxs = s.fctxs := rfl
@[simp] theorem State.setJtag_sctxs (s : State) (v : Jtag) : (s.setJtag v).sctxs = s.sctxs := rfl
@[simp] theorem State.setJtag_seamLast (s : State) (v : Jtag) : (s.setJtag v).seamLast = s.seamLast := rfl
@[simp] theorem State.setJtag_stocks (s : State) (v : Jtag) : (s.setJtag v).stocks = s.stocks := rfl
@[simp] theorem State.setJtag_closings (s : State) (v : Jtag) : (s.setJtag v).closings = s.closings := rfl
@[simp] theorem State.setJtag_riddle (s : State) (v : Jtag) : (s.setJtag v).riddle = s.riddle := rfl
@[simp] theorem State.setJtag_kerfs (s : State) (v : Jtag) : (s.setJtag v).kerfs = s.kerfs := rfl
@[simp] theorem State.setJtag_benches (s : State) (v : Jtag) : (s.setJtag v).benches = s.benches := rfl
@[simp] theorem State.setJtag_cores (s : State) (v : Jtag) : (s.setJtag v).cores = s.cores := rfl
@[simp] theorem State.setJtag_boxes (s : State) (v : Jtag) : (s.setJtag v).boxes = s.boxes := rfl
@[simp] theorem State.setJtag_swq (s : State) (v : Jtag) : (s.setJtag v).swq = s.swq := rfl
@[simp] theorem State.setJtag_uarts (s : State) (v : Jtag) : (s.setJtag v).uarts = s.uarts := rfl
@[simp] theorem State.setJtag_chans (s : State) (v : Jtag) : (s.setJtag v).chans = s.chans := rfl
@[simp] theorem State.setJtag_fw (s : State) (v : Jtag) : (s.setJtag v).fw = s.fw := rfl
@[simp] theorem State.setJtag_res (s : State) (v : Jtag) : (s.setJtag v).res = s.res := rfl
@[simp] theorem State.setJtag_flash (s : State) (v : Jtag) : (s.setJtag v).flash = s.flash := rfl
@[simp] theorem State.setJtag_spoil (s : State) (v : Jtag) : (s.setJtag v).spoil = s.spoil := rfl
@[simp] theorem State.setJtag_pcie (s : State) (v : Jtag) : (s.setJtag v).pcie = s.pcie := rfl
@[simp] theorem State.setJtag_cal (s : State) (v : Jtag) : (s.setJtag v).cal = s.cal := rfl
@[simp] theorem State.setJtag_undef (s : State) (v : Jtag) : (s.setJtag v).undef = s.undef := rfl
@[simp] theorem State.setJtag_jtag (s : State) (v : Jtag) : (s.setJtag v).jtag = v := rfl
@[simp] theorem State.setCal_pending (s : State) (v : (List CalJob)) : (s.setCal v).pending = s.pending := rfl
@[simp] theorem State.setCal_free (s : State) (v : (List CalJob)) : (s.setCal v).free = s.free := rfl
@[simp] theorem State.setCal_rd (s : State) (v : (List CalJob)) : (s.setCal v).rd = s.rd := rfl
@[simp] theorem State.setCal_time (s : State) (v : (List CalJob)) : (s.setCal v).time = s.time := rfl
@[simp] theorem State.setCal_tofs (s : State) (v : (List CalJob)) : (s.setCal v).tofs = s.tofs := rfl
@[simp] theorem State.setCal_pw (s : State) (v : (List CalJob)) : (s.setCal v).pw = s.pw := rfl
@[simp] theorem State.setCal_regs (s : State) (v : (List CalJob)) : (s.setCal v).regs = s.regs := rfl
@[simp] theorem State.setCal_act (s : State) (v : (List CalJob)) : (s.setCal v).act = s.act := rfl
@[simp] theorem State.setCal_latch (s : State) (v : (List CalJob)) : (s.setCal v).latch = s.latch := rfl
@[simp] theorem State.setCal_released (s : State) (v : (List CalJob)) : (s.setCal v).released = s.released := rfl
@[simp] theorem State.setCal_dram (s : State) (v : (List CalJob)) : (s.setCal v).dram = s.dram := rfl
@[simp] theorem State.setCal_hostMem (s : State) (v : (List CalJob)) : (s.setCal v).hostMem = s.hostMem := rfl
@[simp] theorem State.setCal_pool (s : State) (v : (List CalJob)) : (s.setCal v).pool = s.pool := rfl
@[simp] theorem State.setCal_encs (s : State) (v : (List CalJob)) : (s.setCal v).encs = s.encs := rfl
@[simp] theorem State.setCal_scheds (s : State) (v : (List CalJob)) : (s.setCal v).scheds = s.scheds := rfl
@[simp] theorem State.setCal_heads (s : State) (v : (List CalJob)) : (s.setCal v).heads = s.heads := rfl
@[simp] theorem State.setCal_seqs (s : State) (v : (List CalJob)) : (s.setCal v).seqs = s.seqs := rfl
@[simp] theorem State.setCal_sync (s : State) (v : (List CalJob)) : (s.setCal v).sync = s.sync := rfl
@[simp] theorem State.setCal_gpio (s : State) (v : (List CalJob)) : (s.setCal v).gpio = s.gpio := rfl
@[simp] theorem State.setCal_ports (s : State) (v : (List CalJob)) : (s.setCal v).ports = s.ports := rfl
@[simp] theorem State.setCal_faces (s : State) (v : (List CalJob)) : (s.setCal v).faces = s.faces := rfl
@[simp] theorem State.setCal_fctxs (s : State) (v : (List CalJob)) : (s.setCal v).fctxs = s.fctxs := rfl
@[simp] theorem State.setCal_sctxs (s : State) (v : (List CalJob)) : (s.setCal v).sctxs = s.sctxs := rfl
@[simp] theorem State.setCal_seamLast (s : State) (v : (List CalJob)) : (s.setCal v).seamLast = s.seamLast := rfl
@[simp] theorem State.setCal_stocks (s : State) (v : (List CalJob)) : (s.setCal v).stocks = s.stocks := rfl
@[simp] theorem State.setCal_closings (s : State) (v : (List CalJob)) : (s.setCal v).closings = s.closings := rfl
@[simp] theorem State.setCal_riddle (s : State) (v : (List CalJob)) : (s.setCal v).riddle = s.riddle := rfl
@[simp] theorem State.setCal_kerfs (s : State) (v : (List CalJob)) : (s.setCal v).kerfs = s.kerfs := rfl
@[simp] theorem State.setCal_benches (s : State) (v : (List CalJob)) : (s.setCal v).benches = s.benches := rfl
@[simp] theorem State.setCal_cores (s : State) (v : (List CalJob)) : (s.setCal v).cores = s.cores := rfl
@[simp] theorem State.setCal_boxes (s : State) (v : (List CalJob)) : (s.setCal v).boxes = s.boxes := rfl
@[simp] theorem State.setCal_swq (s : State) (v : (List CalJob)) : (s.setCal v).swq = s.swq := rfl
@[simp] theorem State.setCal_uarts (s : State) (v : (List CalJob)) : (s.setCal v).uarts = s.uarts := rfl
@[simp] theorem State.setCal_chans (s : State) (v : (List CalJob)) : (s.setCal v).chans = s.chans := rfl
@[simp] theorem State.setCal_fw (s : State) (v : (List CalJob)) : (s.setCal v).fw = s.fw := rfl
@[simp] theorem State.setCal_res (s : State) (v : (List CalJob)) : (s.setCal v).res = s.res := rfl
@[simp] theorem State.setCal_flash (s : State) (v : (List CalJob)) : (s.setCal v).flash = s.flash := rfl
@[simp] theorem State.setCal_spoil (s : State) (v : (List CalJob)) : (s.setCal v).spoil = s.spoil := rfl
@[simp] theorem State.setCal_pcie (s : State) (v : (List CalJob)) : (s.setCal v).pcie = s.pcie := rfl
@[simp] theorem State.setCal_jtag (s : State) (v : (List CalJob)) : (s.setCal v).jtag = s.jtag := rfl
@[simp] theorem State.setCal_undef (s : State) (v : (List CalJob)) : (s.setCal v).undef = s.undef := rfl
@[simp] theorem State.setCal_cal (s : State) (v : (List CalJob)) : (s.setCal v).cal = v := rfl
@[simp] theorem State.setSwq_pending (s : State) (v : (List SwReq)) : (s.setSwq v).pending = s.pending := rfl
@[simp] theorem State.setSwq_free (s : State) (v : (List SwReq)) : (s.setSwq v).free = s.free := rfl
@[simp] theorem State.setSwq_rd (s : State) (v : (List SwReq)) : (s.setSwq v).rd = s.rd := rfl
@[simp] theorem State.setSwq_time (s : State) (v : (List SwReq)) : (s.setSwq v).time = s.time := rfl
@[simp] theorem State.setSwq_tofs (s : State) (v : (List SwReq)) : (s.setSwq v).tofs = s.tofs := rfl
@[simp] theorem State.setSwq_pw (s : State) (v : (List SwReq)) : (s.setSwq v).pw = s.pw := rfl
@[simp] theorem State.setSwq_regs (s : State) (v : (List SwReq)) : (s.setSwq v).regs = s.regs := rfl
@[simp] theorem State.setSwq_act (s : State) (v : (List SwReq)) : (s.setSwq v).act = s.act := rfl
@[simp] theorem State.setSwq_latch (s : State) (v : (List SwReq)) : (s.setSwq v).latch = s.latch := rfl
@[simp] theorem State.setSwq_released (s : State) (v : (List SwReq)) : (s.setSwq v).released = s.released := rfl
@[simp] theorem State.setSwq_dram (s : State) (v : (List SwReq)) : (s.setSwq v).dram = s.dram := rfl
@[simp] theorem State.setSwq_hostMem (s : State) (v : (List SwReq)) : (s.setSwq v).hostMem = s.hostMem := rfl
@[simp] theorem State.setSwq_pool (s : State) (v : (List SwReq)) : (s.setSwq v).pool = s.pool := rfl
@[simp] theorem State.setSwq_encs (s : State) (v : (List SwReq)) : (s.setSwq v).encs = s.encs := rfl
@[simp] theorem State.setSwq_scheds (s : State) (v : (List SwReq)) : (s.setSwq v).scheds = s.scheds := rfl
@[simp] theorem State.setSwq_heads (s : State) (v : (List SwReq)) : (s.setSwq v).heads = s.heads := rfl
@[simp] theorem State.setSwq_seqs (s : State) (v : (List SwReq)) : (s.setSwq v).seqs = s.seqs := rfl
@[simp] theorem State.setSwq_sync (s : State) (v : (List SwReq)) : (s.setSwq v).sync = s.sync := rfl
@[simp] theorem State.setSwq_gpio (s : State) (v : (List SwReq)) : (s.setSwq v).gpio = s.gpio := rfl
@[simp] theorem State.setSwq_ports (s : State) (v : (List SwReq)) : (s.setSwq v).ports = s.ports := rfl
@[simp] theorem State.setSwq_faces (s : State) (v : (List SwReq)) : (s.setSwq v).faces = s.faces := rfl
@[simp] theorem State.setSwq_fctxs (s : State) (v : (List SwReq)) : (s.setSwq v).fctxs = s.fctxs := rfl
@[simp] theorem State.setSwq_sctxs (s : State) (v : (List SwReq)) : (s.setSwq v).sctxs = s.sctxs := rfl
@[simp] theorem State.setSwq_seamLast (s : State) (v : (List SwReq)) : (s.setSwq v).seamLast = s.seamLast := rfl
@[simp] theorem State.setSwq_stocks (s : State) (v : (List SwReq)) : (s.setSwq v).stocks = s.stocks := rfl
@[simp] theorem State.setSwq_closings (s : State) (v : (List SwReq)) : (s.setSwq v).closings = s.closings := rfl
@[simp] theorem State.setSwq_riddle (s : State) (v : (List SwReq)) : (s.setSwq v).riddle = s.riddle := rfl
@[simp] theorem State.setSwq_kerfs (s : State) (v : (List SwReq)) : (s.setSwq v).kerfs = s.kerfs := rfl
@[simp] theorem State.setSwq_benches (s : State) (v : (List SwReq)) : (s.setSwq v).benches = s.benches := rfl
@[simp] theorem State.setSwq_cores (s : State) (v : (List SwReq)) : (s.setSwq v).cores = s.cores := rfl
@[simp] theorem State.setSwq_boxes (s : State) (v : (List SwReq)) : (s.setSwq v).boxes = s.boxes := rfl
@[simp] theorem State.setSwq_uarts (s : State) (v : (List SwReq)) : (s.setSwq v).uarts = s.uarts := rfl
@[simp] theorem State.setSwq_chans (s : State) (v : (List SwReq)) : (s.setSwq v).chans = s.chans := rfl
@[simp] theorem State.setSwq_fw (s : State) (v : (List SwReq)) : (s.setSwq v).fw = s.fw := rfl
@[simp] theorem State.setSwq_res (s : State) (v : (List SwReq)) : (s.setSwq v).res = s.res := rfl
@[simp] theorem State.setSwq_flash (s : State) (v : (List SwReq)) : (s.setSwq v).flash = s.flash := rfl
@[simp] theorem State.setSwq_spoil (s : State) (v : (List SwReq)) : (s.setSwq v).spoil = s.spoil := rfl
@[simp] theorem State.setSwq_pcie (s : State) (v : (List SwReq)) : (s.setSwq v).pcie = s.pcie := rfl
@[simp] theorem State.setSwq_jtag (s : State) (v : (List SwReq)) : (s.setSwq v).jtag = s.jtag := rfl
@[simp] theorem State.setSwq_cal (s : State) (v : (List SwReq)) : (s.setSwq v).cal = s.cal := rfl
@[simp] theorem State.setSwq_undef (s : State) (v : (List SwReq)) : (s.setSwq v).undef = s.undef := rfl
@[simp] theorem State.setSwq_swq (s : State) (v : (List SwReq)) : (s.setSwq v).swq = v := rfl
@[simp] theorem State.setReleased_pending (s : State) (v : (List OwnUnit)) : (s.setReleased v).pending = s.pending := rfl
@[simp] theorem State.setReleased_free (s : State) (v : (List OwnUnit)) : (s.setReleased v).free = s.free := rfl
@[simp] theorem State.setReleased_rd (s : State) (v : (List OwnUnit)) : (s.setReleased v).rd = s.rd := rfl
@[simp] theorem State.setReleased_time (s : State) (v : (List OwnUnit)) : (s.setReleased v).time = s.time := rfl
@[simp] theorem State.setReleased_tofs (s : State) (v : (List OwnUnit)) : (s.setReleased v).tofs = s.tofs := rfl
@[simp] theorem State.setReleased_pw (s : State) (v : (List OwnUnit)) : (s.setReleased v).pw = s.pw := rfl
@[simp] theorem State.setReleased_regs (s : State) (v : (List OwnUnit)) : (s.setReleased v).regs = s.regs := rfl
@[simp] theorem State.setReleased_act (s : State) (v : (List OwnUnit)) : (s.setReleased v).act = s.act := rfl
@[simp] theorem State.setReleased_latch (s : State) (v : (List OwnUnit)) : (s.setReleased v).latch = s.latch := rfl
@[simp] theorem State.setReleased_dram (s : State) (v : (List OwnUnit)) : (s.setReleased v).dram = s.dram := rfl
@[simp] theorem State.setReleased_hostMem (s : State) (v : (List OwnUnit)) : (s.setReleased v).hostMem = s.hostMem := rfl
@[simp] theorem State.setReleased_pool (s : State) (v : (List OwnUnit)) : (s.setReleased v).pool = s.pool := rfl
@[simp] theorem State.setReleased_encs (s : State) (v : (List OwnUnit)) : (s.setReleased v).encs = s.encs := rfl
@[simp] theorem State.setReleased_scheds (s : State) (v : (List OwnUnit)) : (s.setReleased v).scheds = s.scheds := rfl
@[simp] theorem State.setReleased_heads (s : State) (v : (List OwnUnit)) : (s.setReleased v).heads = s.heads := rfl
@[simp] theorem State.setReleased_seqs (s : State) (v : (List OwnUnit)) : (s.setReleased v).seqs = s.seqs := rfl
@[simp] theorem State.setReleased_sync (s : State) (v : (List OwnUnit)) : (s.setReleased v).sync = s.sync := rfl
@[simp] theorem State.setReleased_gpio (s : State) (v : (List OwnUnit)) : (s.setReleased v).gpio = s.gpio := rfl
@[simp] theorem State.setReleased_ports (s : State) (v : (List OwnUnit)) : (s.setReleased v).ports = s.ports := rfl
@[simp] theorem State.setReleased_faces (s : State) (v : (List OwnUnit)) : (s.setReleased v).faces = s.faces := rfl
@[simp] theorem State.setReleased_fctxs (s : State) (v : (List OwnUnit)) : (s.setReleased v).fctxs = s.fctxs := rfl
@[simp] theorem State.setReleased_sctxs (s : State) (v : (List OwnUnit)) : (s.setReleased v).sctxs = s.sctxs := rfl
@[simp] theorem State.setReleased_seamLast (s : State) (v : (List OwnUnit)) : (s.setReleased v).seamLast = s.seamLast := rfl
@[simp] theorem State.setReleased_stocks (s : State) (v : (List OwnUnit)) : (s.setReleased v).stocks = s.stocks := rfl
@[simp] theorem State.setReleased_closings (s : State) (v : (List OwnUnit)) : (s.setReleased v).closings = s.closings := rfl
@[simp] theorem State.setReleased_riddle (s : State) (v : (List OwnUnit)) : (s.setReleased v).riddle = s.riddle := rfl
@[simp] theorem State.setReleased_kerfs (s : State) (v : (List OwnUnit)) : (s.setReleased v).kerfs = s.kerfs := rfl
@[simp] theorem State.setReleased_benches (s : State) (v : (List OwnUnit)) : (s.setReleased v).benches = s.benches := rfl
@[simp] theorem State.setReleased_cores (s : State) (v : (List OwnUnit)) : (s.setReleased v).cores = s.cores := rfl
@[simp] theorem State.setReleased_boxes (s : State) (v : (List OwnUnit)) : (s.setReleased v).boxes = s.boxes := rfl
@[simp] theorem State.setReleased_swq (s : State) (v : (List OwnUnit)) : (s.setReleased v).swq = s.swq := rfl
@[simp] theorem State.setReleased_uarts (s : State) (v : (List OwnUnit)) : (s.setReleased v).uarts = s.uarts := rfl
@[simp] theorem State.setReleased_chans (s : State) (v : (List OwnUnit)) : (s.setReleased v).chans = s.chans := rfl
@[simp] theorem State.setReleased_fw (s : State) (v : (List OwnUnit)) : (s.setReleased v).fw = s.fw := rfl
@[simp] theorem State.setReleased_res (s : State) (v : (List OwnUnit)) : (s.setReleased v).res = s.res := rfl
@[simp] theorem State.setReleased_flash (s : State) (v : (List OwnUnit)) : (s.setReleased v).flash = s.flash := rfl
@[simp] theorem State.setReleased_spoil (s : State) (v : (List OwnUnit)) : (s.setReleased v).spoil = s.spoil := rfl
@[simp] theorem State.setReleased_pcie (s : State) (v : (List OwnUnit)) : (s.setReleased v).pcie = s.pcie := rfl
@[simp] theorem State.setReleased_jtag (s : State) (v : (List OwnUnit)) : (s.setReleased v).jtag = s.jtag := rfl
@[simp] theorem State.setReleased_cal (s : State) (v : (List OwnUnit)) : (s.setReleased v).cal = s.cal := rfl
@[simp] theorem State.setReleased_undef (s : State) (v : (List OwnUnit)) : (s.setReleased v).undef = s.undef := rfl
@[simp] theorem State.setReleased_released (s : State) (v : (List OwnUnit)) : (s.setReleased v).released = v := rfl
@[simp] theorem State.setPool_pending (s : State) (v : (List (Nat × Nat))) : (s.setPool v).pending = s.pending := rfl
@[simp] theorem State.setPool_free (s : State) (v : (List (Nat × Nat))) : (s.setPool v).free = s.free := rfl
@[simp] theorem State.setPool_rd (s : State) (v : (List (Nat × Nat))) : (s.setPool v).rd = s.rd := rfl
@[simp] theorem State.setPool_time (s : State) (v : (List (Nat × Nat))) : (s.setPool v).time = s.time := rfl
@[simp] theorem State.setPool_tofs (s : State) (v : (List (Nat × Nat))) : (s.setPool v).tofs = s.tofs := rfl
@[simp] theorem State.setPool_pw (s : State) (v : (List (Nat × Nat))) : (s.setPool v).pw = s.pw := rfl
@[simp] theorem State.setPool_regs (s : State) (v : (List (Nat × Nat))) : (s.setPool v).regs = s.regs := rfl
@[simp] theorem State.setPool_act (s : State) (v : (List (Nat × Nat))) : (s.setPool v).act = s.act := rfl
@[simp] theorem State.setPool_latch (s : State) (v : (List (Nat × Nat))) : (s.setPool v).latch = s.latch := rfl
@[simp] theorem State.setPool_released (s : State) (v : (List (Nat × Nat))) : (s.setPool v).released = s.released := rfl
@[simp] theorem State.setPool_dram (s : State) (v : (List (Nat × Nat))) : (s.setPool v).dram = s.dram := rfl
@[simp] theorem State.setPool_hostMem (s : State) (v : (List (Nat × Nat))) : (s.setPool v).hostMem = s.hostMem := rfl
@[simp] theorem State.setPool_encs (s : State) (v : (List (Nat × Nat))) : (s.setPool v).encs = s.encs := rfl
@[simp] theorem State.setPool_scheds (s : State) (v : (List (Nat × Nat))) : (s.setPool v).scheds = s.scheds := rfl
@[simp] theorem State.setPool_heads (s : State) (v : (List (Nat × Nat))) : (s.setPool v).heads = s.heads := rfl
@[simp] theorem State.setPool_seqs (s : State) (v : (List (Nat × Nat))) : (s.setPool v).seqs = s.seqs := rfl
@[simp] theorem State.setPool_sync (s : State) (v : (List (Nat × Nat))) : (s.setPool v).sync = s.sync := rfl
@[simp] theorem State.setPool_gpio (s : State) (v : (List (Nat × Nat))) : (s.setPool v).gpio = s.gpio := rfl
@[simp] theorem State.setPool_ports (s : State) (v : (List (Nat × Nat))) : (s.setPool v).ports = s.ports := rfl
@[simp] theorem State.setPool_faces (s : State) (v : (List (Nat × Nat))) : (s.setPool v).faces = s.faces := rfl
@[simp] theorem State.setPool_fctxs (s : State) (v : (List (Nat × Nat))) : (s.setPool v).fctxs = s.fctxs := rfl
@[simp] theorem State.setPool_sctxs (s : State) (v : (List (Nat × Nat))) : (s.setPool v).sctxs = s.sctxs := rfl
@[simp] theorem State.setPool_seamLast (s : State) (v : (List (Nat × Nat))) : (s.setPool v).seamLast = s.seamLast := rfl
@[simp] theorem State.setPool_stocks (s : State) (v : (List (Nat × Nat))) : (s.setPool v).stocks = s.stocks := rfl
@[simp] theorem State.setPool_closings (s : State) (v : (List (Nat × Nat))) : (s.setPool v).closings = s.closings := rfl
@[simp] theorem State.setPool_riddle (s : State) (v : (List (Nat × Nat))) : (s.setPool v).riddle = s.riddle := rfl
@[simp] theorem State.setPool_kerfs (s : State) (v : (List (Nat × Nat))) : (s.setPool v).kerfs = s.kerfs := rfl
@[simp] theorem State.setPool_benches (s : State) (v : (List (Nat × Nat))) : (s.setPool v).benches = s.benches := rfl
@[simp] theorem State.setPool_cores (s : State) (v : (List (Nat × Nat))) : (s.setPool v).cores = s.cores := rfl
@[simp] theorem State.setPool_boxes (s : State) (v : (List (Nat × Nat))) : (s.setPool v).boxes = s.boxes := rfl
@[simp] theorem State.setPool_swq (s : State) (v : (List (Nat × Nat))) : (s.setPool v).swq = s.swq := rfl
@[simp] theorem State.setPool_uarts (s : State) (v : (List (Nat × Nat))) : (s.setPool v).uarts = s.uarts := rfl
@[simp] theorem State.setPool_chans (s : State) (v : (List (Nat × Nat))) : (s.setPool v).chans = s.chans := rfl
@[simp] theorem State.setPool_fw (s : State) (v : (List (Nat × Nat))) : (s.setPool v).fw = s.fw := rfl
@[simp] theorem State.setPool_res (s : State) (v : (List (Nat × Nat))) : (s.setPool v).res = s.res := rfl
@[simp] theorem State.setPool_flash (s : State) (v : (List (Nat × Nat))) : (s.setPool v).flash = s.flash := rfl
@[simp] theorem State.setPool_spoil (s : State) (v : (List (Nat × Nat))) : (s.setPool v).spoil = s.spoil := rfl
@[simp] theorem State.setPool_pcie (s : State) (v : (List (Nat × Nat))) : (s.setPool v).pcie = s.pcie := rfl
@[simp] theorem State.setPool_jtag (s : State) (v : (List (Nat × Nat))) : (s.setPool v).jtag = s.jtag := rfl
@[simp] theorem State.setPool_cal (s : State) (v : (List (Nat × Nat))) : (s.setPool v).cal = s.cal := rfl
@[simp] theorem State.setPool_undef (s : State) (v : (List (Nat × Nat))) : (s.setPool v).undef = s.undef := rfl
@[simp] theorem State.setPool_pool (s : State) (v : (List (Nat × Nat))) : (s.setPool v).pool = v := rfl
@[simp] theorem State.setFree_pending (s : State) (v : Nat) : (s.setFree v).pending = s.pending := rfl
@[simp] theorem State.setFree_rd (s : State) (v : Nat) : (s.setFree v).rd = s.rd := rfl
@[simp] theorem State.setFree_time (s : State) (v : Nat) : (s.setFree v).time = s.time := rfl
@[simp] theorem State.setFree_tofs (s : State) (v : Nat) : (s.setFree v).tofs = s.tofs := rfl
@[simp] theorem State.setFree_pw (s : State) (v : Nat) : (s.setFree v).pw = s.pw := rfl
@[simp] theorem State.setFree_regs (s : State) (v : Nat) : (s.setFree v).regs = s.regs := rfl
@[simp] theorem State.setFree_act (s : State) (v : Nat) : (s.setFree v).act = s.act := rfl
@[simp] theorem State.setFree_latch (s : State) (v : Nat) : (s.setFree v).latch = s.latch := rfl
@[simp] theorem State.setFree_released (s : State) (v : Nat) : (s.setFree v).released = s.released := rfl
@[simp] theorem State.setFree_dram (s : State) (v : Nat) : (s.setFree v).dram = s.dram := rfl
@[simp] theorem State.setFree_hostMem (s : State) (v : Nat) : (s.setFree v).hostMem = s.hostMem := rfl
@[simp] theorem State.setFree_pool (s : State) (v : Nat) : (s.setFree v).pool = s.pool := rfl
@[simp] theorem State.setFree_encs (s : State) (v : Nat) : (s.setFree v).encs = s.encs := rfl
@[simp] theorem State.setFree_scheds (s : State) (v : Nat) : (s.setFree v).scheds = s.scheds := rfl
@[simp] theorem State.setFree_heads (s : State) (v : Nat) : (s.setFree v).heads = s.heads := rfl
@[simp] theorem State.setFree_seqs (s : State) (v : Nat) : (s.setFree v).seqs = s.seqs := rfl
@[simp] theorem State.setFree_sync (s : State) (v : Nat) : (s.setFree v).sync = s.sync := rfl
@[simp] theorem State.setFree_gpio (s : State) (v : Nat) : (s.setFree v).gpio = s.gpio := rfl
@[simp] theorem State.setFree_ports (s : State) (v : Nat) : (s.setFree v).ports = s.ports := rfl
@[simp] theorem State.setFree_faces (s : State) (v : Nat) : (s.setFree v).faces = s.faces := rfl
@[simp] theorem State.setFree_fctxs (s : State) (v : Nat) : (s.setFree v).fctxs = s.fctxs := rfl
@[simp] theorem State.setFree_sctxs (s : State) (v : Nat) : (s.setFree v).sctxs = s.sctxs := rfl
@[simp] theorem State.setFree_seamLast (s : State) (v : Nat) : (s.setFree v).seamLast = s.seamLast := rfl
@[simp] theorem State.setFree_stocks (s : State) (v : Nat) : (s.setFree v).stocks = s.stocks := rfl
@[simp] theorem State.setFree_closings (s : State) (v : Nat) : (s.setFree v).closings = s.closings := rfl
@[simp] theorem State.setFree_riddle (s : State) (v : Nat) : (s.setFree v).riddle = s.riddle := rfl
@[simp] theorem State.setFree_kerfs (s : State) (v : Nat) : (s.setFree v).kerfs = s.kerfs := rfl
@[simp] theorem State.setFree_benches (s : State) (v : Nat) : (s.setFree v).benches = s.benches := rfl
@[simp] theorem State.setFree_cores (s : State) (v : Nat) : (s.setFree v).cores = s.cores := rfl
@[simp] theorem State.setFree_boxes (s : State) (v : Nat) : (s.setFree v).boxes = s.boxes := rfl
@[simp] theorem State.setFree_swq (s : State) (v : Nat) : (s.setFree v).swq = s.swq := rfl
@[simp] theorem State.setFree_uarts (s : State) (v : Nat) : (s.setFree v).uarts = s.uarts := rfl
@[simp] theorem State.setFree_chans (s : State) (v : Nat) : (s.setFree v).chans = s.chans := rfl
@[simp] theorem State.setFree_fw (s : State) (v : Nat) : (s.setFree v).fw = s.fw := rfl
@[simp] theorem State.setFree_res (s : State) (v : Nat) : (s.setFree v).res = s.res := rfl
@[simp] theorem State.setFree_flash (s : State) (v : Nat) : (s.setFree v).flash = s.flash := rfl
@[simp] theorem State.setFree_spoil (s : State) (v : Nat) : (s.setFree v).spoil = s.spoil := rfl
@[simp] theorem State.setFree_pcie (s : State) (v : Nat) : (s.setFree v).pcie = s.pcie := rfl
@[simp] theorem State.setFree_jtag (s : State) (v : Nat) : (s.setFree v).jtag = s.jtag := rfl
@[simp] theorem State.setFree_cal (s : State) (v : Nat) : (s.setFree v).cal = s.cal := rfl
@[simp] theorem State.setFree_undef (s : State) (v : Nat) : (s.setFree v).undef = s.undef := rfl
@[simp] theorem State.setFree_free (s : State) (v : Nat) : (s.setFree v).free = v := rfl
@[simp] theorem State.setUndef_pending (s : State) (v : (List Scope)) : (s.setUndef v).pending = s.pending := rfl
@[simp] theorem State.setUndef_free (s : State) (v : (List Scope)) : (s.setUndef v).free = s.free := rfl
@[simp] theorem State.setUndef_rd (s : State) (v : (List Scope)) : (s.setUndef v).rd = s.rd := rfl
@[simp] theorem State.setUndef_time (s : State) (v : (List Scope)) : (s.setUndef v).time = s.time := rfl
@[simp] theorem State.setUndef_tofs (s : State) (v : (List Scope)) : (s.setUndef v).tofs = s.tofs := rfl
@[simp] theorem State.setUndef_pw (s : State) (v : (List Scope)) : (s.setUndef v).pw = s.pw := rfl
@[simp] theorem State.setUndef_regs (s : State) (v : (List Scope)) : (s.setUndef v).regs = s.regs := rfl
@[simp] theorem State.setUndef_act (s : State) (v : (List Scope)) : (s.setUndef v).act = s.act := rfl
@[simp] theorem State.setUndef_latch (s : State) (v : (List Scope)) : (s.setUndef v).latch = s.latch := rfl
@[simp] theorem State.setUndef_released (s : State) (v : (List Scope)) : (s.setUndef v).released = s.released := rfl
@[simp] theorem State.setUndef_dram (s : State) (v : (List Scope)) : (s.setUndef v).dram = s.dram := rfl
@[simp] theorem State.setUndef_hostMem (s : State) (v : (List Scope)) : (s.setUndef v).hostMem = s.hostMem := rfl
@[simp] theorem State.setUndef_pool (s : State) (v : (List Scope)) : (s.setUndef v).pool = s.pool := rfl
@[simp] theorem State.setUndef_encs (s : State) (v : (List Scope)) : (s.setUndef v).encs = s.encs := rfl
@[simp] theorem State.setUndef_scheds (s : State) (v : (List Scope)) : (s.setUndef v).scheds = s.scheds := rfl
@[simp] theorem State.setUndef_heads (s : State) (v : (List Scope)) : (s.setUndef v).heads = s.heads := rfl
@[simp] theorem State.setUndef_seqs (s : State) (v : (List Scope)) : (s.setUndef v).seqs = s.seqs := rfl
@[simp] theorem State.setUndef_sync (s : State) (v : (List Scope)) : (s.setUndef v).sync = s.sync := rfl
@[simp] theorem State.setUndef_gpio (s : State) (v : (List Scope)) : (s.setUndef v).gpio = s.gpio := rfl
@[simp] theorem State.setUndef_ports (s : State) (v : (List Scope)) : (s.setUndef v).ports = s.ports := rfl
@[simp] theorem State.setUndef_faces (s : State) (v : (List Scope)) : (s.setUndef v).faces = s.faces := rfl
@[simp] theorem State.setUndef_fctxs (s : State) (v : (List Scope)) : (s.setUndef v).fctxs = s.fctxs := rfl
@[simp] theorem State.setUndef_sctxs (s : State) (v : (List Scope)) : (s.setUndef v).sctxs = s.sctxs := rfl
@[simp] theorem State.setUndef_seamLast (s : State) (v : (List Scope)) : (s.setUndef v).seamLast = s.seamLast := rfl
@[simp] theorem State.setUndef_stocks (s : State) (v : (List Scope)) : (s.setUndef v).stocks = s.stocks := rfl
@[simp] theorem State.setUndef_closings (s : State) (v : (List Scope)) : (s.setUndef v).closings = s.closings := rfl
@[simp] theorem State.setUndef_riddle (s : State) (v : (List Scope)) : (s.setUndef v).riddle = s.riddle := rfl
@[simp] theorem State.setUndef_kerfs (s : State) (v : (List Scope)) : (s.setUndef v).kerfs = s.kerfs := rfl
@[simp] theorem State.setUndef_benches (s : State) (v : (List Scope)) : (s.setUndef v).benches = s.benches := rfl
@[simp] theorem State.setUndef_cores (s : State) (v : (List Scope)) : (s.setUndef v).cores = s.cores := rfl
@[simp] theorem State.setUndef_boxes (s : State) (v : (List Scope)) : (s.setUndef v).boxes = s.boxes := rfl
@[simp] theorem State.setUndef_swq (s : State) (v : (List Scope)) : (s.setUndef v).swq = s.swq := rfl
@[simp] theorem State.setUndef_uarts (s : State) (v : (List Scope)) : (s.setUndef v).uarts = s.uarts := rfl
@[simp] theorem State.setUndef_chans (s : State) (v : (List Scope)) : (s.setUndef v).chans = s.chans := rfl
@[simp] theorem State.setUndef_fw (s : State) (v : (List Scope)) : (s.setUndef v).fw = s.fw := rfl
@[simp] theorem State.setUndef_res (s : State) (v : (List Scope)) : (s.setUndef v).res = s.res := rfl
@[simp] theorem State.setUndef_flash (s : State) (v : (List Scope)) : (s.setUndef v).flash = s.flash := rfl
@[simp] theorem State.setUndef_spoil (s : State) (v : (List Scope)) : (s.setUndef v).spoil = s.spoil := rfl
@[simp] theorem State.setUndef_pcie (s : State) (v : (List Scope)) : (s.setUndef v).pcie = s.pcie := rfl
@[simp] theorem State.setUndef_jtag (s : State) (v : (List Scope)) : (s.setUndef v).jtag = s.jtag := rfl
@[simp] theorem State.setUndef_cal (s : State) (v : (List Scope)) : (s.setUndef v).cal = s.cal := rfl
@[simp] theorem State.setUndef_undef (s : State) (v : (List Scope)) : (s.setUndef v).undef = v := rfl
@[simp] theorem State.setPending_free (s : State) (v : (List Instr)) : (s.setPending v).free = s.free := rfl
@[simp] theorem State.setPending_rd (s : State) (v : (List Instr)) : (s.setPending v).rd = s.rd := rfl
@[simp] theorem State.setPending_time (s : State) (v : (List Instr)) : (s.setPending v).time = s.time := rfl
@[simp] theorem State.setPending_tofs (s : State) (v : (List Instr)) : (s.setPending v).tofs = s.tofs := rfl
@[simp] theorem State.setPending_pw (s : State) (v : (List Instr)) : (s.setPending v).pw = s.pw := rfl
@[simp] theorem State.setPending_regs (s : State) (v : (List Instr)) : (s.setPending v).regs = s.regs := rfl
@[simp] theorem State.setPending_act (s : State) (v : (List Instr)) : (s.setPending v).act = s.act := rfl
@[simp] theorem State.setPending_latch (s : State) (v : (List Instr)) : (s.setPending v).latch = s.latch := rfl
@[simp] theorem State.setPending_released (s : State) (v : (List Instr)) : (s.setPending v).released = s.released := rfl
@[simp] theorem State.setPending_dram (s : State) (v : (List Instr)) : (s.setPending v).dram = s.dram := rfl
@[simp] theorem State.setPending_hostMem (s : State) (v : (List Instr)) : (s.setPending v).hostMem = s.hostMem := rfl
@[simp] theorem State.setPending_pool (s : State) (v : (List Instr)) : (s.setPending v).pool = s.pool := rfl
@[simp] theorem State.setPending_encs (s : State) (v : (List Instr)) : (s.setPending v).encs = s.encs := rfl
@[simp] theorem State.setPending_scheds (s : State) (v : (List Instr)) : (s.setPending v).scheds = s.scheds := rfl
@[simp] theorem State.setPending_heads (s : State) (v : (List Instr)) : (s.setPending v).heads = s.heads := rfl
@[simp] theorem State.setPending_seqs (s : State) (v : (List Instr)) : (s.setPending v).seqs = s.seqs := rfl
@[simp] theorem State.setPending_sync (s : State) (v : (List Instr)) : (s.setPending v).sync = s.sync := rfl
@[simp] theorem State.setPending_gpio (s : State) (v : (List Instr)) : (s.setPending v).gpio = s.gpio := rfl
@[simp] theorem State.setPending_ports (s : State) (v : (List Instr)) : (s.setPending v).ports = s.ports := rfl
@[simp] theorem State.setPending_faces (s : State) (v : (List Instr)) : (s.setPending v).faces = s.faces := rfl
@[simp] theorem State.setPending_fctxs (s : State) (v : (List Instr)) : (s.setPending v).fctxs = s.fctxs := rfl
@[simp] theorem State.setPending_sctxs (s : State) (v : (List Instr)) : (s.setPending v).sctxs = s.sctxs := rfl
@[simp] theorem State.setPending_seamLast (s : State) (v : (List Instr)) : (s.setPending v).seamLast = s.seamLast := rfl
@[simp] theorem State.setPending_stocks (s : State) (v : (List Instr)) : (s.setPending v).stocks = s.stocks := rfl
@[simp] theorem State.setPending_closings (s : State) (v : (List Instr)) : (s.setPending v).closings = s.closings := rfl
@[simp] theorem State.setPending_riddle (s : State) (v : (List Instr)) : (s.setPending v).riddle = s.riddle := rfl
@[simp] theorem State.setPending_kerfs (s : State) (v : (List Instr)) : (s.setPending v).kerfs = s.kerfs := rfl
@[simp] theorem State.setPending_benches (s : State) (v : (List Instr)) : (s.setPending v).benches = s.benches := rfl
@[simp] theorem State.setPending_cores (s : State) (v : (List Instr)) : (s.setPending v).cores = s.cores := rfl
@[simp] theorem State.setPending_boxes (s : State) (v : (List Instr)) : (s.setPending v).boxes = s.boxes := rfl
@[simp] theorem State.setPending_swq (s : State) (v : (List Instr)) : (s.setPending v).swq = s.swq := rfl
@[simp] theorem State.setPending_uarts (s : State) (v : (List Instr)) : (s.setPending v).uarts = s.uarts := rfl
@[simp] theorem State.setPending_chans (s : State) (v : (List Instr)) : (s.setPending v).chans = s.chans := rfl
@[simp] theorem State.setPending_fw (s : State) (v : (List Instr)) : (s.setPending v).fw = s.fw := rfl
@[simp] theorem State.setPending_res (s : State) (v : (List Instr)) : (s.setPending v).res = s.res := rfl
@[simp] theorem State.setPending_flash (s : State) (v : (List Instr)) : (s.setPending v).flash = s.flash := rfl
@[simp] theorem State.setPending_spoil (s : State) (v : (List Instr)) : (s.setPending v).spoil = s.spoil := rfl
@[simp] theorem State.setPending_pcie (s : State) (v : (List Instr)) : (s.setPending v).pcie = s.pcie := rfl
@[simp] theorem State.setPending_jtag (s : State) (v : (List Instr)) : (s.setPending v).jtag = s.jtag := rfl
@[simp] theorem State.setPending_cal (s : State) (v : (List Instr)) : (s.setPending v).cal = s.cal := rfl
@[simp] theorem State.setPending_undef (s : State) (v : (List Instr)) : (s.setPending v).undef = s.undef := rfl
@[simp] theorem State.setPending_pending (s : State) (v : (List Instr)) : (s.setPending v).pending = v := rfl

/-- Reading a key after writing one: the value written at that key, the old value elsewhere. -/
theorem State.reg_setReg (s : State) (k j : Nat) (v : Word) : (s.setReg k v).reg j = if j = k then v else s.reg j :=
  SMap.get_set _ _ _ _ _
@[simp] theorem State.reg_setReg_same (s : State) (k : Nat) (v : Word) : (s.setReg k v).reg k = v := by
  rw [State.reg_setReg, if_pos rfl]
@[simp] theorem State.eff_setReg (s : State) (k j : Nat) (v : Word) : (s.setReg k v).eff j = s.eff j := rfl
@[simp] theorem State.latched_setReg (s : State) (k j : Nat) (v : Word) : (s.setReg k v).latched j = s.latched j := rfl
@[simp] theorem State.rdVal_setReg (s : State) (k j : Nat) (v : Word) : (s.setReg k v).rdVal j = s.rdVal j := rfl
@[simp] theorem State.dramByte_setReg (s : State) (k j : Nat) (v : Word) : (s.setReg k v).dramByte j = s.dramByte j := rfl
@[simp] theorem State.hostByte_setReg (s : State) (k j : Nat) (v : Word) : (s.setReg k v).hostByte j = s.hostByte j := rfl
@[simp] theorem State.enc_setReg (s : State) (k j : Nat) (v : Word) : (s.setReg k v).enc j = s.enc j := rfl
@[simp] theorem State.sched_setReg (s : State) (k j : Nat) (v : Word) : (s.setReg k v).sched j = s.sched j := rfl
@[simp] theorem State.head_setReg (s : State) (k j : Nat) (v : Word) : (s.setReg k v).head j = s.head j := rfl
@[simp] theorem State.seq_setReg (s : State) (k j : Nat) (v : Word) : (s.setReg k v).seq j = s.seq j := rfl
@[simp] theorem State.port_setReg (s : State) (k j : Nat) (v : Word) : (s.setReg k v).port j = s.port j := rfl
@[simp] theorem State.face_setReg (s : State) (k j : Nat) (v : Word) : (s.setReg k v).face j = s.face j := rfl
@[simp] theorem State.fctx_setReg (s : State) (k j : Nat) (v : Word) : (s.setReg k v).fctx j = s.fctx j := rfl
@[simp] theorem State.sctx_setReg (s : State) (k j : Nat) (v : Word) : (s.setReg k v).sctx j = s.sctx j := rfl
@[simp] theorem State.lastCand_setReg (s : State) (k j : Nat) (v : Word) : (s.setReg k v).lastCand j = s.lastCand j := rfl
@[simp] theorem State.stock_setReg (s : State) (k j : Nat) (v : Word) : (s.setReg k v).stock j = s.stock j := rfl
@[simp] theorem State.closing_setReg (s : State) (k j : Nat) (v : Word) : (s.setReg k v).closing j = s.closing j := rfl
@[simp] theorem State.kerf_setReg (s : State) (k j : Nat) (v : Word) : (s.setReg k v).kerf j = s.kerf j := rfl
@[simp] theorem State.bench_setReg (s : State) (k j : Nat) (v : Word) : (s.setReg k v).bench j = s.bench j := rfl
@[simp] theorem State.core_setReg (s : State) (k j : Nat) (v : Word) : (s.setReg k v).core j = s.core j := rfl
@[simp] theorem State.box_setReg (s : State) (k j : Nat) (v : Word) : (s.setReg k v).box j = s.box j := rfl
@[simp] theorem State.uart_setReg (s : State) (k j : Nat) (v : Word) : (s.setReg k v).uart j = s.uart j := rfl
@[simp] theorem State.chan_setReg (s : State) (k j : Nat) (v : Word) : (s.setReg k v).chan j = s.chan j := rfl
/-- Reading a key after writing one: the value written at that key, the old value elsewhere. -/
theorem State.eff_setEff (s : State) (k j : Nat) (v : Word) : (s.setEff k v).eff j = if j = k then v else s.eff j :=
  SMap.get_set _ _ _ _ _
@[simp] theorem State.eff_setEff_same (s : State) (k : Nat) (v : Word) : (s.setEff k v).eff k = v := by
  rw [State.eff_setEff, if_pos rfl]
@[simp] theorem State.reg_setEff (s : State) (k j : Nat) (v : Word) : (s.setEff k v).reg j = s.reg j := rfl
@[simp] theorem State.latched_setEff (s : State) (k j : Nat) (v : Word) : (s.setEff k v).latched j = s.latched j := rfl
@[simp] theorem State.rdVal_setEff (s : State) (k j : Nat) (v : Word) : (s.setEff k v).rdVal j = s.rdVal j := rfl
@[simp] theorem State.dramByte_setEff (s : State) (k j : Nat) (v : Word) : (s.setEff k v).dramByte j = s.dramByte j := rfl
@[simp] theorem State.hostByte_setEff (s : State) (k j : Nat) (v : Word) : (s.setEff k v).hostByte j = s.hostByte j := rfl
@[simp] theorem State.enc_setEff (s : State) (k j : Nat) (v : Word) : (s.setEff k v).enc j = s.enc j := rfl
@[simp] theorem State.sched_setEff (s : State) (k j : Nat) (v : Word) : (s.setEff k v).sched j = s.sched j := rfl
@[simp] theorem State.head_setEff (s : State) (k j : Nat) (v : Word) : (s.setEff k v).head j = s.head j := rfl
@[simp] theorem State.seq_setEff (s : State) (k j : Nat) (v : Word) : (s.setEff k v).seq j = s.seq j := rfl
@[simp] theorem State.port_setEff (s : State) (k j : Nat) (v : Word) : (s.setEff k v).port j = s.port j := rfl
@[simp] theorem State.face_setEff (s : State) (k j : Nat) (v : Word) : (s.setEff k v).face j = s.face j := rfl
@[simp] theorem State.fctx_setEff (s : State) (k j : Nat) (v : Word) : (s.setEff k v).fctx j = s.fctx j := rfl
@[simp] theorem State.sctx_setEff (s : State) (k j : Nat) (v : Word) : (s.setEff k v).sctx j = s.sctx j := rfl
@[simp] theorem State.lastCand_setEff (s : State) (k j : Nat) (v : Word) : (s.setEff k v).lastCand j = s.lastCand j := rfl
@[simp] theorem State.stock_setEff (s : State) (k j : Nat) (v : Word) : (s.setEff k v).stock j = s.stock j := rfl
@[simp] theorem State.closing_setEff (s : State) (k j : Nat) (v : Word) : (s.setEff k v).closing j = s.closing j := rfl
@[simp] theorem State.kerf_setEff (s : State) (k j : Nat) (v : Word) : (s.setEff k v).kerf j = s.kerf j := rfl
@[simp] theorem State.bench_setEff (s : State) (k j : Nat) (v : Word) : (s.setEff k v).bench j = s.bench j := rfl
@[simp] theorem State.core_setEff (s : State) (k j : Nat) (v : Word) : (s.setEff k v).core j = s.core j := rfl
@[simp] theorem State.box_setEff (s : State) (k j : Nat) (v : Word) : (s.setEff k v).box j = s.box j := rfl
@[simp] theorem State.uart_setEff (s : State) (k j : Nat) (v : Word) : (s.setEff k v).uart j = s.uart j := rfl
@[simp] theorem State.chan_setEff (s : State) (k j : Nat) (v : Word) : (s.setEff k v).chan j = s.chan j := rfl
/-- Reading a key after writing one: the value written at that key, the old value elsewhere. -/
theorem State.latched_setLatch (s : State) (k j : Nat) (v : Word) : (s.setLatch k v).latched j = if j = k then v else s.latched j :=
  SMap.get_set _ _ _ _ _
@[simp] theorem State.latched_setLatch_same (s : State) (k : Nat) (v : Word) : (s.setLatch k v).latched k = v := by
  rw [State.latched_setLatch, if_pos rfl]
@[simp] theorem State.reg_setLatch (s : State) (k j : Nat) (v : Word) : (s.setLatch k v).reg j = s.reg j := rfl
@[simp] theorem State.eff_setLatch (s : State) (k j : Nat) (v : Word) : (s.setLatch k v).eff j = s.eff j := rfl
@[simp] theorem State.rdVal_setLatch (s : State) (k j : Nat) (v : Word) : (s.setLatch k v).rdVal j = s.rdVal j := rfl
@[simp] theorem State.dramByte_setLatch (s : State) (k j : Nat) (v : Word) : (s.setLatch k v).dramByte j = s.dramByte j := rfl
@[simp] theorem State.hostByte_setLatch (s : State) (k j : Nat) (v : Word) : (s.setLatch k v).hostByte j = s.hostByte j := rfl
@[simp] theorem State.enc_setLatch (s : State) (k j : Nat) (v : Word) : (s.setLatch k v).enc j = s.enc j := rfl
@[simp] theorem State.sched_setLatch (s : State) (k j : Nat) (v : Word) : (s.setLatch k v).sched j = s.sched j := rfl
@[simp] theorem State.head_setLatch (s : State) (k j : Nat) (v : Word) : (s.setLatch k v).head j = s.head j := rfl
@[simp] theorem State.seq_setLatch (s : State) (k j : Nat) (v : Word) : (s.setLatch k v).seq j = s.seq j := rfl
@[simp] theorem State.port_setLatch (s : State) (k j : Nat) (v : Word) : (s.setLatch k v).port j = s.port j := rfl
@[simp] theorem State.face_setLatch (s : State) (k j : Nat) (v : Word) : (s.setLatch k v).face j = s.face j := rfl
@[simp] theorem State.fctx_setLatch (s : State) (k j : Nat) (v : Word) : (s.setLatch k v).fctx j = s.fctx j := rfl
@[simp] theorem State.sctx_setLatch (s : State) (k j : Nat) (v : Word) : (s.setLatch k v).sctx j = s.sctx j := rfl
@[simp] theorem State.lastCand_setLatch (s : State) (k j : Nat) (v : Word) : (s.setLatch k v).lastCand j = s.lastCand j := rfl
@[simp] theorem State.stock_setLatch (s : State) (k j : Nat) (v : Word) : (s.setLatch k v).stock j = s.stock j := rfl
@[simp] theorem State.closing_setLatch (s : State) (k j : Nat) (v : Word) : (s.setLatch k v).closing j = s.closing j := rfl
@[simp] theorem State.kerf_setLatch (s : State) (k j : Nat) (v : Word) : (s.setLatch k v).kerf j = s.kerf j := rfl
@[simp] theorem State.bench_setLatch (s : State) (k j : Nat) (v : Word) : (s.setLatch k v).bench j = s.bench j := rfl
@[simp] theorem State.core_setLatch (s : State) (k j : Nat) (v : Word) : (s.setLatch k v).core j = s.core j := rfl
@[simp] theorem State.box_setLatch (s : State) (k j : Nat) (v : Word) : (s.setLatch k v).box j = s.box j := rfl
@[simp] theorem State.uart_setLatch (s : State) (k j : Nat) (v : Word) : (s.setLatch k v).uart j = s.uart j := rfl
@[simp] theorem State.chan_setLatch (s : State) (k j : Nat) (v : Word) : (s.setLatch k v).chan j = s.chan j := rfl
/-- Reading a key after writing one: the value written at that key, the old value elsewhere. -/
theorem State.rdVal_setRd (s : State) (k j : Nat) (v : (BitVec 32)) : (s.setRd k v).rdVal j = if j = k then v else s.rdVal j :=
  SMap.get_set _ _ _ _ _
@[simp] theorem State.rdVal_setRd_same (s : State) (k : Nat) (v : (BitVec 32)) : (s.setRd k v).rdVal k = v := by
  rw [State.rdVal_setRd, if_pos rfl]
@[simp] theorem State.reg_setRd (s : State) (k j : Nat) (v : (BitVec 32)) : (s.setRd k v).reg j = s.reg j := rfl
@[simp] theorem State.eff_setRd (s : State) (k j : Nat) (v : (BitVec 32)) : (s.setRd k v).eff j = s.eff j := rfl
@[simp] theorem State.latched_setRd (s : State) (k j : Nat) (v : (BitVec 32)) : (s.setRd k v).latched j = s.latched j := rfl
@[simp] theorem State.dramByte_setRd (s : State) (k j : Nat) (v : (BitVec 32)) : (s.setRd k v).dramByte j = s.dramByte j := rfl
@[simp] theorem State.hostByte_setRd (s : State) (k j : Nat) (v : (BitVec 32)) : (s.setRd k v).hostByte j = s.hostByte j := rfl
@[simp] theorem State.enc_setRd (s : State) (k j : Nat) (v : (BitVec 32)) : (s.setRd k v).enc j = s.enc j := rfl
@[simp] theorem State.sched_setRd (s : State) (k j : Nat) (v : (BitVec 32)) : (s.setRd k v).sched j = s.sched j := rfl
@[simp] theorem State.head_setRd (s : State) (k j : Nat) (v : (BitVec 32)) : (s.setRd k v).head j = s.head j := rfl
@[simp] theorem State.seq_setRd (s : State) (k j : Nat) (v : (BitVec 32)) : (s.setRd k v).seq j = s.seq j := rfl
@[simp] theorem State.port_setRd (s : State) (k j : Nat) (v : (BitVec 32)) : (s.setRd k v).port j = s.port j := rfl
@[simp] theorem State.face_setRd (s : State) (k j : Nat) (v : (BitVec 32)) : (s.setRd k v).face j = s.face j := rfl
@[simp] theorem State.fctx_setRd (s : State) (k j : Nat) (v : (BitVec 32)) : (s.setRd k v).fctx j = s.fctx j := rfl
@[simp] theorem State.sctx_setRd (s : State) (k j : Nat) (v : (BitVec 32)) : (s.setRd k v).sctx j = s.sctx j := rfl
@[simp] theorem State.lastCand_setRd (s : State) (k j : Nat) (v : (BitVec 32)) : (s.setRd k v).lastCand j = s.lastCand j := rfl
@[simp] theorem State.stock_setRd (s : State) (k j : Nat) (v : (BitVec 32)) : (s.setRd k v).stock j = s.stock j := rfl
@[simp] theorem State.closing_setRd (s : State) (k j : Nat) (v : (BitVec 32)) : (s.setRd k v).closing j = s.closing j := rfl
@[simp] theorem State.kerf_setRd (s : State) (k j : Nat) (v : (BitVec 32)) : (s.setRd k v).kerf j = s.kerf j := rfl
@[simp] theorem State.bench_setRd (s : State) (k j : Nat) (v : (BitVec 32)) : (s.setRd k v).bench j = s.bench j := rfl
@[simp] theorem State.core_setRd (s : State) (k j : Nat) (v : (BitVec 32)) : (s.setRd k v).core j = s.core j := rfl
@[simp] theorem State.box_setRd (s : State) (k j : Nat) (v : (BitVec 32)) : (s.setRd k v).box j = s.box j := rfl
@[simp] theorem State.uart_setRd (s : State) (k j : Nat) (v : (BitVec 32)) : (s.setRd k v).uart j = s.uart j := rfl
@[simp] theorem State.chan_setRd (s : State) (k j : Nat) (v : (BitVec 32)) : (s.setRd k v).chan j = s.chan j := rfl
/-- Reading a key after writing one: the value written at that key, the old value elsewhere. -/
theorem State.dramByte_setDramByte (s : State) (k j : Nat) (v : Byte) : (s.setDramByte k v).dramByte j = if j = k then v else s.dramByte j :=
  SMap.get_set _ _ _ _ _
@[simp] theorem State.dramByte_setDramByte_same (s : State) (k : Nat) (v : Byte) : (s.setDramByte k v).dramByte k = v := by
  rw [State.dramByte_setDramByte, if_pos rfl]
@[simp] theorem State.reg_setDramByte (s : State) (k j : Nat) (v : Byte) : (s.setDramByte k v).reg j = s.reg j := rfl
@[simp] theorem State.eff_setDramByte (s : State) (k j : Nat) (v : Byte) : (s.setDramByte k v).eff j = s.eff j := rfl
@[simp] theorem State.latched_setDramByte (s : State) (k j : Nat) (v : Byte) : (s.setDramByte k v).latched j = s.latched j := rfl
@[simp] theorem State.rdVal_setDramByte (s : State) (k j : Nat) (v : Byte) : (s.setDramByte k v).rdVal j = s.rdVal j := rfl
@[simp] theorem State.hostByte_setDramByte (s : State) (k j : Nat) (v : Byte) : (s.setDramByte k v).hostByte j = s.hostByte j := rfl
@[simp] theorem State.enc_setDramByte (s : State) (k j : Nat) (v : Byte) : (s.setDramByte k v).enc j = s.enc j := rfl
@[simp] theorem State.sched_setDramByte (s : State) (k j : Nat) (v : Byte) : (s.setDramByte k v).sched j = s.sched j := rfl
@[simp] theorem State.head_setDramByte (s : State) (k j : Nat) (v : Byte) : (s.setDramByte k v).head j = s.head j := rfl
@[simp] theorem State.seq_setDramByte (s : State) (k j : Nat) (v : Byte) : (s.setDramByte k v).seq j = s.seq j := rfl
@[simp] theorem State.port_setDramByte (s : State) (k j : Nat) (v : Byte) : (s.setDramByte k v).port j = s.port j := rfl
@[simp] theorem State.face_setDramByte (s : State) (k j : Nat) (v : Byte) : (s.setDramByte k v).face j = s.face j := rfl
@[simp] theorem State.fctx_setDramByte (s : State) (k j : Nat) (v : Byte) : (s.setDramByte k v).fctx j = s.fctx j := rfl
@[simp] theorem State.sctx_setDramByte (s : State) (k j : Nat) (v : Byte) : (s.setDramByte k v).sctx j = s.sctx j := rfl
@[simp] theorem State.lastCand_setDramByte (s : State) (k j : Nat) (v : Byte) : (s.setDramByte k v).lastCand j = s.lastCand j := rfl
@[simp] theorem State.stock_setDramByte (s : State) (k j : Nat) (v : Byte) : (s.setDramByte k v).stock j = s.stock j := rfl
@[simp] theorem State.closing_setDramByte (s : State) (k j : Nat) (v : Byte) : (s.setDramByte k v).closing j = s.closing j := rfl
@[simp] theorem State.kerf_setDramByte (s : State) (k j : Nat) (v : Byte) : (s.setDramByte k v).kerf j = s.kerf j := rfl
@[simp] theorem State.bench_setDramByte (s : State) (k j : Nat) (v : Byte) : (s.setDramByte k v).bench j = s.bench j := rfl
@[simp] theorem State.core_setDramByte (s : State) (k j : Nat) (v : Byte) : (s.setDramByte k v).core j = s.core j := rfl
@[simp] theorem State.box_setDramByte (s : State) (k j : Nat) (v : Byte) : (s.setDramByte k v).box j = s.box j := rfl
@[simp] theorem State.uart_setDramByte (s : State) (k j : Nat) (v : Byte) : (s.setDramByte k v).uart j = s.uart j := rfl
@[simp] theorem State.chan_setDramByte (s : State) (k j : Nat) (v : Byte) : (s.setDramByte k v).chan j = s.chan j := rfl
/-- Reading a key after writing one: the value written at that key, the old value elsewhere. -/
theorem State.hostByte_setHostByte (s : State) (k j : Nat) (v : Byte) : (s.setHostByte k v).hostByte j = if j = k then v else s.hostByte j :=
  SMap.get_set _ _ _ _ _
@[simp] theorem State.hostByte_setHostByte_same (s : State) (k : Nat) (v : Byte) : (s.setHostByte k v).hostByte k = v := by
  rw [State.hostByte_setHostByte, if_pos rfl]
@[simp] theorem State.reg_setHostByte (s : State) (k j : Nat) (v : Byte) : (s.setHostByte k v).reg j = s.reg j := rfl
@[simp] theorem State.eff_setHostByte (s : State) (k j : Nat) (v : Byte) : (s.setHostByte k v).eff j = s.eff j := rfl
@[simp] theorem State.latched_setHostByte (s : State) (k j : Nat) (v : Byte) : (s.setHostByte k v).latched j = s.latched j := rfl
@[simp] theorem State.rdVal_setHostByte (s : State) (k j : Nat) (v : Byte) : (s.setHostByte k v).rdVal j = s.rdVal j := rfl
@[simp] theorem State.dramByte_setHostByte (s : State) (k j : Nat) (v : Byte) : (s.setHostByte k v).dramByte j = s.dramByte j := rfl
@[simp] theorem State.enc_setHostByte (s : State) (k j : Nat) (v : Byte) : (s.setHostByte k v).enc j = s.enc j := rfl
@[simp] theorem State.sched_setHostByte (s : State) (k j : Nat) (v : Byte) : (s.setHostByte k v).sched j = s.sched j := rfl
@[simp] theorem State.head_setHostByte (s : State) (k j : Nat) (v : Byte) : (s.setHostByte k v).head j = s.head j := rfl
@[simp] theorem State.seq_setHostByte (s : State) (k j : Nat) (v : Byte) : (s.setHostByte k v).seq j = s.seq j := rfl
@[simp] theorem State.port_setHostByte (s : State) (k j : Nat) (v : Byte) : (s.setHostByte k v).port j = s.port j := rfl
@[simp] theorem State.face_setHostByte (s : State) (k j : Nat) (v : Byte) : (s.setHostByte k v).face j = s.face j := rfl
@[simp] theorem State.fctx_setHostByte (s : State) (k j : Nat) (v : Byte) : (s.setHostByte k v).fctx j = s.fctx j := rfl
@[simp] theorem State.sctx_setHostByte (s : State) (k j : Nat) (v : Byte) : (s.setHostByte k v).sctx j = s.sctx j := rfl
@[simp] theorem State.lastCand_setHostByte (s : State) (k j : Nat) (v : Byte) : (s.setHostByte k v).lastCand j = s.lastCand j := rfl
@[simp] theorem State.stock_setHostByte (s : State) (k j : Nat) (v : Byte) : (s.setHostByte k v).stock j = s.stock j := rfl
@[simp] theorem State.closing_setHostByte (s : State) (k j : Nat) (v : Byte) : (s.setHostByte k v).closing j = s.closing j := rfl
@[simp] theorem State.kerf_setHostByte (s : State) (k j : Nat) (v : Byte) : (s.setHostByte k v).kerf j = s.kerf j := rfl
@[simp] theorem State.bench_setHostByte (s : State) (k j : Nat) (v : Byte) : (s.setHostByte k v).bench j = s.bench j := rfl
@[simp] theorem State.core_setHostByte (s : State) (k j : Nat) (v : Byte) : (s.setHostByte k v).core j = s.core j := rfl
@[simp] theorem State.box_setHostByte (s : State) (k j : Nat) (v : Byte) : (s.setHostByte k v).box j = s.box j := rfl
@[simp] theorem State.uart_setHostByte (s : State) (k j : Nat) (v : Byte) : (s.setHostByte k v).uart j = s.uart j := rfl
@[simp] theorem State.chan_setHostByte (s : State) (k j : Nat) (v : Byte) : (s.setHostByte k v).chan j = s.chan j := rfl
/-- Reading a key after writing one: the value written at that key, the old value elsewhere. -/
theorem State.enc_setEnc (s : State) (k j : Nat) (v : Enc) : (s.setEnc k v).enc j = if j = k then v else s.enc j :=
  SMap.get_set _ _ _ _ _
@[simp] theorem State.enc_setEnc_same (s : State) (k : Nat) (v : Enc) : (s.setEnc k v).enc k = v := by
  rw [State.enc_setEnc, if_pos rfl]
@[simp] theorem State.reg_setEnc (s : State) (k j : Nat) (v : Enc) : (s.setEnc k v).reg j = s.reg j := rfl
@[simp] theorem State.eff_setEnc (s : State) (k j : Nat) (v : Enc) : (s.setEnc k v).eff j = s.eff j := rfl
@[simp] theorem State.latched_setEnc (s : State) (k j : Nat) (v : Enc) : (s.setEnc k v).latched j = s.latched j := rfl
@[simp] theorem State.rdVal_setEnc (s : State) (k j : Nat) (v : Enc) : (s.setEnc k v).rdVal j = s.rdVal j := rfl
@[simp] theorem State.dramByte_setEnc (s : State) (k j : Nat) (v : Enc) : (s.setEnc k v).dramByte j = s.dramByte j := rfl
@[simp] theorem State.hostByte_setEnc (s : State) (k j : Nat) (v : Enc) : (s.setEnc k v).hostByte j = s.hostByte j := rfl
@[simp] theorem State.sched_setEnc (s : State) (k j : Nat) (v : Enc) : (s.setEnc k v).sched j = s.sched j := rfl
@[simp] theorem State.head_setEnc (s : State) (k j : Nat) (v : Enc) : (s.setEnc k v).head j = s.head j := rfl
@[simp] theorem State.seq_setEnc (s : State) (k j : Nat) (v : Enc) : (s.setEnc k v).seq j = s.seq j := rfl
@[simp] theorem State.port_setEnc (s : State) (k j : Nat) (v : Enc) : (s.setEnc k v).port j = s.port j := rfl
@[simp] theorem State.face_setEnc (s : State) (k j : Nat) (v : Enc) : (s.setEnc k v).face j = s.face j := rfl
@[simp] theorem State.fctx_setEnc (s : State) (k j : Nat) (v : Enc) : (s.setEnc k v).fctx j = s.fctx j := rfl
@[simp] theorem State.sctx_setEnc (s : State) (k j : Nat) (v : Enc) : (s.setEnc k v).sctx j = s.sctx j := rfl
@[simp] theorem State.lastCand_setEnc (s : State) (k j : Nat) (v : Enc) : (s.setEnc k v).lastCand j = s.lastCand j := rfl
@[simp] theorem State.stock_setEnc (s : State) (k j : Nat) (v : Enc) : (s.setEnc k v).stock j = s.stock j := rfl
@[simp] theorem State.closing_setEnc (s : State) (k j : Nat) (v : Enc) : (s.setEnc k v).closing j = s.closing j := rfl
@[simp] theorem State.kerf_setEnc (s : State) (k j : Nat) (v : Enc) : (s.setEnc k v).kerf j = s.kerf j := rfl
@[simp] theorem State.bench_setEnc (s : State) (k j : Nat) (v : Enc) : (s.setEnc k v).bench j = s.bench j := rfl
@[simp] theorem State.core_setEnc (s : State) (k j : Nat) (v : Enc) : (s.setEnc k v).core j = s.core j := rfl
@[simp] theorem State.box_setEnc (s : State) (k j : Nat) (v : Enc) : (s.setEnc k v).box j = s.box j := rfl
@[simp] theorem State.uart_setEnc (s : State) (k j : Nat) (v : Enc) : (s.setEnc k v).uart j = s.uart j := rfl
@[simp] theorem State.chan_setEnc (s : State) (k j : Nat) (v : Enc) : (s.setEnc k v).chan j = s.chan j := rfl
/-- Reading a key after writing one: the value written at that key, the old value elsewhere. -/
theorem State.sched_setSched (s : State) (k j : Nat) (v : Sched) : (s.setSched k v).sched j = if j = k then v else s.sched j :=
  SMap.get_set _ _ _ _ _
@[simp] theorem State.sched_setSched_same (s : State) (k : Nat) (v : Sched) : (s.setSched k v).sched k = v := by
  rw [State.sched_setSched, if_pos rfl]
@[simp] theorem State.reg_setSched (s : State) (k j : Nat) (v : Sched) : (s.setSched k v).reg j = s.reg j := rfl
@[simp] theorem State.eff_setSched (s : State) (k j : Nat) (v : Sched) : (s.setSched k v).eff j = s.eff j := rfl
@[simp] theorem State.latched_setSched (s : State) (k j : Nat) (v : Sched) : (s.setSched k v).latched j = s.latched j := rfl
@[simp] theorem State.rdVal_setSched (s : State) (k j : Nat) (v : Sched) : (s.setSched k v).rdVal j = s.rdVal j := rfl
@[simp] theorem State.dramByte_setSched (s : State) (k j : Nat) (v : Sched) : (s.setSched k v).dramByte j = s.dramByte j := rfl
@[simp] theorem State.hostByte_setSched (s : State) (k j : Nat) (v : Sched) : (s.setSched k v).hostByte j = s.hostByte j := rfl
@[simp] theorem State.enc_setSched (s : State) (k j : Nat) (v : Sched) : (s.setSched k v).enc j = s.enc j := rfl
@[simp] theorem State.head_setSched (s : State) (k j : Nat) (v : Sched) : (s.setSched k v).head j = s.head j := rfl
@[simp] theorem State.seq_setSched (s : State) (k j : Nat) (v : Sched) : (s.setSched k v).seq j = s.seq j := rfl
@[simp] theorem State.port_setSched (s : State) (k j : Nat) (v : Sched) : (s.setSched k v).port j = s.port j := rfl
@[simp] theorem State.face_setSched (s : State) (k j : Nat) (v : Sched) : (s.setSched k v).face j = s.face j := rfl
@[simp] theorem State.fctx_setSched (s : State) (k j : Nat) (v : Sched) : (s.setSched k v).fctx j = s.fctx j := rfl
@[simp] theorem State.sctx_setSched (s : State) (k j : Nat) (v : Sched) : (s.setSched k v).sctx j = s.sctx j := rfl
@[simp] theorem State.lastCand_setSched (s : State) (k j : Nat) (v : Sched) : (s.setSched k v).lastCand j = s.lastCand j := rfl
@[simp] theorem State.stock_setSched (s : State) (k j : Nat) (v : Sched) : (s.setSched k v).stock j = s.stock j := rfl
@[simp] theorem State.closing_setSched (s : State) (k j : Nat) (v : Sched) : (s.setSched k v).closing j = s.closing j := rfl
@[simp] theorem State.kerf_setSched (s : State) (k j : Nat) (v : Sched) : (s.setSched k v).kerf j = s.kerf j := rfl
@[simp] theorem State.bench_setSched (s : State) (k j : Nat) (v : Sched) : (s.setSched k v).bench j = s.bench j := rfl
@[simp] theorem State.core_setSched (s : State) (k j : Nat) (v : Sched) : (s.setSched k v).core j = s.core j := rfl
@[simp] theorem State.box_setSched (s : State) (k j : Nat) (v : Sched) : (s.setSched k v).box j = s.box j := rfl
@[simp] theorem State.uart_setSched (s : State) (k j : Nat) (v : Sched) : (s.setSched k v).uart j = s.uart j := rfl
@[simp] theorem State.chan_setSched (s : State) (k j : Nat) (v : Sched) : (s.setSched k v).chan j = s.chan j := rfl
/-- Reading a key after writing one: the value written at that key, the old value elsewhere. -/
theorem State.head_setHead (s : State) (k j : Nat) (v : Head) : (s.setHead k v).head j = if j = k then v else s.head j :=
  SMap.get_set _ _ _ _ _
@[simp] theorem State.head_setHead_same (s : State) (k : Nat) (v : Head) : (s.setHead k v).head k = v := by
  rw [State.head_setHead, if_pos rfl]
@[simp] theorem State.reg_setHead (s : State) (k j : Nat) (v : Head) : (s.setHead k v).reg j = s.reg j := rfl
@[simp] theorem State.eff_setHead (s : State) (k j : Nat) (v : Head) : (s.setHead k v).eff j = s.eff j := rfl
@[simp] theorem State.latched_setHead (s : State) (k j : Nat) (v : Head) : (s.setHead k v).latched j = s.latched j := rfl
@[simp] theorem State.rdVal_setHead (s : State) (k j : Nat) (v : Head) : (s.setHead k v).rdVal j = s.rdVal j := rfl
@[simp] theorem State.dramByte_setHead (s : State) (k j : Nat) (v : Head) : (s.setHead k v).dramByte j = s.dramByte j := rfl
@[simp] theorem State.hostByte_setHead (s : State) (k j : Nat) (v : Head) : (s.setHead k v).hostByte j = s.hostByte j := rfl
@[simp] theorem State.enc_setHead (s : State) (k j : Nat) (v : Head) : (s.setHead k v).enc j = s.enc j := rfl
@[simp] theorem State.sched_setHead (s : State) (k j : Nat) (v : Head) : (s.setHead k v).sched j = s.sched j := rfl
@[simp] theorem State.seq_setHead (s : State) (k j : Nat) (v : Head) : (s.setHead k v).seq j = s.seq j := rfl
@[simp] theorem State.port_setHead (s : State) (k j : Nat) (v : Head) : (s.setHead k v).port j = s.port j := rfl
@[simp] theorem State.face_setHead (s : State) (k j : Nat) (v : Head) : (s.setHead k v).face j = s.face j := rfl
@[simp] theorem State.fctx_setHead (s : State) (k j : Nat) (v : Head) : (s.setHead k v).fctx j = s.fctx j := rfl
@[simp] theorem State.sctx_setHead (s : State) (k j : Nat) (v : Head) : (s.setHead k v).sctx j = s.sctx j := rfl
@[simp] theorem State.lastCand_setHead (s : State) (k j : Nat) (v : Head) : (s.setHead k v).lastCand j = s.lastCand j := rfl
@[simp] theorem State.stock_setHead (s : State) (k j : Nat) (v : Head) : (s.setHead k v).stock j = s.stock j := rfl
@[simp] theorem State.closing_setHead (s : State) (k j : Nat) (v : Head) : (s.setHead k v).closing j = s.closing j := rfl
@[simp] theorem State.kerf_setHead (s : State) (k j : Nat) (v : Head) : (s.setHead k v).kerf j = s.kerf j := rfl
@[simp] theorem State.bench_setHead (s : State) (k j : Nat) (v : Head) : (s.setHead k v).bench j = s.bench j := rfl
@[simp] theorem State.core_setHead (s : State) (k j : Nat) (v : Head) : (s.setHead k v).core j = s.core j := rfl
@[simp] theorem State.box_setHead (s : State) (k j : Nat) (v : Head) : (s.setHead k v).box j = s.box j := rfl
@[simp] theorem State.uart_setHead (s : State) (k j : Nat) (v : Head) : (s.setHead k v).uart j = s.uart j := rfl
@[simp] theorem State.chan_setHead (s : State) (k j : Nat) (v : Head) : (s.setHead k v).chan j = s.chan j := rfl
/-- Reading a key after writing one: the value written at that key, the old value elsewhere. -/
theorem State.seq_setSeq (s : State) (k j : Nat) (v : Seq) : (s.setSeq k v).seq j = if j = k then v else s.seq j :=
  SMap.get_set _ _ _ _ _
@[simp] theorem State.seq_setSeq_same (s : State) (k : Nat) (v : Seq) : (s.setSeq k v).seq k = v := by
  rw [State.seq_setSeq, if_pos rfl]
@[simp] theorem State.reg_setSeq (s : State) (k j : Nat) (v : Seq) : (s.setSeq k v).reg j = s.reg j := rfl
@[simp] theorem State.eff_setSeq (s : State) (k j : Nat) (v : Seq) : (s.setSeq k v).eff j = s.eff j := rfl
@[simp] theorem State.latched_setSeq (s : State) (k j : Nat) (v : Seq) : (s.setSeq k v).latched j = s.latched j := rfl
@[simp] theorem State.rdVal_setSeq (s : State) (k j : Nat) (v : Seq) : (s.setSeq k v).rdVal j = s.rdVal j := rfl
@[simp] theorem State.dramByte_setSeq (s : State) (k j : Nat) (v : Seq) : (s.setSeq k v).dramByte j = s.dramByte j := rfl
@[simp] theorem State.hostByte_setSeq (s : State) (k j : Nat) (v : Seq) : (s.setSeq k v).hostByte j = s.hostByte j := rfl
@[simp] theorem State.enc_setSeq (s : State) (k j : Nat) (v : Seq) : (s.setSeq k v).enc j = s.enc j := rfl
@[simp] theorem State.sched_setSeq (s : State) (k j : Nat) (v : Seq) : (s.setSeq k v).sched j = s.sched j := rfl
@[simp] theorem State.head_setSeq (s : State) (k j : Nat) (v : Seq) : (s.setSeq k v).head j = s.head j := rfl
@[simp] theorem State.port_setSeq (s : State) (k j : Nat) (v : Seq) : (s.setSeq k v).port j = s.port j := rfl
@[simp] theorem State.face_setSeq (s : State) (k j : Nat) (v : Seq) : (s.setSeq k v).face j = s.face j := rfl
@[simp] theorem State.fctx_setSeq (s : State) (k j : Nat) (v : Seq) : (s.setSeq k v).fctx j = s.fctx j := rfl
@[simp] theorem State.sctx_setSeq (s : State) (k j : Nat) (v : Seq) : (s.setSeq k v).sctx j = s.sctx j := rfl
@[simp] theorem State.lastCand_setSeq (s : State) (k j : Nat) (v : Seq) : (s.setSeq k v).lastCand j = s.lastCand j := rfl
@[simp] theorem State.stock_setSeq (s : State) (k j : Nat) (v : Seq) : (s.setSeq k v).stock j = s.stock j := rfl
@[simp] theorem State.closing_setSeq (s : State) (k j : Nat) (v : Seq) : (s.setSeq k v).closing j = s.closing j := rfl
@[simp] theorem State.kerf_setSeq (s : State) (k j : Nat) (v : Seq) : (s.setSeq k v).kerf j = s.kerf j := rfl
@[simp] theorem State.bench_setSeq (s : State) (k j : Nat) (v : Seq) : (s.setSeq k v).bench j = s.bench j := rfl
@[simp] theorem State.core_setSeq (s : State) (k j : Nat) (v : Seq) : (s.setSeq k v).core j = s.core j := rfl
@[simp] theorem State.box_setSeq (s : State) (k j : Nat) (v : Seq) : (s.setSeq k v).box j = s.box j := rfl
@[simp] theorem State.uart_setSeq (s : State) (k j : Nat) (v : Seq) : (s.setSeq k v).uart j = s.uart j := rfl
@[simp] theorem State.chan_setSeq (s : State) (k j : Nat) (v : Seq) : (s.setSeq k v).chan j = s.chan j := rfl
/-- Reading a key after writing one: the value written at that key, the old value elsewhere. -/
theorem State.port_setPort (s : State) (k j : Nat) (v : Port) : (s.setPort k v).port j = if j = k then v else s.port j :=
  SMap.get_set _ _ _ _ _
@[simp] theorem State.port_setPort_same (s : State) (k : Nat) (v : Port) : (s.setPort k v).port k = v := by
  rw [State.port_setPort, if_pos rfl]
@[simp] theorem State.reg_setPort (s : State) (k j : Nat) (v : Port) : (s.setPort k v).reg j = s.reg j := rfl
@[simp] theorem State.eff_setPort (s : State) (k j : Nat) (v : Port) : (s.setPort k v).eff j = s.eff j := rfl
@[simp] theorem State.latched_setPort (s : State) (k j : Nat) (v : Port) : (s.setPort k v).latched j = s.latched j := rfl
@[simp] theorem State.rdVal_setPort (s : State) (k j : Nat) (v : Port) : (s.setPort k v).rdVal j = s.rdVal j := rfl
@[simp] theorem State.dramByte_setPort (s : State) (k j : Nat) (v : Port) : (s.setPort k v).dramByte j = s.dramByte j := rfl
@[simp] theorem State.hostByte_setPort (s : State) (k j : Nat) (v : Port) : (s.setPort k v).hostByte j = s.hostByte j := rfl
@[simp] theorem State.enc_setPort (s : State) (k j : Nat) (v : Port) : (s.setPort k v).enc j = s.enc j := rfl
@[simp] theorem State.sched_setPort (s : State) (k j : Nat) (v : Port) : (s.setPort k v).sched j = s.sched j := rfl
@[simp] theorem State.head_setPort (s : State) (k j : Nat) (v : Port) : (s.setPort k v).head j = s.head j := rfl
@[simp] theorem State.seq_setPort (s : State) (k j : Nat) (v : Port) : (s.setPort k v).seq j = s.seq j := rfl
@[simp] theorem State.face_setPort (s : State) (k j : Nat) (v : Port) : (s.setPort k v).face j = s.face j := rfl
@[simp] theorem State.fctx_setPort (s : State) (k j : Nat) (v : Port) : (s.setPort k v).fctx j = s.fctx j := rfl
@[simp] theorem State.sctx_setPort (s : State) (k j : Nat) (v : Port) : (s.setPort k v).sctx j = s.sctx j := rfl
@[simp] theorem State.lastCand_setPort (s : State) (k j : Nat) (v : Port) : (s.setPort k v).lastCand j = s.lastCand j := rfl
@[simp] theorem State.stock_setPort (s : State) (k j : Nat) (v : Port) : (s.setPort k v).stock j = s.stock j := rfl
@[simp] theorem State.closing_setPort (s : State) (k j : Nat) (v : Port) : (s.setPort k v).closing j = s.closing j := rfl
@[simp] theorem State.kerf_setPort (s : State) (k j : Nat) (v : Port) : (s.setPort k v).kerf j = s.kerf j := rfl
@[simp] theorem State.bench_setPort (s : State) (k j : Nat) (v : Port) : (s.setPort k v).bench j = s.bench j := rfl
@[simp] theorem State.core_setPort (s : State) (k j : Nat) (v : Port) : (s.setPort k v).core j = s.core j := rfl
@[simp] theorem State.box_setPort (s : State) (k j : Nat) (v : Port) : (s.setPort k v).box j = s.box j := rfl
@[simp] theorem State.uart_setPort (s : State) (k j : Nat) (v : Port) : (s.setPort k v).uart j = s.uart j := rfl
@[simp] theorem State.chan_setPort (s : State) (k j : Nat) (v : Port) : (s.setPort k v).chan j = s.chan j := rfl
/-- Reading a key after writing one: the value written at that key, the old value elsewhere. -/
theorem State.face_setFace (s : State) (k j : Nat) (v : Face) : (s.setFace k v).face j = if j = k then v else s.face j :=
  SMap.get_set _ _ _ _ _
@[simp] theorem State.face_setFace_same (s : State) (k : Nat) (v : Face) : (s.setFace k v).face k = v := by
  rw [State.face_setFace, if_pos rfl]
@[simp] theorem State.reg_setFace (s : State) (k j : Nat) (v : Face) : (s.setFace k v).reg j = s.reg j := rfl
@[simp] theorem State.eff_setFace (s : State) (k j : Nat) (v : Face) : (s.setFace k v).eff j = s.eff j := rfl
@[simp] theorem State.latched_setFace (s : State) (k j : Nat) (v : Face) : (s.setFace k v).latched j = s.latched j := rfl
@[simp] theorem State.rdVal_setFace (s : State) (k j : Nat) (v : Face) : (s.setFace k v).rdVal j = s.rdVal j := rfl
@[simp] theorem State.dramByte_setFace (s : State) (k j : Nat) (v : Face) : (s.setFace k v).dramByte j = s.dramByte j := rfl
@[simp] theorem State.hostByte_setFace (s : State) (k j : Nat) (v : Face) : (s.setFace k v).hostByte j = s.hostByte j := rfl
@[simp] theorem State.enc_setFace (s : State) (k j : Nat) (v : Face) : (s.setFace k v).enc j = s.enc j := rfl
@[simp] theorem State.sched_setFace (s : State) (k j : Nat) (v : Face) : (s.setFace k v).sched j = s.sched j := rfl
@[simp] theorem State.head_setFace (s : State) (k j : Nat) (v : Face) : (s.setFace k v).head j = s.head j := rfl
@[simp] theorem State.seq_setFace (s : State) (k j : Nat) (v : Face) : (s.setFace k v).seq j = s.seq j := rfl
@[simp] theorem State.port_setFace (s : State) (k j : Nat) (v : Face) : (s.setFace k v).port j = s.port j := rfl
@[simp] theorem State.fctx_setFace (s : State) (k j : Nat) (v : Face) : (s.setFace k v).fctx j = s.fctx j := rfl
@[simp] theorem State.sctx_setFace (s : State) (k j : Nat) (v : Face) : (s.setFace k v).sctx j = s.sctx j := rfl
@[simp] theorem State.lastCand_setFace (s : State) (k j : Nat) (v : Face) : (s.setFace k v).lastCand j = s.lastCand j := rfl
@[simp] theorem State.stock_setFace (s : State) (k j : Nat) (v : Face) : (s.setFace k v).stock j = s.stock j := rfl
@[simp] theorem State.closing_setFace (s : State) (k j : Nat) (v : Face) : (s.setFace k v).closing j = s.closing j := rfl
@[simp] theorem State.kerf_setFace (s : State) (k j : Nat) (v : Face) : (s.setFace k v).kerf j = s.kerf j := rfl
@[simp] theorem State.bench_setFace (s : State) (k j : Nat) (v : Face) : (s.setFace k v).bench j = s.bench j := rfl
@[simp] theorem State.core_setFace (s : State) (k j : Nat) (v : Face) : (s.setFace k v).core j = s.core j := rfl
@[simp] theorem State.box_setFace (s : State) (k j : Nat) (v : Face) : (s.setFace k v).box j = s.box j := rfl
@[simp] theorem State.uart_setFace (s : State) (k j : Nat) (v : Face) : (s.setFace k v).uart j = s.uart j := rfl
@[simp] theorem State.chan_setFace (s : State) (k j : Nat) (v : Face) : (s.setFace k v).chan j = s.chan j := rfl
/-- Reading a key after writing one: the value written at that key, the old value elsewhere. -/
theorem State.fctx_setFctx (s : State) (k j : Nat) (v : FCtx) : (s.setFctx k v).fctx j = if j = k then v else s.fctx j :=
  SMap.get_set _ _ _ _ _
@[simp] theorem State.fctx_setFctx_same (s : State) (k : Nat) (v : FCtx) : (s.setFctx k v).fctx k = v := by
  rw [State.fctx_setFctx, if_pos rfl]
@[simp] theorem State.reg_setFctx (s : State) (k j : Nat) (v : FCtx) : (s.setFctx k v).reg j = s.reg j := rfl
@[simp] theorem State.eff_setFctx (s : State) (k j : Nat) (v : FCtx) : (s.setFctx k v).eff j = s.eff j := rfl
@[simp] theorem State.latched_setFctx (s : State) (k j : Nat) (v : FCtx) : (s.setFctx k v).latched j = s.latched j := rfl
@[simp] theorem State.rdVal_setFctx (s : State) (k j : Nat) (v : FCtx) : (s.setFctx k v).rdVal j = s.rdVal j := rfl
@[simp] theorem State.dramByte_setFctx (s : State) (k j : Nat) (v : FCtx) : (s.setFctx k v).dramByte j = s.dramByte j := rfl
@[simp] theorem State.hostByte_setFctx (s : State) (k j : Nat) (v : FCtx) : (s.setFctx k v).hostByte j = s.hostByte j := rfl
@[simp] theorem State.enc_setFctx (s : State) (k j : Nat) (v : FCtx) : (s.setFctx k v).enc j = s.enc j := rfl
@[simp] theorem State.sched_setFctx (s : State) (k j : Nat) (v : FCtx) : (s.setFctx k v).sched j = s.sched j := rfl
@[simp] theorem State.head_setFctx (s : State) (k j : Nat) (v : FCtx) : (s.setFctx k v).head j = s.head j := rfl
@[simp] theorem State.seq_setFctx (s : State) (k j : Nat) (v : FCtx) : (s.setFctx k v).seq j = s.seq j := rfl
@[simp] theorem State.port_setFctx (s : State) (k j : Nat) (v : FCtx) : (s.setFctx k v).port j = s.port j := rfl
@[simp] theorem State.face_setFctx (s : State) (k j : Nat) (v : FCtx) : (s.setFctx k v).face j = s.face j := rfl
@[simp] theorem State.sctx_setFctx (s : State) (k j : Nat) (v : FCtx) : (s.setFctx k v).sctx j = s.sctx j := rfl
@[simp] theorem State.lastCand_setFctx (s : State) (k j : Nat) (v : FCtx) : (s.setFctx k v).lastCand j = s.lastCand j := rfl
@[simp] theorem State.stock_setFctx (s : State) (k j : Nat) (v : FCtx) : (s.setFctx k v).stock j = s.stock j := rfl
@[simp] theorem State.closing_setFctx (s : State) (k j : Nat) (v : FCtx) : (s.setFctx k v).closing j = s.closing j := rfl
@[simp] theorem State.kerf_setFctx (s : State) (k j : Nat) (v : FCtx) : (s.setFctx k v).kerf j = s.kerf j := rfl
@[simp] theorem State.bench_setFctx (s : State) (k j : Nat) (v : FCtx) : (s.setFctx k v).bench j = s.bench j := rfl
@[simp] theorem State.core_setFctx (s : State) (k j : Nat) (v : FCtx) : (s.setFctx k v).core j = s.core j := rfl
@[simp] theorem State.box_setFctx (s : State) (k j : Nat) (v : FCtx) : (s.setFctx k v).box j = s.box j := rfl
@[simp] theorem State.uart_setFctx (s : State) (k j : Nat) (v : FCtx) : (s.setFctx k v).uart j = s.uart j := rfl
@[simp] theorem State.chan_setFctx (s : State) (k j : Nat) (v : FCtx) : (s.setFctx k v).chan j = s.chan j := rfl
/-- Reading a key after writing one: the value written at that key, the old value elsewhere. -/
theorem State.sctx_setSctx (s : State) (k j : Nat) (v : SCtx) : (s.setSctx k v).sctx j = if j = k then v else s.sctx j :=
  SMap.get_set _ _ _ _ _
@[simp] theorem State.sctx_setSctx_same (s : State) (k : Nat) (v : SCtx) : (s.setSctx k v).sctx k = v := by
  rw [State.sctx_setSctx, if_pos rfl]
@[simp] theorem State.reg_setSctx (s : State) (k j : Nat) (v : SCtx) : (s.setSctx k v).reg j = s.reg j := rfl
@[simp] theorem State.eff_setSctx (s : State) (k j : Nat) (v : SCtx) : (s.setSctx k v).eff j = s.eff j := rfl
@[simp] theorem State.latched_setSctx (s : State) (k j : Nat) (v : SCtx) : (s.setSctx k v).latched j = s.latched j := rfl
@[simp] theorem State.rdVal_setSctx (s : State) (k j : Nat) (v : SCtx) : (s.setSctx k v).rdVal j = s.rdVal j := rfl
@[simp] theorem State.dramByte_setSctx (s : State) (k j : Nat) (v : SCtx) : (s.setSctx k v).dramByte j = s.dramByte j := rfl
@[simp] theorem State.hostByte_setSctx (s : State) (k j : Nat) (v : SCtx) : (s.setSctx k v).hostByte j = s.hostByte j := rfl
@[simp] theorem State.enc_setSctx (s : State) (k j : Nat) (v : SCtx) : (s.setSctx k v).enc j = s.enc j := rfl
@[simp] theorem State.sched_setSctx (s : State) (k j : Nat) (v : SCtx) : (s.setSctx k v).sched j = s.sched j := rfl
@[simp] theorem State.head_setSctx (s : State) (k j : Nat) (v : SCtx) : (s.setSctx k v).head j = s.head j := rfl
@[simp] theorem State.seq_setSctx (s : State) (k j : Nat) (v : SCtx) : (s.setSctx k v).seq j = s.seq j := rfl
@[simp] theorem State.port_setSctx (s : State) (k j : Nat) (v : SCtx) : (s.setSctx k v).port j = s.port j := rfl
@[simp] theorem State.face_setSctx (s : State) (k j : Nat) (v : SCtx) : (s.setSctx k v).face j = s.face j := rfl
@[simp] theorem State.fctx_setSctx (s : State) (k j : Nat) (v : SCtx) : (s.setSctx k v).fctx j = s.fctx j := rfl
@[simp] theorem State.lastCand_setSctx (s : State) (k j : Nat) (v : SCtx) : (s.setSctx k v).lastCand j = s.lastCand j := rfl
@[simp] theorem State.stock_setSctx (s : State) (k j : Nat) (v : SCtx) : (s.setSctx k v).stock j = s.stock j := rfl
@[simp] theorem State.closing_setSctx (s : State) (k j : Nat) (v : SCtx) : (s.setSctx k v).closing j = s.closing j := rfl
@[simp] theorem State.kerf_setSctx (s : State) (k j : Nat) (v : SCtx) : (s.setSctx k v).kerf j = s.kerf j := rfl
@[simp] theorem State.bench_setSctx (s : State) (k j : Nat) (v : SCtx) : (s.setSctx k v).bench j = s.bench j := rfl
@[simp] theorem State.core_setSctx (s : State) (k j : Nat) (v : SCtx) : (s.setSctx k v).core j = s.core j := rfl
@[simp] theorem State.box_setSctx (s : State) (k j : Nat) (v : SCtx) : (s.setSctx k v).box j = s.box j := rfl
@[simp] theorem State.uart_setSctx (s : State) (k j : Nat) (v : SCtx) : (s.setSctx k v).uart j = s.uart j := rfl
@[simp] theorem State.chan_setSctx (s : State) (k j : Nat) (v : SCtx) : (s.setSctx k v).chan j = s.chan j := rfl
/-- Reading a key after writing one: the value written at that key, the old value elsewhere. -/
theorem State.lastCand_setLastCand (s : State) (k j : Nat) (v : (Option Cand)) : (s.setLastCand k v).lastCand j = if j = k then v else s.lastCand j :=
  SMap.get_set _ _ _ _ _
@[simp] theorem State.lastCand_setLastCand_same (s : State) (k : Nat) (v : (Option Cand)) : (s.setLastCand k v).lastCand k = v := by
  rw [State.lastCand_setLastCand, if_pos rfl]
@[simp] theorem State.reg_setLastCand (s : State) (k j : Nat) (v : (Option Cand)) : (s.setLastCand k v).reg j = s.reg j := rfl
@[simp] theorem State.eff_setLastCand (s : State) (k j : Nat) (v : (Option Cand)) : (s.setLastCand k v).eff j = s.eff j := rfl
@[simp] theorem State.latched_setLastCand (s : State) (k j : Nat) (v : (Option Cand)) : (s.setLastCand k v).latched j = s.latched j := rfl
@[simp] theorem State.rdVal_setLastCand (s : State) (k j : Nat) (v : (Option Cand)) : (s.setLastCand k v).rdVal j = s.rdVal j := rfl
@[simp] theorem State.dramByte_setLastCand (s : State) (k j : Nat) (v : (Option Cand)) : (s.setLastCand k v).dramByte j = s.dramByte j := rfl
@[simp] theorem State.hostByte_setLastCand (s : State) (k j : Nat) (v : (Option Cand)) : (s.setLastCand k v).hostByte j = s.hostByte j := rfl
@[simp] theorem State.enc_setLastCand (s : State) (k j : Nat) (v : (Option Cand)) : (s.setLastCand k v).enc j = s.enc j := rfl
@[simp] theorem State.sched_setLastCand (s : State) (k j : Nat) (v : (Option Cand)) : (s.setLastCand k v).sched j = s.sched j := rfl
@[simp] theorem State.head_setLastCand (s : State) (k j : Nat) (v : (Option Cand)) : (s.setLastCand k v).head j = s.head j := rfl
@[simp] theorem State.seq_setLastCand (s : State) (k j : Nat) (v : (Option Cand)) : (s.setLastCand k v).seq j = s.seq j := rfl
@[simp] theorem State.port_setLastCand (s : State) (k j : Nat) (v : (Option Cand)) : (s.setLastCand k v).port j = s.port j := rfl
@[simp] theorem State.face_setLastCand (s : State) (k j : Nat) (v : (Option Cand)) : (s.setLastCand k v).face j = s.face j := rfl
@[simp] theorem State.fctx_setLastCand (s : State) (k j : Nat) (v : (Option Cand)) : (s.setLastCand k v).fctx j = s.fctx j := rfl
@[simp] theorem State.sctx_setLastCand (s : State) (k j : Nat) (v : (Option Cand)) : (s.setLastCand k v).sctx j = s.sctx j := rfl
@[simp] theorem State.stock_setLastCand (s : State) (k j : Nat) (v : (Option Cand)) : (s.setLastCand k v).stock j = s.stock j := rfl
@[simp] theorem State.closing_setLastCand (s : State) (k j : Nat) (v : (Option Cand)) : (s.setLastCand k v).closing j = s.closing j := rfl
@[simp] theorem State.kerf_setLastCand (s : State) (k j : Nat) (v : (Option Cand)) : (s.setLastCand k v).kerf j = s.kerf j := rfl
@[simp] theorem State.bench_setLastCand (s : State) (k j : Nat) (v : (Option Cand)) : (s.setLastCand k v).bench j = s.bench j := rfl
@[simp] theorem State.core_setLastCand (s : State) (k j : Nat) (v : (Option Cand)) : (s.setLastCand k v).core j = s.core j := rfl
@[simp] theorem State.box_setLastCand (s : State) (k j : Nat) (v : (Option Cand)) : (s.setLastCand k v).box j = s.box j := rfl
@[simp] theorem State.uart_setLastCand (s : State) (k j : Nat) (v : (Option Cand)) : (s.setLastCand k v).uart j = s.uart j := rfl
@[simp] theorem State.chan_setLastCand (s : State) (k j : Nat) (v : (Option Cand)) : (s.setLastCand k v).chan j = s.chan j := rfl
/-- Reading a key after writing one: the value written at that key, the old value elsewhere. -/
theorem State.stock_setStock (s : State) (k j : Nat) (v : Stock) : (s.setStock k v).stock j = if j = k then v else s.stock j :=
  SMap.get_set _ _ _ _ _
@[simp] theorem State.stock_setStock_same (s : State) (k : Nat) (v : Stock) : (s.setStock k v).stock k = v := by
  rw [State.stock_setStock, if_pos rfl]
@[simp] theorem State.reg_setStock (s : State) (k j : Nat) (v : Stock) : (s.setStock k v).reg j = s.reg j := rfl
@[simp] theorem State.eff_setStock (s : State) (k j : Nat) (v : Stock) : (s.setStock k v).eff j = s.eff j := rfl
@[simp] theorem State.latched_setStock (s : State) (k j : Nat) (v : Stock) : (s.setStock k v).latched j = s.latched j := rfl
@[simp] theorem State.rdVal_setStock (s : State) (k j : Nat) (v : Stock) : (s.setStock k v).rdVal j = s.rdVal j := rfl
@[simp] theorem State.dramByte_setStock (s : State) (k j : Nat) (v : Stock) : (s.setStock k v).dramByte j = s.dramByte j := rfl
@[simp] theorem State.hostByte_setStock (s : State) (k j : Nat) (v : Stock) : (s.setStock k v).hostByte j = s.hostByte j := rfl
@[simp] theorem State.enc_setStock (s : State) (k j : Nat) (v : Stock) : (s.setStock k v).enc j = s.enc j := rfl
@[simp] theorem State.sched_setStock (s : State) (k j : Nat) (v : Stock) : (s.setStock k v).sched j = s.sched j := rfl
@[simp] theorem State.head_setStock (s : State) (k j : Nat) (v : Stock) : (s.setStock k v).head j = s.head j := rfl
@[simp] theorem State.seq_setStock (s : State) (k j : Nat) (v : Stock) : (s.setStock k v).seq j = s.seq j := rfl
@[simp] theorem State.port_setStock (s : State) (k j : Nat) (v : Stock) : (s.setStock k v).port j = s.port j := rfl
@[simp] theorem State.face_setStock (s : State) (k j : Nat) (v : Stock) : (s.setStock k v).face j = s.face j := rfl
@[simp] theorem State.fctx_setStock (s : State) (k j : Nat) (v : Stock) : (s.setStock k v).fctx j = s.fctx j := rfl
@[simp] theorem State.sctx_setStock (s : State) (k j : Nat) (v : Stock) : (s.setStock k v).sctx j = s.sctx j := rfl
@[simp] theorem State.lastCand_setStock (s : State) (k j : Nat) (v : Stock) : (s.setStock k v).lastCand j = s.lastCand j := rfl
@[simp] theorem State.closing_setStock (s : State) (k j : Nat) (v : Stock) : (s.setStock k v).closing j = s.closing j := rfl
@[simp] theorem State.kerf_setStock (s : State) (k j : Nat) (v : Stock) : (s.setStock k v).kerf j = s.kerf j := rfl
@[simp] theorem State.bench_setStock (s : State) (k j : Nat) (v : Stock) : (s.setStock k v).bench j = s.bench j := rfl
@[simp] theorem State.core_setStock (s : State) (k j : Nat) (v : Stock) : (s.setStock k v).core j = s.core j := rfl
@[simp] theorem State.box_setStock (s : State) (k j : Nat) (v : Stock) : (s.setStock k v).box j = s.box j := rfl
@[simp] theorem State.uart_setStock (s : State) (k j : Nat) (v : Stock) : (s.setStock k v).uart j = s.uart j := rfl
@[simp] theorem State.chan_setStock (s : State) (k j : Nat) (v : Stock) : (s.setStock k v).chan j = s.chan j := rfl
/-- Reading a key after writing one: the value written at that key, the old value elsewhere. -/
theorem State.closing_setClosing (s : State) (k j : Nat) (v : (List ClosingRec)) : (s.setClosing k v).closing j = if j = k then v else s.closing j :=
  SMap.get_set _ _ _ _ _
@[simp] theorem State.closing_setClosing_same (s : State) (k : Nat) (v : (List ClosingRec)) : (s.setClosing k v).closing k = v := by
  rw [State.closing_setClosing, if_pos rfl]
@[simp] theorem State.reg_setClosing (s : State) (k j : Nat) (v : (List ClosingRec)) : (s.setClosing k v).reg j = s.reg j := rfl
@[simp] theorem State.eff_setClosing (s : State) (k j : Nat) (v : (List ClosingRec)) : (s.setClosing k v).eff j = s.eff j := rfl
@[simp] theorem State.latched_setClosing (s : State) (k j : Nat) (v : (List ClosingRec)) : (s.setClosing k v).latched j = s.latched j := rfl
@[simp] theorem State.rdVal_setClosing (s : State) (k j : Nat) (v : (List ClosingRec)) : (s.setClosing k v).rdVal j = s.rdVal j := rfl
@[simp] theorem State.dramByte_setClosing (s : State) (k j : Nat) (v : (List ClosingRec)) : (s.setClosing k v).dramByte j = s.dramByte j := rfl
@[simp] theorem State.hostByte_setClosing (s : State) (k j : Nat) (v : (List ClosingRec)) : (s.setClosing k v).hostByte j = s.hostByte j := rfl
@[simp] theorem State.enc_setClosing (s : State) (k j : Nat) (v : (List ClosingRec)) : (s.setClosing k v).enc j = s.enc j := rfl
@[simp] theorem State.sched_setClosing (s : State) (k j : Nat) (v : (List ClosingRec)) : (s.setClosing k v).sched j = s.sched j := rfl
@[simp] theorem State.head_setClosing (s : State) (k j : Nat) (v : (List ClosingRec)) : (s.setClosing k v).head j = s.head j := rfl
@[simp] theorem State.seq_setClosing (s : State) (k j : Nat) (v : (List ClosingRec)) : (s.setClosing k v).seq j = s.seq j := rfl
@[simp] theorem State.port_setClosing (s : State) (k j : Nat) (v : (List ClosingRec)) : (s.setClosing k v).port j = s.port j := rfl
@[simp] theorem State.face_setClosing (s : State) (k j : Nat) (v : (List ClosingRec)) : (s.setClosing k v).face j = s.face j := rfl
@[simp] theorem State.fctx_setClosing (s : State) (k j : Nat) (v : (List ClosingRec)) : (s.setClosing k v).fctx j = s.fctx j := rfl
@[simp] theorem State.sctx_setClosing (s : State) (k j : Nat) (v : (List ClosingRec)) : (s.setClosing k v).sctx j = s.sctx j := rfl
@[simp] theorem State.lastCand_setClosing (s : State) (k j : Nat) (v : (List ClosingRec)) : (s.setClosing k v).lastCand j = s.lastCand j := rfl
@[simp] theorem State.stock_setClosing (s : State) (k j : Nat) (v : (List ClosingRec)) : (s.setClosing k v).stock j = s.stock j := rfl
@[simp] theorem State.kerf_setClosing (s : State) (k j : Nat) (v : (List ClosingRec)) : (s.setClosing k v).kerf j = s.kerf j := rfl
@[simp] theorem State.bench_setClosing (s : State) (k j : Nat) (v : (List ClosingRec)) : (s.setClosing k v).bench j = s.bench j := rfl
@[simp] theorem State.core_setClosing (s : State) (k j : Nat) (v : (List ClosingRec)) : (s.setClosing k v).core j = s.core j := rfl
@[simp] theorem State.box_setClosing (s : State) (k j : Nat) (v : (List ClosingRec)) : (s.setClosing k v).box j = s.box j := rfl
@[simp] theorem State.uart_setClosing (s : State) (k j : Nat) (v : (List ClosingRec)) : (s.setClosing k v).uart j = s.uart j := rfl
@[simp] theorem State.chan_setClosing (s : State) (k j : Nat) (v : (List ClosingRec)) : (s.setClosing k v).chan j = s.chan j := rfl
/-- Reading a key after writing one: the value written at that key, the old value elsewhere. -/
theorem State.kerf_setKerf (s : State) (k j : Nat) (v : Kerf) : (s.setKerf k v).kerf j = if j = k then v else s.kerf j :=
  SMap.get_set _ _ _ _ _
@[simp] theorem State.kerf_setKerf_same (s : State) (k : Nat) (v : Kerf) : (s.setKerf k v).kerf k = v := by
  rw [State.kerf_setKerf, if_pos rfl]
@[simp] theorem State.reg_setKerf (s : State) (k j : Nat) (v : Kerf) : (s.setKerf k v).reg j = s.reg j := rfl
@[simp] theorem State.eff_setKerf (s : State) (k j : Nat) (v : Kerf) : (s.setKerf k v).eff j = s.eff j := rfl
@[simp] theorem State.latched_setKerf (s : State) (k j : Nat) (v : Kerf) : (s.setKerf k v).latched j = s.latched j := rfl
@[simp] theorem State.rdVal_setKerf (s : State) (k j : Nat) (v : Kerf) : (s.setKerf k v).rdVal j = s.rdVal j := rfl
@[simp] theorem State.dramByte_setKerf (s : State) (k j : Nat) (v : Kerf) : (s.setKerf k v).dramByte j = s.dramByte j := rfl
@[simp] theorem State.hostByte_setKerf (s : State) (k j : Nat) (v : Kerf) : (s.setKerf k v).hostByte j = s.hostByte j := rfl
@[simp] theorem State.enc_setKerf (s : State) (k j : Nat) (v : Kerf) : (s.setKerf k v).enc j = s.enc j := rfl
@[simp] theorem State.sched_setKerf (s : State) (k j : Nat) (v : Kerf) : (s.setKerf k v).sched j = s.sched j := rfl
@[simp] theorem State.head_setKerf (s : State) (k j : Nat) (v : Kerf) : (s.setKerf k v).head j = s.head j := rfl
@[simp] theorem State.seq_setKerf (s : State) (k j : Nat) (v : Kerf) : (s.setKerf k v).seq j = s.seq j := rfl
@[simp] theorem State.port_setKerf (s : State) (k j : Nat) (v : Kerf) : (s.setKerf k v).port j = s.port j := rfl
@[simp] theorem State.face_setKerf (s : State) (k j : Nat) (v : Kerf) : (s.setKerf k v).face j = s.face j := rfl
@[simp] theorem State.fctx_setKerf (s : State) (k j : Nat) (v : Kerf) : (s.setKerf k v).fctx j = s.fctx j := rfl
@[simp] theorem State.sctx_setKerf (s : State) (k j : Nat) (v : Kerf) : (s.setKerf k v).sctx j = s.sctx j := rfl
@[simp] theorem State.lastCand_setKerf (s : State) (k j : Nat) (v : Kerf) : (s.setKerf k v).lastCand j = s.lastCand j := rfl
@[simp] theorem State.stock_setKerf (s : State) (k j : Nat) (v : Kerf) : (s.setKerf k v).stock j = s.stock j := rfl
@[simp] theorem State.closing_setKerf (s : State) (k j : Nat) (v : Kerf) : (s.setKerf k v).closing j = s.closing j := rfl
@[simp] theorem State.bench_setKerf (s : State) (k j : Nat) (v : Kerf) : (s.setKerf k v).bench j = s.bench j := rfl
@[simp] theorem State.core_setKerf (s : State) (k j : Nat) (v : Kerf) : (s.setKerf k v).core j = s.core j := rfl
@[simp] theorem State.box_setKerf (s : State) (k j : Nat) (v : Kerf) : (s.setKerf k v).box j = s.box j := rfl
@[simp] theorem State.uart_setKerf (s : State) (k j : Nat) (v : Kerf) : (s.setKerf k v).uart j = s.uart j := rfl
@[simp] theorem State.chan_setKerf (s : State) (k j : Nat) (v : Kerf) : (s.setKerf k v).chan j = s.chan j := rfl
/-- Reading a key after writing one: the value written at that key, the old value elsewhere. -/
theorem State.bench_setBench (s : State) (k j : Nat) (v : Bench) : (s.setBench k v).bench j = if j = k then v else s.bench j :=
  SMap.get_set _ _ _ _ _
@[simp] theorem State.bench_setBench_same (s : State) (k : Nat) (v : Bench) : (s.setBench k v).bench k = v := by
  rw [State.bench_setBench, if_pos rfl]
@[simp] theorem State.reg_setBench (s : State) (k j : Nat) (v : Bench) : (s.setBench k v).reg j = s.reg j := rfl
@[simp] theorem State.eff_setBench (s : State) (k j : Nat) (v : Bench) : (s.setBench k v).eff j = s.eff j := rfl
@[simp] theorem State.latched_setBench (s : State) (k j : Nat) (v : Bench) : (s.setBench k v).latched j = s.latched j := rfl
@[simp] theorem State.rdVal_setBench (s : State) (k j : Nat) (v : Bench) : (s.setBench k v).rdVal j = s.rdVal j := rfl
@[simp] theorem State.dramByte_setBench (s : State) (k j : Nat) (v : Bench) : (s.setBench k v).dramByte j = s.dramByte j := rfl
@[simp] theorem State.hostByte_setBench (s : State) (k j : Nat) (v : Bench) : (s.setBench k v).hostByte j = s.hostByte j := rfl
@[simp] theorem State.enc_setBench (s : State) (k j : Nat) (v : Bench) : (s.setBench k v).enc j = s.enc j := rfl
@[simp] theorem State.sched_setBench (s : State) (k j : Nat) (v : Bench) : (s.setBench k v).sched j = s.sched j := rfl
@[simp] theorem State.head_setBench (s : State) (k j : Nat) (v : Bench) : (s.setBench k v).head j = s.head j := rfl
@[simp] theorem State.seq_setBench (s : State) (k j : Nat) (v : Bench) : (s.setBench k v).seq j = s.seq j := rfl
@[simp] theorem State.port_setBench (s : State) (k j : Nat) (v : Bench) : (s.setBench k v).port j = s.port j := rfl
@[simp] theorem State.face_setBench (s : State) (k j : Nat) (v : Bench) : (s.setBench k v).face j = s.face j := rfl
@[simp] theorem State.fctx_setBench (s : State) (k j : Nat) (v : Bench) : (s.setBench k v).fctx j = s.fctx j := rfl
@[simp] theorem State.sctx_setBench (s : State) (k j : Nat) (v : Bench) : (s.setBench k v).sctx j = s.sctx j := rfl
@[simp] theorem State.lastCand_setBench (s : State) (k j : Nat) (v : Bench) : (s.setBench k v).lastCand j = s.lastCand j := rfl
@[simp] theorem State.stock_setBench (s : State) (k j : Nat) (v : Bench) : (s.setBench k v).stock j = s.stock j := rfl
@[simp] theorem State.closing_setBench (s : State) (k j : Nat) (v : Bench) : (s.setBench k v).closing j = s.closing j := rfl
@[simp] theorem State.kerf_setBench (s : State) (k j : Nat) (v : Bench) : (s.setBench k v).kerf j = s.kerf j := rfl
@[simp] theorem State.core_setBench (s : State) (k j : Nat) (v : Bench) : (s.setBench k v).core j = s.core j := rfl
@[simp] theorem State.box_setBench (s : State) (k j : Nat) (v : Bench) : (s.setBench k v).box j = s.box j := rfl
@[simp] theorem State.uart_setBench (s : State) (k j : Nat) (v : Bench) : (s.setBench k v).uart j = s.uart j := rfl
@[simp] theorem State.chan_setBench (s : State) (k j : Nat) (v : Bench) : (s.setBench k v).chan j = s.chan j := rfl
/-- Reading a key after writing one: the value written at that key, the old value elsewhere. -/
theorem State.core_setCore (s : State) (k j : Nat) (v : Hewer) : (s.setCore k v).core j = if j = k then v else s.core j :=
  SMap.get_set _ _ _ _ _
@[simp] theorem State.core_setCore_same (s : State) (k : Nat) (v : Hewer) : (s.setCore k v).core k = v := by
  rw [State.core_setCore, if_pos rfl]
@[simp] theorem State.reg_setCore (s : State) (k j : Nat) (v : Hewer) : (s.setCore k v).reg j = s.reg j := rfl
@[simp] theorem State.eff_setCore (s : State) (k j : Nat) (v : Hewer) : (s.setCore k v).eff j = s.eff j := rfl
@[simp] theorem State.latched_setCore (s : State) (k j : Nat) (v : Hewer) : (s.setCore k v).latched j = s.latched j := rfl
@[simp] theorem State.rdVal_setCore (s : State) (k j : Nat) (v : Hewer) : (s.setCore k v).rdVal j = s.rdVal j := rfl
@[simp] theorem State.dramByte_setCore (s : State) (k j : Nat) (v : Hewer) : (s.setCore k v).dramByte j = s.dramByte j := rfl
@[simp] theorem State.hostByte_setCore (s : State) (k j : Nat) (v : Hewer) : (s.setCore k v).hostByte j = s.hostByte j := rfl
@[simp] theorem State.enc_setCore (s : State) (k j : Nat) (v : Hewer) : (s.setCore k v).enc j = s.enc j := rfl
@[simp] theorem State.sched_setCore (s : State) (k j : Nat) (v : Hewer) : (s.setCore k v).sched j = s.sched j := rfl
@[simp] theorem State.head_setCore (s : State) (k j : Nat) (v : Hewer) : (s.setCore k v).head j = s.head j := rfl
@[simp] theorem State.seq_setCore (s : State) (k j : Nat) (v : Hewer) : (s.setCore k v).seq j = s.seq j := rfl
@[simp] theorem State.port_setCore (s : State) (k j : Nat) (v : Hewer) : (s.setCore k v).port j = s.port j := rfl
@[simp] theorem State.face_setCore (s : State) (k j : Nat) (v : Hewer) : (s.setCore k v).face j = s.face j := rfl
@[simp] theorem State.fctx_setCore (s : State) (k j : Nat) (v : Hewer) : (s.setCore k v).fctx j = s.fctx j := rfl
@[simp] theorem State.sctx_setCore (s : State) (k j : Nat) (v : Hewer) : (s.setCore k v).sctx j = s.sctx j := rfl
@[simp] theorem State.lastCand_setCore (s : State) (k j : Nat) (v : Hewer) : (s.setCore k v).lastCand j = s.lastCand j := rfl
@[simp] theorem State.stock_setCore (s : State) (k j : Nat) (v : Hewer) : (s.setCore k v).stock j = s.stock j := rfl
@[simp] theorem State.closing_setCore (s : State) (k j : Nat) (v : Hewer) : (s.setCore k v).closing j = s.closing j := rfl
@[simp] theorem State.kerf_setCore (s : State) (k j : Nat) (v : Hewer) : (s.setCore k v).kerf j = s.kerf j := rfl
@[simp] theorem State.bench_setCore (s : State) (k j : Nat) (v : Hewer) : (s.setCore k v).bench j = s.bench j := rfl
@[simp] theorem State.box_setCore (s : State) (k j : Nat) (v : Hewer) : (s.setCore k v).box j = s.box j := rfl
@[simp] theorem State.uart_setCore (s : State) (k j : Nat) (v : Hewer) : (s.setCore k v).uart j = s.uart j := rfl
@[simp] theorem State.chan_setCore (s : State) (k j : Nat) (v : Hewer) : (s.setCore k v).chan j = s.chan j := rfl
/-- Reading a key after writing one: the value written at that key, the old value elsewhere. -/
theorem State.box_setBox (s : State) (k j : Nat) (v : Mbx) : (s.setBox k v).box j = if j = k then v else s.box j :=
  SMap.get_set _ _ _ _ _
@[simp] theorem State.box_setBox_same (s : State) (k : Nat) (v : Mbx) : (s.setBox k v).box k = v := by
  rw [State.box_setBox, if_pos rfl]
@[simp] theorem State.reg_setBox (s : State) (k j : Nat) (v : Mbx) : (s.setBox k v).reg j = s.reg j := rfl
@[simp] theorem State.eff_setBox (s : State) (k j : Nat) (v : Mbx) : (s.setBox k v).eff j = s.eff j := rfl
@[simp] theorem State.latched_setBox (s : State) (k j : Nat) (v : Mbx) : (s.setBox k v).latched j = s.latched j := rfl
@[simp] theorem State.rdVal_setBox (s : State) (k j : Nat) (v : Mbx) : (s.setBox k v).rdVal j = s.rdVal j := rfl
@[simp] theorem State.dramByte_setBox (s : State) (k j : Nat) (v : Mbx) : (s.setBox k v).dramByte j = s.dramByte j := rfl
@[simp] theorem State.hostByte_setBox (s : State) (k j : Nat) (v : Mbx) : (s.setBox k v).hostByte j = s.hostByte j := rfl
@[simp] theorem State.enc_setBox (s : State) (k j : Nat) (v : Mbx) : (s.setBox k v).enc j = s.enc j := rfl
@[simp] theorem State.sched_setBox (s : State) (k j : Nat) (v : Mbx) : (s.setBox k v).sched j = s.sched j := rfl
@[simp] theorem State.head_setBox (s : State) (k j : Nat) (v : Mbx) : (s.setBox k v).head j = s.head j := rfl
@[simp] theorem State.seq_setBox (s : State) (k j : Nat) (v : Mbx) : (s.setBox k v).seq j = s.seq j := rfl
@[simp] theorem State.port_setBox (s : State) (k j : Nat) (v : Mbx) : (s.setBox k v).port j = s.port j := rfl
@[simp] theorem State.face_setBox (s : State) (k j : Nat) (v : Mbx) : (s.setBox k v).face j = s.face j := rfl
@[simp] theorem State.fctx_setBox (s : State) (k j : Nat) (v : Mbx) : (s.setBox k v).fctx j = s.fctx j := rfl
@[simp] theorem State.sctx_setBox (s : State) (k j : Nat) (v : Mbx) : (s.setBox k v).sctx j = s.sctx j := rfl
@[simp] theorem State.lastCand_setBox (s : State) (k j : Nat) (v : Mbx) : (s.setBox k v).lastCand j = s.lastCand j := rfl
@[simp] theorem State.stock_setBox (s : State) (k j : Nat) (v : Mbx) : (s.setBox k v).stock j = s.stock j := rfl
@[simp] theorem State.closing_setBox (s : State) (k j : Nat) (v : Mbx) : (s.setBox k v).closing j = s.closing j := rfl
@[simp] theorem State.kerf_setBox (s : State) (k j : Nat) (v : Mbx) : (s.setBox k v).kerf j = s.kerf j := rfl
@[simp] theorem State.bench_setBox (s : State) (k j : Nat) (v : Mbx) : (s.setBox k v).bench j = s.bench j := rfl
@[simp] theorem State.core_setBox (s : State) (k j : Nat) (v : Mbx) : (s.setBox k v).core j = s.core j := rfl
@[simp] theorem State.uart_setBox (s : State) (k j : Nat) (v : Mbx) : (s.setBox k v).uart j = s.uart j := rfl
@[simp] theorem State.chan_setBox (s : State) (k j : Nat) (v : Mbx) : (s.setBox k v).chan j = s.chan j := rfl
/-- Reading a key after writing one: the value written at that key, the old value elsewhere. -/
theorem State.uart_setUart (s : State) (k j : Nat) (v : Uart) : (s.setUart k v).uart j = if j = k then v else s.uart j :=
  SMap.get_set _ _ _ _ _
@[simp] theorem State.uart_setUart_same (s : State) (k : Nat) (v : Uart) : (s.setUart k v).uart k = v := by
  rw [State.uart_setUart, if_pos rfl]
@[simp] theorem State.reg_setUart (s : State) (k j : Nat) (v : Uart) : (s.setUart k v).reg j = s.reg j := rfl
@[simp] theorem State.eff_setUart (s : State) (k j : Nat) (v : Uart) : (s.setUart k v).eff j = s.eff j := rfl
@[simp] theorem State.latched_setUart (s : State) (k j : Nat) (v : Uart) : (s.setUart k v).latched j = s.latched j := rfl
@[simp] theorem State.rdVal_setUart (s : State) (k j : Nat) (v : Uart) : (s.setUart k v).rdVal j = s.rdVal j := rfl
@[simp] theorem State.dramByte_setUart (s : State) (k j : Nat) (v : Uart) : (s.setUart k v).dramByte j = s.dramByte j := rfl
@[simp] theorem State.hostByte_setUart (s : State) (k j : Nat) (v : Uart) : (s.setUart k v).hostByte j = s.hostByte j := rfl
@[simp] theorem State.enc_setUart (s : State) (k j : Nat) (v : Uart) : (s.setUart k v).enc j = s.enc j := rfl
@[simp] theorem State.sched_setUart (s : State) (k j : Nat) (v : Uart) : (s.setUart k v).sched j = s.sched j := rfl
@[simp] theorem State.head_setUart (s : State) (k j : Nat) (v : Uart) : (s.setUart k v).head j = s.head j := rfl
@[simp] theorem State.seq_setUart (s : State) (k j : Nat) (v : Uart) : (s.setUart k v).seq j = s.seq j := rfl
@[simp] theorem State.port_setUart (s : State) (k j : Nat) (v : Uart) : (s.setUart k v).port j = s.port j := rfl
@[simp] theorem State.face_setUart (s : State) (k j : Nat) (v : Uart) : (s.setUart k v).face j = s.face j := rfl
@[simp] theorem State.fctx_setUart (s : State) (k j : Nat) (v : Uart) : (s.setUart k v).fctx j = s.fctx j := rfl
@[simp] theorem State.sctx_setUart (s : State) (k j : Nat) (v : Uart) : (s.setUart k v).sctx j = s.sctx j := rfl
@[simp] theorem State.lastCand_setUart (s : State) (k j : Nat) (v : Uart) : (s.setUart k v).lastCand j = s.lastCand j := rfl
@[simp] theorem State.stock_setUart (s : State) (k j : Nat) (v : Uart) : (s.setUart k v).stock j = s.stock j := rfl
@[simp] theorem State.closing_setUart (s : State) (k j : Nat) (v : Uart) : (s.setUart k v).closing j = s.closing j := rfl
@[simp] theorem State.kerf_setUart (s : State) (k j : Nat) (v : Uart) : (s.setUart k v).kerf j = s.kerf j := rfl
@[simp] theorem State.bench_setUart (s : State) (k j : Nat) (v : Uart) : (s.setUart k v).bench j = s.bench j := rfl
@[simp] theorem State.core_setUart (s : State) (k j : Nat) (v : Uart) : (s.setUart k v).core j = s.core j := rfl
@[simp] theorem State.box_setUart (s : State) (k j : Nat) (v : Uart) : (s.setUart k v).box j = s.box j := rfl
@[simp] theorem State.chan_setUart (s : State) (k j : Nat) (v : Uart) : (s.setUart k v).chan j = s.chan j := rfl
/-- Reading a key after writing one: the value written at that key, the old value elsewhere. -/
theorem State.chan_setChan (s : State) (k j : Nat) (v : CmdChan) : (s.setChan k v).chan j = if j = k then v else s.chan j :=
  SMap.get_set _ _ _ _ _
@[simp] theorem State.chan_setChan_same (s : State) (k : Nat) (v : CmdChan) : (s.setChan k v).chan k = v := by
  rw [State.chan_setChan, if_pos rfl]
@[simp] theorem State.reg_setChan (s : State) (k j : Nat) (v : CmdChan) : (s.setChan k v).reg j = s.reg j := rfl
@[simp] theorem State.eff_setChan (s : State) (k j : Nat) (v : CmdChan) : (s.setChan k v).eff j = s.eff j := rfl
@[simp] theorem State.latched_setChan (s : State) (k j : Nat) (v : CmdChan) : (s.setChan k v).latched j = s.latched j := rfl
@[simp] theorem State.rdVal_setChan (s : State) (k j : Nat) (v : CmdChan) : (s.setChan k v).rdVal j = s.rdVal j := rfl
@[simp] theorem State.dramByte_setChan (s : State) (k j : Nat) (v : CmdChan) : (s.setChan k v).dramByte j = s.dramByte j := rfl
@[simp] theorem State.hostByte_setChan (s : State) (k j : Nat) (v : CmdChan) : (s.setChan k v).hostByte j = s.hostByte j := rfl
@[simp] theorem State.enc_setChan (s : State) (k j : Nat) (v : CmdChan) : (s.setChan k v).enc j = s.enc j := rfl
@[simp] theorem State.sched_setChan (s : State) (k j : Nat) (v : CmdChan) : (s.setChan k v).sched j = s.sched j := rfl
@[simp] theorem State.head_setChan (s : State) (k j : Nat) (v : CmdChan) : (s.setChan k v).head j = s.head j := rfl
@[simp] theorem State.seq_setChan (s : State) (k j : Nat) (v : CmdChan) : (s.setChan k v).seq j = s.seq j := rfl
@[simp] theorem State.port_setChan (s : State) (k j : Nat) (v : CmdChan) : (s.setChan k v).port j = s.port j := rfl
@[simp] theorem State.face_setChan (s : State) (k j : Nat) (v : CmdChan) : (s.setChan k v).face j = s.face j := rfl
@[simp] theorem State.fctx_setChan (s : State) (k j : Nat) (v : CmdChan) : (s.setChan k v).fctx j = s.fctx j := rfl
@[simp] theorem State.sctx_setChan (s : State) (k j : Nat) (v : CmdChan) : (s.setChan k v).sctx j = s.sctx j := rfl
@[simp] theorem State.lastCand_setChan (s : State) (k j : Nat) (v : CmdChan) : (s.setChan k v).lastCand j = s.lastCand j := rfl
@[simp] theorem State.stock_setChan (s : State) (k j : Nat) (v : CmdChan) : (s.setChan k v).stock j = s.stock j := rfl
@[simp] theorem State.closing_setChan (s : State) (k j : Nat) (v : CmdChan) : (s.setChan k v).closing j = s.closing j := rfl
@[simp] theorem State.kerf_setChan (s : State) (k j : Nat) (v : CmdChan) : (s.setChan k v).kerf j = s.kerf j := rfl
@[simp] theorem State.bench_setChan (s : State) (k j : Nat) (v : CmdChan) : (s.setChan k v).bench j = s.bench j := rfl
@[simp] theorem State.core_setChan (s : State) (k j : Nat) (v : CmdChan) : (s.setChan k v).core j = s.core j := rfl
@[simp] theorem State.box_setChan (s : State) (k j : Nat) (v : CmdChan) : (s.setChan k v).box j = s.box j := rfl
@[simp] theorem State.uart_setChan (s : State) (k j : Nat) (v : CmdChan) : (s.setChan k v).uart j = s.uart j := rfl
@[simp] theorem State.reg_setSync (s : State) (j : Nat) (v : Sync) : (s.setSync v).reg j = s.reg j := rfl
@[simp] theorem State.eff_setSync (s : State) (j : Nat) (v : Sync) : (s.setSync v).eff j = s.eff j := rfl
@[simp] theorem State.latched_setSync (s : State) (j : Nat) (v : Sync) : (s.setSync v).latched j = s.latched j := rfl
@[simp] theorem State.rdVal_setSync (s : State) (j : Nat) (v : Sync) : (s.setSync v).rdVal j = s.rdVal j := rfl
@[simp] theorem State.dramByte_setSync (s : State) (j : Nat) (v : Sync) : (s.setSync v).dramByte j = s.dramByte j := rfl
@[simp] theorem State.hostByte_setSync (s : State) (j : Nat) (v : Sync) : (s.setSync v).hostByte j = s.hostByte j := rfl
@[simp] theorem State.enc_setSync (s : State) (j : Nat) (v : Sync) : (s.setSync v).enc j = s.enc j := rfl
@[simp] theorem State.sched_setSync (s : State) (j : Nat) (v : Sync) : (s.setSync v).sched j = s.sched j := rfl
@[simp] theorem State.head_setSync (s : State) (j : Nat) (v : Sync) : (s.setSync v).head j = s.head j := rfl
@[simp] theorem State.seq_setSync (s : State) (j : Nat) (v : Sync) : (s.setSync v).seq j = s.seq j := rfl
@[simp] theorem State.port_setSync (s : State) (j : Nat) (v : Sync) : (s.setSync v).port j = s.port j := rfl
@[simp] theorem State.face_setSync (s : State) (j : Nat) (v : Sync) : (s.setSync v).face j = s.face j := rfl
@[simp] theorem State.fctx_setSync (s : State) (j : Nat) (v : Sync) : (s.setSync v).fctx j = s.fctx j := rfl
@[simp] theorem State.sctx_setSync (s : State) (j : Nat) (v : Sync) : (s.setSync v).sctx j = s.sctx j := rfl
@[simp] theorem State.lastCand_setSync (s : State) (j : Nat) (v : Sync) : (s.setSync v).lastCand j = s.lastCand j := rfl
@[simp] theorem State.stock_setSync (s : State) (j : Nat) (v : Sync) : (s.setSync v).stock j = s.stock j := rfl
@[simp] theorem State.closing_setSync (s : State) (j : Nat) (v : Sync) : (s.setSync v).closing j = s.closing j := rfl
@[simp] theorem State.kerf_setSync (s : State) (j : Nat) (v : Sync) : (s.setSync v).kerf j = s.kerf j := rfl
@[simp] theorem State.bench_setSync (s : State) (j : Nat) (v : Sync) : (s.setSync v).bench j = s.bench j := rfl
@[simp] theorem State.core_setSync (s : State) (j : Nat) (v : Sync) : (s.setSync v).core j = s.core j := rfl
@[simp] theorem State.box_setSync (s : State) (j : Nat) (v : Sync) : (s.setSync v).box j = s.box j := rfl
@[simp] theorem State.uart_setSync (s : State) (j : Nat) (v : Sync) : (s.setSync v).uart j = s.uart j := rfl
@[simp] theorem State.chan_setSync (s : State) (j : Nat) (v : Sync) : (s.setSync v).chan j = s.chan j := rfl
@[simp] theorem State.reg_setGpio (s : State) (j : Nat) (v : Gpio) : (s.setGpio v).reg j = s.reg j := rfl
@[simp] theorem State.eff_setGpio (s : State) (j : Nat) (v : Gpio) : (s.setGpio v).eff j = s.eff j := rfl
@[simp] theorem State.latched_setGpio (s : State) (j : Nat) (v : Gpio) : (s.setGpio v).latched j = s.latched j := rfl
@[simp] theorem State.rdVal_setGpio (s : State) (j : Nat) (v : Gpio) : (s.setGpio v).rdVal j = s.rdVal j := rfl
@[simp] theorem State.dramByte_setGpio (s : State) (j : Nat) (v : Gpio) : (s.setGpio v).dramByte j = s.dramByte j := rfl
@[simp] theorem State.hostByte_setGpio (s : State) (j : Nat) (v : Gpio) : (s.setGpio v).hostByte j = s.hostByte j := rfl
@[simp] theorem State.enc_setGpio (s : State) (j : Nat) (v : Gpio) : (s.setGpio v).enc j = s.enc j := rfl
@[simp] theorem State.sched_setGpio (s : State) (j : Nat) (v : Gpio) : (s.setGpio v).sched j = s.sched j := rfl
@[simp] theorem State.head_setGpio (s : State) (j : Nat) (v : Gpio) : (s.setGpio v).head j = s.head j := rfl
@[simp] theorem State.seq_setGpio (s : State) (j : Nat) (v : Gpio) : (s.setGpio v).seq j = s.seq j := rfl
@[simp] theorem State.port_setGpio (s : State) (j : Nat) (v : Gpio) : (s.setGpio v).port j = s.port j := rfl
@[simp] theorem State.face_setGpio (s : State) (j : Nat) (v : Gpio) : (s.setGpio v).face j = s.face j := rfl
@[simp] theorem State.fctx_setGpio (s : State) (j : Nat) (v : Gpio) : (s.setGpio v).fctx j = s.fctx j := rfl
@[simp] theorem State.sctx_setGpio (s : State) (j : Nat) (v : Gpio) : (s.setGpio v).sctx j = s.sctx j := rfl
@[simp] theorem State.lastCand_setGpio (s : State) (j : Nat) (v : Gpio) : (s.setGpio v).lastCand j = s.lastCand j := rfl
@[simp] theorem State.stock_setGpio (s : State) (j : Nat) (v : Gpio) : (s.setGpio v).stock j = s.stock j := rfl
@[simp] theorem State.closing_setGpio (s : State) (j : Nat) (v : Gpio) : (s.setGpio v).closing j = s.closing j := rfl
@[simp] theorem State.kerf_setGpio (s : State) (j : Nat) (v : Gpio) : (s.setGpio v).kerf j = s.kerf j := rfl
@[simp] theorem State.bench_setGpio (s : State) (j : Nat) (v : Gpio) : (s.setGpio v).bench j = s.bench j := rfl
@[simp] theorem State.core_setGpio (s : State) (j : Nat) (v : Gpio) : (s.setGpio v).core j = s.core j := rfl
@[simp] theorem State.box_setGpio (s : State) (j : Nat) (v : Gpio) : (s.setGpio v).box j = s.box j := rfl
@[simp] theorem State.uart_setGpio (s : State) (j : Nat) (v : Gpio) : (s.setGpio v).uart j = s.uart j := rfl
@[simp] theorem State.chan_setGpio (s : State) (j : Nat) (v : Gpio) : (s.setGpio v).chan j = s.chan j := rfl
@[simp] theorem State.reg_setPw (s : State) (j : Nat) (v : Power) : (s.setPw v).reg j = s.reg j := rfl
@[simp] theorem State.eff_setPw (s : State) (j : Nat) (v : Power) : (s.setPw v).eff j = s.eff j := rfl
@[simp] theorem State.latched_setPw (s : State) (j : Nat) (v : Power) : (s.setPw v).latched j = s.latched j := rfl
@[simp] theorem State.rdVal_setPw (s : State) (j : Nat) (v : Power) : (s.setPw v).rdVal j = s.rdVal j := rfl
@[simp] theorem State.dramByte_setPw (s : State) (j : Nat) (v : Power) : (s.setPw v).dramByte j = s.dramByte j := rfl
@[simp] theorem State.hostByte_setPw (s : State) (j : Nat) (v : Power) : (s.setPw v).hostByte j = s.hostByte j := rfl
@[simp] theorem State.enc_setPw (s : State) (j : Nat) (v : Power) : (s.setPw v).enc j = s.enc j := rfl
@[simp] theorem State.sched_setPw (s : State) (j : Nat) (v : Power) : (s.setPw v).sched j = s.sched j := rfl
@[simp] theorem State.head_setPw (s : State) (j : Nat) (v : Power) : (s.setPw v).head j = s.head j := rfl
@[simp] theorem State.seq_setPw (s : State) (j : Nat) (v : Power) : (s.setPw v).seq j = s.seq j := rfl
@[simp] theorem State.port_setPw (s : State) (j : Nat) (v : Power) : (s.setPw v).port j = s.port j := rfl
@[simp] theorem State.face_setPw (s : State) (j : Nat) (v : Power) : (s.setPw v).face j = s.face j := rfl
@[simp] theorem State.fctx_setPw (s : State) (j : Nat) (v : Power) : (s.setPw v).fctx j = s.fctx j := rfl
@[simp] theorem State.sctx_setPw (s : State) (j : Nat) (v : Power) : (s.setPw v).sctx j = s.sctx j := rfl
@[simp] theorem State.lastCand_setPw (s : State) (j : Nat) (v : Power) : (s.setPw v).lastCand j = s.lastCand j := rfl
@[simp] theorem State.stock_setPw (s : State) (j : Nat) (v : Power) : (s.setPw v).stock j = s.stock j := rfl
@[simp] theorem State.closing_setPw (s : State) (j : Nat) (v : Power) : (s.setPw v).closing j = s.closing j := rfl
@[simp] theorem State.kerf_setPw (s : State) (j : Nat) (v : Power) : (s.setPw v).kerf j = s.kerf j := rfl
@[simp] theorem State.bench_setPw (s : State) (j : Nat) (v : Power) : (s.setPw v).bench j = s.bench j := rfl
@[simp] theorem State.core_setPw (s : State) (j : Nat) (v : Power) : (s.setPw v).core j = s.core j := rfl
@[simp] theorem State.box_setPw (s : State) (j : Nat) (v : Power) : (s.setPw v).box j = s.box j := rfl
@[simp] theorem State.uart_setPw (s : State) (j : Nat) (v : Power) : (s.setPw v).uart j = s.uart j := rfl
@[simp] theorem State.chan_setPw (s : State) (j : Nat) (v : Power) : (s.setPw v).chan j = s.chan j := rfl
@[simp] theorem State.reg_setTime (s : State) (j : Nat) (v : (BitVec 64)) : (s.setTime v).reg j = s.reg j := rfl
@[simp] theorem State.eff_setTime (s : State) (j : Nat) (v : (BitVec 64)) : (s.setTime v).eff j = s.eff j := rfl
@[simp] theorem State.latched_setTime (s : State) (j : Nat) (v : (BitVec 64)) : (s.setTime v).latched j = s.latched j := rfl
@[simp] theorem State.rdVal_setTime (s : State) (j : Nat) (v : (BitVec 64)) : (s.setTime v).rdVal j = s.rdVal j := rfl
@[simp] theorem State.dramByte_setTime (s : State) (j : Nat) (v : (BitVec 64)) : (s.setTime v).dramByte j = s.dramByte j := rfl
@[simp] theorem State.hostByte_setTime (s : State) (j : Nat) (v : (BitVec 64)) : (s.setTime v).hostByte j = s.hostByte j := rfl
@[simp] theorem State.enc_setTime (s : State) (j : Nat) (v : (BitVec 64)) : (s.setTime v).enc j = s.enc j := rfl
@[simp] theorem State.sched_setTime (s : State) (j : Nat) (v : (BitVec 64)) : (s.setTime v).sched j = s.sched j := rfl
@[simp] theorem State.head_setTime (s : State) (j : Nat) (v : (BitVec 64)) : (s.setTime v).head j = s.head j := rfl
@[simp] theorem State.seq_setTime (s : State) (j : Nat) (v : (BitVec 64)) : (s.setTime v).seq j = s.seq j := rfl
@[simp] theorem State.port_setTime (s : State) (j : Nat) (v : (BitVec 64)) : (s.setTime v).port j = s.port j := rfl
@[simp] theorem State.face_setTime (s : State) (j : Nat) (v : (BitVec 64)) : (s.setTime v).face j = s.face j := rfl
@[simp] theorem State.fctx_setTime (s : State) (j : Nat) (v : (BitVec 64)) : (s.setTime v).fctx j = s.fctx j := rfl
@[simp] theorem State.sctx_setTime (s : State) (j : Nat) (v : (BitVec 64)) : (s.setTime v).sctx j = s.sctx j := rfl
@[simp] theorem State.lastCand_setTime (s : State) (j : Nat) (v : (BitVec 64)) : (s.setTime v).lastCand j = s.lastCand j := rfl
@[simp] theorem State.stock_setTime (s : State) (j : Nat) (v : (BitVec 64)) : (s.setTime v).stock j = s.stock j := rfl
@[simp] theorem State.closing_setTime (s : State) (j : Nat) (v : (BitVec 64)) : (s.setTime v).closing j = s.closing j := rfl
@[simp] theorem State.kerf_setTime (s : State) (j : Nat) (v : (BitVec 64)) : (s.setTime v).kerf j = s.kerf j := rfl
@[simp] theorem State.bench_setTime (s : State) (j : Nat) (v : (BitVec 64)) : (s.setTime v).bench j = s.bench j := rfl
@[simp] theorem State.core_setTime (s : State) (j : Nat) (v : (BitVec 64)) : (s.setTime v).core j = s.core j := rfl
@[simp] theorem State.box_setTime (s : State) (j : Nat) (v : (BitVec 64)) : (s.setTime v).box j = s.box j := rfl
@[simp] theorem State.uart_setTime (s : State) (j : Nat) (v : (BitVec 64)) : (s.setTime v).uart j = s.uart j := rfl
@[simp] theorem State.chan_setTime (s : State) (j : Nat) (v : (BitVec 64)) : (s.setTime v).chan j = s.chan j := rfl
@[simp] theorem State.reg_setTofs (s : State) (j : Nat) (v : (BitVec 64)) : (s.setTofs v).reg j = s.reg j := rfl
@[simp] theorem State.eff_setTofs (s : State) (j : Nat) (v : (BitVec 64)) : (s.setTofs v).eff j = s.eff j := rfl
@[simp] theorem State.latched_setTofs (s : State) (j : Nat) (v : (BitVec 64)) : (s.setTofs v).latched j = s.latched j := rfl
@[simp] theorem State.rdVal_setTofs (s : State) (j : Nat) (v : (BitVec 64)) : (s.setTofs v).rdVal j = s.rdVal j := rfl
@[simp] theorem State.dramByte_setTofs (s : State) (j : Nat) (v : (BitVec 64)) : (s.setTofs v).dramByte j = s.dramByte j := rfl
@[simp] theorem State.hostByte_setTofs (s : State) (j : Nat) (v : (BitVec 64)) : (s.setTofs v).hostByte j = s.hostByte j := rfl
@[simp] theorem State.enc_setTofs (s : State) (j : Nat) (v : (BitVec 64)) : (s.setTofs v).enc j = s.enc j := rfl
@[simp] theorem State.sched_setTofs (s : State) (j : Nat) (v : (BitVec 64)) : (s.setTofs v).sched j = s.sched j := rfl
@[simp] theorem State.head_setTofs (s : State) (j : Nat) (v : (BitVec 64)) : (s.setTofs v).head j = s.head j := rfl
@[simp] theorem State.seq_setTofs (s : State) (j : Nat) (v : (BitVec 64)) : (s.setTofs v).seq j = s.seq j := rfl
@[simp] theorem State.port_setTofs (s : State) (j : Nat) (v : (BitVec 64)) : (s.setTofs v).port j = s.port j := rfl
@[simp] theorem State.face_setTofs (s : State) (j : Nat) (v : (BitVec 64)) : (s.setTofs v).face j = s.face j := rfl
@[simp] theorem State.fctx_setTofs (s : State) (j : Nat) (v : (BitVec 64)) : (s.setTofs v).fctx j = s.fctx j := rfl
@[simp] theorem State.sctx_setTofs (s : State) (j : Nat) (v : (BitVec 64)) : (s.setTofs v).sctx j = s.sctx j := rfl
@[simp] theorem State.lastCand_setTofs (s : State) (j : Nat) (v : (BitVec 64)) : (s.setTofs v).lastCand j = s.lastCand j := rfl
@[simp] theorem State.stock_setTofs (s : State) (j : Nat) (v : (BitVec 64)) : (s.setTofs v).stock j = s.stock j := rfl
@[simp] theorem State.closing_setTofs (s : State) (j : Nat) (v : (BitVec 64)) : (s.setTofs v).closing j = s.closing j := rfl
@[simp] theorem State.kerf_setTofs (s : State) (j : Nat) (v : (BitVec 64)) : (s.setTofs v).kerf j = s.kerf j := rfl
@[simp] theorem State.bench_setTofs (s : State) (j : Nat) (v : (BitVec 64)) : (s.setTofs v).bench j = s.bench j := rfl
@[simp] theorem State.core_setTofs (s : State) (j : Nat) (v : (BitVec 64)) : (s.setTofs v).core j = s.core j := rfl
@[simp] theorem State.box_setTofs (s : State) (j : Nat) (v : (BitVec 64)) : (s.setTofs v).box j = s.box j := rfl
@[simp] theorem State.uart_setTofs (s : State) (j : Nat) (v : (BitVec 64)) : (s.setTofs v).uart j = s.uart j := rfl
@[simp] theorem State.chan_setTofs (s : State) (j : Nat) (v : (BitVec 64)) : (s.setTofs v).chan j = s.chan j := rfl
@[simp] theorem State.reg_setRiddle (s : State) (j : Nat) (v : Riddle) : (s.setRiddle v).reg j = s.reg j := rfl
@[simp] theorem State.eff_setRiddle (s : State) (j : Nat) (v : Riddle) : (s.setRiddle v).eff j = s.eff j := rfl
@[simp] theorem State.latched_setRiddle (s : State) (j : Nat) (v : Riddle) : (s.setRiddle v).latched j = s.latched j := rfl
@[simp] theorem State.rdVal_setRiddle (s : State) (j : Nat) (v : Riddle) : (s.setRiddle v).rdVal j = s.rdVal j := rfl
@[simp] theorem State.dramByte_setRiddle (s : State) (j : Nat) (v : Riddle) : (s.setRiddle v).dramByte j = s.dramByte j := rfl
@[simp] theorem State.hostByte_setRiddle (s : State) (j : Nat) (v : Riddle) : (s.setRiddle v).hostByte j = s.hostByte j := rfl
@[simp] theorem State.enc_setRiddle (s : State) (j : Nat) (v : Riddle) : (s.setRiddle v).enc j = s.enc j := rfl
@[simp] theorem State.sched_setRiddle (s : State) (j : Nat) (v : Riddle) : (s.setRiddle v).sched j = s.sched j := rfl
@[simp] theorem State.head_setRiddle (s : State) (j : Nat) (v : Riddle) : (s.setRiddle v).head j = s.head j := rfl
@[simp] theorem State.seq_setRiddle (s : State) (j : Nat) (v : Riddle) : (s.setRiddle v).seq j = s.seq j := rfl
@[simp] theorem State.port_setRiddle (s : State) (j : Nat) (v : Riddle) : (s.setRiddle v).port j = s.port j := rfl
@[simp] theorem State.face_setRiddle (s : State) (j : Nat) (v : Riddle) : (s.setRiddle v).face j = s.face j := rfl
@[simp] theorem State.fctx_setRiddle (s : State) (j : Nat) (v : Riddle) : (s.setRiddle v).fctx j = s.fctx j := rfl
@[simp] theorem State.sctx_setRiddle (s : State) (j : Nat) (v : Riddle) : (s.setRiddle v).sctx j = s.sctx j := rfl
@[simp] theorem State.lastCand_setRiddle (s : State) (j : Nat) (v : Riddle) : (s.setRiddle v).lastCand j = s.lastCand j := rfl
@[simp] theorem State.stock_setRiddle (s : State) (j : Nat) (v : Riddle) : (s.setRiddle v).stock j = s.stock j := rfl
@[simp] theorem State.closing_setRiddle (s : State) (j : Nat) (v : Riddle) : (s.setRiddle v).closing j = s.closing j := rfl
@[simp] theorem State.kerf_setRiddle (s : State) (j : Nat) (v : Riddle) : (s.setRiddle v).kerf j = s.kerf j := rfl
@[simp] theorem State.bench_setRiddle (s : State) (j : Nat) (v : Riddle) : (s.setRiddle v).bench j = s.bench j := rfl
@[simp] theorem State.core_setRiddle (s : State) (j : Nat) (v : Riddle) : (s.setRiddle v).core j = s.core j := rfl
@[simp] theorem State.box_setRiddle (s : State) (j : Nat) (v : Riddle) : (s.setRiddle v).box j = s.box j := rfl
@[simp] theorem State.uart_setRiddle (s : State) (j : Nat) (v : Riddle) : (s.setRiddle v).uart j = s.uart j := rfl
@[simp] theorem State.chan_setRiddle (s : State) (j : Nat) (v : Riddle) : (s.setRiddle v).chan j = s.chan j := rfl
@[simp] theorem State.reg_setFw (s : State) (j : Nat) (v : FwSet) : (s.setFw v).reg j = s.reg j := rfl
@[simp] theorem State.eff_setFw (s : State) (j : Nat) (v : FwSet) : (s.setFw v).eff j = s.eff j := rfl
@[simp] theorem State.latched_setFw (s : State) (j : Nat) (v : FwSet) : (s.setFw v).latched j = s.latched j := rfl
@[simp] theorem State.rdVal_setFw (s : State) (j : Nat) (v : FwSet) : (s.setFw v).rdVal j = s.rdVal j := rfl
@[simp] theorem State.dramByte_setFw (s : State) (j : Nat) (v : FwSet) : (s.setFw v).dramByte j = s.dramByte j := rfl
@[simp] theorem State.hostByte_setFw (s : State) (j : Nat) (v : FwSet) : (s.setFw v).hostByte j = s.hostByte j := rfl
@[simp] theorem State.enc_setFw (s : State) (j : Nat) (v : FwSet) : (s.setFw v).enc j = s.enc j := rfl
@[simp] theorem State.sched_setFw (s : State) (j : Nat) (v : FwSet) : (s.setFw v).sched j = s.sched j := rfl
@[simp] theorem State.head_setFw (s : State) (j : Nat) (v : FwSet) : (s.setFw v).head j = s.head j := rfl
@[simp] theorem State.seq_setFw (s : State) (j : Nat) (v : FwSet) : (s.setFw v).seq j = s.seq j := rfl
@[simp] theorem State.port_setFw (s : State) (j : Nat) (v : FwSet) : (s.setFw v).port j = s.port j := rfl
@[simp] theorem State.face_setFw (s : State) (j : Nat) (v : FwSet) : (s.setFw v).face j = s.face j := rfl
@[simp] theorem State.fctx_setFw (s : State) (j : Nat) (v : FwSet) : (s.setFw v).fctx j = s.fctx j := rfl
@[simp] theorem State.sctx_setFw (s : State) (j : Nat) (v : FwSet) : (s.setFw v).sctx j = s.sctx j := rfl
@[simp] theorem State.lastCand_setFw (s : State) (j : Nat) (v : FwSet) : (s.setFw v).lastCand j = s.lastCand j := rfl
@[simp] theorem State.stock_setFw (s : State) (j : Nat) (v : FwSet) : (s.setFw v).stock j = s.stock j := rfl
@[simp] theorem State.closing_setFw (s : State) (j : Nat) (v : FwSet) : (s.setFw v).closing j = s.closing j := rfl
@[simp] theorem State.kerf_setFw (s : State) (j : Nat) (v : FwSet) : (s.setFw v).kerf j = s.kerf j := rfl
@[simp] theorem State.bench_setFw (s : State) (j : Nat) (v : FwSet) : (s.setFw v).bench j = s.bench j := rfl
@[simp] theorem State.core_setFw (s : State) (j : Nat) (v : FwSet) : (s.setFw v).core j = s.core j := rfl
@[simp] theorem State.box_setFw (s : State) (j : Nat) (v : FwSet) : (s.setFw v).box j = s.box j := rfl
@[simp] theorem State.uart_setFw (s : State) (j : Nat) (v : FwSet) : (s.setFw v).uart j = s.uart j := rfl
@[simp] theorem State.chan_setFw (s : State) (j : Nat) (v : FwSet) : (s.setFw v).chan j = s.chan j := rfl
@[simp] theorem State.reg_setRes (s : State) (j : Nat) (v : Results) : (s.setRes v).reg j = s.reg j := rfl
@[simp] theorem State.eff_setRes (s : State) (j : Nat) (v : Results) : (s.setRes v).eff j = s.eff j := rfl
@[simp] theorem State.latched_setRes (s : State) (j : Nat) (v : Results) : (s.setRes v).latched j = s.latched j := rfl
@[simp] theorem State.rdVal_setRes (s : State) (j : Nat) (v : Results) : (s.setRes v).rdVal j = s.rdVal j := rfl
@[simp] theorem State.dramByte_setRes (s : State) (j : Nat) (v : Results) : (s.setRes v).dramByte j = s.dramByte j := rfl
@[simp] theorem State.hostByte_setRes (s : State) (j : Nat) (v : Results) : (s.setRes v).hostByte j = s.hostByte j := rfl
@[simp] theorem State.enc_setRes (s : State) (j : Nat) (v : Results) : (s.setRes v).enc j = s.enc j := rfl
@[simp] theorem State.sched_setRes (s : State) (j : Nat) (v : Results) : (s.setRes v).sched j = s.sched j := rfl
@[simp] theorem State.head_setRes (s : State) (j : Nat) (v : Results) : (s.setRes v).head j = s.head j := rfl
@[simp] theorem State.seq_setRes (s : State) (j : Nat) (v : Results) : (s.setRes v).seq j = s.seq j := rfl
@[simp] theorem State.port_setRes (s : State) (j : Nat) (v : Results) : (s.setRes v).port j = s.port j := rfl
@[simp] theorem State.face_setRes (s : State) (j : Nat) (v : Results) : (s.setRes v).face j = s.face j := rfl
@[simp] theorem State.fctx_setRes (s : State) (j : Nat) (v : Results) : (s.setRes v).fctx j = s.fctx j := rfl
@[simp] theorem State.sctx_setRes (s : State) (j : Nat) (v : Results) : (s.setRes v).sctx j = s.sctx j := rfl
@[simp] theorem State.lastCand_setRes (s : State) (j : Nat) (v : Results) : (s.setRes v).lastCand j = s.lastCand j := rfl
@[simp] theorem State.stock_setRes (s : State) (j : Nat) (v : Results) : (s.setRes v).stock j = s.stock j := rfl
@[simp] theorem State.closing_setRes (s : State) (j : Nat) (v : Results) : (s.setRes v).closing j = s.closing j := rfl
@[simp] theorem State.kerf_setRes (s : State) (j : Nat) (v : Results) : (s.setRes v).kerf j = s.kerf j := rfl
@[simp] theorem State.bench_setRes (s : State) (j : Nat) (v : Results) : (s.setRes v).bench j = s.bench j := rfl
@[simp] theorem State.core_setRes (s : State) (j : Nat) (v : Results) : (s.setRes v).core j = s.core j := rfl
@[simp] theorem State.box_setRes (s : State) (j : Nat) (v : Results) : (s.setRes v).box j = s.box j := rfl
@[simp] theorem State.uart_setRes (s : State) (j : Nat) (v : Results) : (s.setRes v).uart j = s.uart j := rfl
@[simp] theorem State.chan_setRes (s : State) (j : Nat) (v : Results) : (s.setRes v).chan j = s.chan j := rfl
@[simp] theorem State.reg_setFlash (s : State) (j : Nat) (v : Flash) : (s.setFlash v).reg j = s.reg j := rfl
@[simp] theorem State.eff_setFlash (s : State) (j : Nat) (v : Flash) : (s.setFlash v).eff j = s.eff j := rfl
@[simp] theorem State.latched_setFlash (s : State) (j : Nat) (v : Flash) : (s.setFlash v).latched j = s.latched j := rfl
@[simp] theorem State.rdVal_setFlash (s : State) (j : Nat) (v : Flash) : (s.setFlash v).rdVal j = s.rdVal j := rfl
@[simp] theorem State.dramByte_setFlash (s : State) (j : Nat) (v : Flash) : (s.setFlash v).dramByte j = s.dramByte j := rfl
@[simp] theorem State.hostByte_setFlash (s : State) (j : Nat) (v : Flash) : (s.setFlash v).hostByte j = s.hostByte j := rfl
@[simp] theorem State.enc_setFlash (s : State) (j : Nat) (v : Flash) : (s.setFlash v).enc j = s.enc j := rfl
@[simp] theorem State.sched_setFlash (s : State) (j : Nat) (v : Flash) : (s.setFlash v).sched j = s.sched j := rfl
@[simp] theorem State.head_setFlash (s : State) (j : Nat) (v : Flash) : (s.setFlash v).head j = s.head j := rfl
@[simp] theorem State.seq_setFlash (s : State) (j : Nat) (v : Flash) : (s.setFlash v).seq j = s.seq j := rfl
@[simp] theorem State.port_setFlash (s : State) (j : Nat) (v : Flash) : (s.setFlash v).port j = s.port j := rfl
@[simp] theorem State.face_setFlash (s : State) (j : Nat) (v : Flash) : (s.setFlash v).face j = s.face j := rfl
@[simp] theorem State.fctx_setFlash (s : State) (j : Nat) (v : Flash) : (s.setFlash v).fctx j = s.fctx j := rfl
@[simp] theorem State.sctx_setFlash (s : State) (j : Nat) (v : Flash) : (s.setFlash v).sctx j = s.sctx j := rfl
@[simp] theorem State.lastCand_setFlash (s : State) (j : Nat) (v : Flash) : (s.setFlash v).lastCand j = s.lastCand j := rfl
@[simp] theorem State.stock_setFlash (s : State) (j : Nat) (v : Flash) : (s.setFlash v).stock j = s.stock j := rfl
@[simp] theorem State.closing_setFlash (s : State) (j : Nat) (v : Flash) : (s.setFlash v).closing j = s.closing j := rfl
@[simp] theorem State.kerf_setFlash (s : State) (j : Nat) (v : Flash) : (s.setFlash v).kerf j = s.kerf j := rfl
@[simp] theorem State.bench_setFlash (s : State) (j : Nat) (v : Flash) : (s.setFlash v).bench j = s.bench j := rfl
@[simp] theorem State.core_setFlash (s : State) (j : Nat) (v : Flash) : (s.setFlash v).core j = s.core j := rfl
@[simp] theorem State.box_setFlash (s : State) (j : Nat) (v : Flash) : (s.setFlash v).box j = s.box j := rfl
@[simp] theorem State.uart_setFlash (s : State) (j : Nat) (v : Flash) : (s.setFlash v).uart j = s.uart j := rfl
@[simp] theorem State.chan_setFlash (s : State) (j : Nat) (v : Flash) : (s.setFlash v).chan j = s.chan j := rfl
@[simp] theorem State.reg_setSpoil (s : State) (j : Nat) (v : Spoil) : (s.setSpoil v).reg j = s.reg j := rfl
@[simp] theorem State.eff_setSpoil (s : State) (j : Nat) (v : Spoil) : (s.setSpoil v).eff j = s.eff j := rfl
@[simp] theorem State.latched_setSpoil (s : State) (j : Nat) (v : Spoil) : (s.setSpoil v).latched j = s.latched j := rfl
@[simp] theorem State.rdVal_setSpoil (s : State) (j : Nat) (v : Spoil) : (s.setSpoil v).rdVal j = s.rdVal j := rfl
@[simp] theorem State.dramByte_setSpoil (s : State) (j : Nat) (v : Spoil) : (s.setSpoil v).dramByte j = s.dramByte j := rfl
@[simp] theorem State.hostByte_setSpoil (s : State) (j : Nat) (v : Spoil) : (s.setSpoil v).hostByte j = s.hostByte j := rfl
@[simp] theorem State.enc_setSpoil (s : State) (j : Nat) (v : Spoil) : (s.setSpoil v).enc j = s.enc j := rfl
@[simp] theorem State.sched_setSpoil (s : State) (j : Nat) (v : Spoil) : (s.setSpoil v).sched j = s.sched j := rfl
@[simp] theorem State.head_setSpoil (s : State) (j : Nat) (v : Spoil) : (s.setSpoil v).head j = s.head j := rfl
@[simp] theorem State.seq_setSpoil (s : State) (j : Nat) (v : Spoil) : (s.setSpoil v).seq j = s.seq j := rfl
@[simp] theorem State.port_setSpoil (s : State) (j : Nat) (v : Spoil) : (s.setSpoil v).port j = s.port j := rfl
@[simp] theorem State.face_setSpoil (s : State) (j : Nat) (v : Spoil) : (s.setSpoil v).face j = s.face j := rfl
@[simp] theorem State.fctx_setSpoil (s : State) (j : Nat) (v : Spoil) : (s.setSpoil v).fctx j = s.fctx j := rfl
@[simp] theorem State.sctx_setSpoil (s : State) (j : Nat) (v : Spoil) : (s.setSpoil v).sctx j = s.sctx j := rfl
@[simp] theorem State.lastCand_setSpoil (s : State) (j : Nat) (v : Spoil) : (s.setSpoil v).lastCand j = s.lastCand j := rfl
@[simp] theorem State.stock_setSpoil (s : State) (j : Nat) (v : Spoil) : (s.setSpoil v).stock j = s.stock j := rfl
@[simp] theorem State.closing_setSpoil (s : State) (j : Nat) (v : Spoil) : (s.setSpoil v).closing j = s.closing j := rfl
@[simp] theorem State.kerf_setSpoil (s : State) (j : Nat) (v : Spoil) : (s.setSpoil v).kerf j = s.kerf j := rfl
@[simp] theorem State.bench_setSpoil (s : State) (j : Nat) (v : Spoil) : (s.setSpoil v).bench j = s.bench j := rfl
@[simp] theorem State.core_setSpoil (s : State) (j : Nat) (v : Spoil) : (s.setSpoil v).core j = s.core j := rfl
@[simp] theorem State.box_setSpoil (s : State) (j : Nat) (v : Spoil) : (s.setSpoil v).box j = s.box j := rfl
@[simp] theorem State.uart_setSpoil (s : State) (j : Nat) (v : Spoil) : (s.setSpoil v).uart j = s.uart j := rfl
@[simp] theorem State.chan_setSpoil (s : State) (j : Nat) (v : Spoil) : (s.setSpoil v).chan j = s.chan j := rfl
@[simp] theorem State.reg_setPcie (s : State) (j : Nat) (v : Pcie) : (s.setPcie v).reg j = s.reg j := rfl
@[simp] theorem State.eff_setPcie (s : State) (j : Nat) (v : Pcie) : (s.setPcie v).eff j = s.eff j := rfl
@[simp] theorem State.latched_setPcie (s : State) (j : Nat) (v : Pcie) : (s.setPcie v).latched j = s.latched j := rfl
@[simp] theorem State.rdVal_setPcie (s : State) (j : Nat) (v : Pcie) : (s.setPcie v).rdVal j = s.rdVal j := rfl
@[simp] theorem State.dramByte_setPcie (s : State) (j : Nat) (v : Pcie) : (s.setPcie v).dramByte j = s.dramByte j := rfl
@[simp] theorem State.hostByte_setPcie (s : State) (j : Nat) (v : Pcie) : (s.setPcie v).hostByte j = s.hostByte j := rfl
@[simp] theorem State.enc_setPcie (s : State) (j : Nat) (v : Pcie) : (s.setPcie v).enc j = s.enc j := rfl
@[simp] theorem State.sched_setPcie (s : State) (j : Nat) (v : Pcie) : (s.setPcie v).sched j = s.sched j := rfl
@[simp] theorem State.head_setPcie (s : State) (j : Nat) (v : Pcie) : (s.setPcie v).head j = s.head j := rfl
@[simp] theorem State.seq_setPcie (s : State) (j : Nat) (v : Pcie) : (s.setPcie v).seq j = s.seq j := rfl
@[simp] theorem State.port_setPcie (s : State) (j : Nat) (v : Pcie) : (s.setPcie v).port j = s.port j := rfl
@[simp] theorem State.face_setPcie (s : State) (j : Nat) (v : Pcie) : (s.setPcie v).face j = s.face j := rfl
@[simp] theorem State.fctx_setPcie (s : State) (j : Nat) (v : Pcie) : (s.setPcie v).fctx j = s.fctx j := rfl
@[simp] theorem State.sctx_setPcie (s : State) (j : Nat) (v : Pcie) : (s.setPcie v).sctx j = s.sctx j := rfl
@[simp] theorem State.lastCand_setPcie (s : State) (j : Nat) (v : Pcie) : (s.setPcie v).lastCand j = s.lastCand j := rfl
@[simp] theorem State.stock_setPcie (s : State) (j : Nat) (v : Pcie) : (s.setPcie v).stock j = s.stock j := rfl
@[simp] theorem State.closing_setPcie (s : State) (j : Nat) (v : Pcie) : (s.setPcie v).closing j = s.closing j := rfl
@[simp] theorem State.kerf_setPcie (s : State) (j : Nat) (v : Pcie) : (s.setPcie v).kerf j = s.kerf j := rfl
@[simp] theorem State.bench_setPcie (s : State) (j : Nat) (v : Pcie) : (s.setPcie v).bench j = s.bench j := rfl
@[simp] theorem State.core_setPcie (s : State) (j : Nat) (v : Pcie) : (s.setPcie v).core j = s.core j := rfl
@[simp] theorem State.box_setPcie (s : State) (j : Nat) (v : Pcie) : (s.setPcie v).box j = s.box j := rfl
@[simp] theorem State.uart_setPcie (s : State) (j : Nat) (v : Pcie) : (s.setPcie v).uart j = s.uart j := rfl
@[simp] theorem State.chan_setPcie (s : State) (j : Nat) (v : Pcie) : (s.setPcie v).chan j = s.chan j := rfl
@[simp] theorem State.reg_setJtag (s : State) (j : Nat) (v : Jtag) : (s.setJtag v).reg j = s.reg j := rfl
@[simp] theorem State.eff_setJtag (s : State) (j : Nat) (v : Jtag) : (s.setJtag v).eff j = s.eff j := rfl
@[simp] theorem State.latched_setJtag (s : State) (j : Nat) (v : Jtag) : (s.setJtag v).latched j = s.latched j := rfl
@[simp] theorem State.rdVal_setJtag (s : State) (j : Nat) (v : Jtag) : (s.setJtag v).rdVal j = s.rdVal j := rfl
@[simp] theorem State.dramByte_setJtag (s : State) (j : Nat) (v : Jtag) : (s.setJtag v).dramByte j = s.dramByte j := rfl
@[simp] theorem State.hostByte_setJtag (s : State) (j : Nat) (v : Jtag) : (s.setJtag v).hostByte j = s.hostByte j := rfl
@[simp] theorem State.enc_setJtag (s : State) (j : Nat) (v : Jtag) : (s.setJtag v).enc j = s.enc j := rfl
@[simp] theorem State.sched_setJtag (s : State) (j : Nat) (v : Jtag) : (s.setJtag v).sched j = s.sched j := rfl
@[simp] theorem State.head_setJtag (s : State) (j : Nat) (v : Jtag) : (s.setJtag v).head j = s.head j := rfl
@[simp] theorem State.seq_setJtag (s : State) (j : Nat) (v : Jtag) : (s.setJtag v).seq j = s.seq j := rfl
@[simp] theorem State.port_setJtag (s : State) (j : Nat) (v : Jtag) : (s.setJtag v).port j = s.port j := rfl
@[simp] theorem State.face_setJtag (s : State) (j : Nat) (v : Jtag) : (s.setJtag v).face j = s.face j := rfl
@[simp] theorem State.fctx_setJtag (s : State) (j : Nat) (v : Jtag) : (s.setJtag v).fctx j = s.fctx j := rfl
@[simp] theorem State.sctx_setJtag (s : State) (j : Nat) (v : Jtag) : (s.setJtag v).sctx j = s.sctx j := rfl
@[simp] theorem State.lastCand_setJtag (s : State) (j : Nat) (v : Jtag) : (s.setJtag v).lastCand j = s.lastCand j := rfl
@[simp] theorem State.stock_setJtag (s : State) (j : Nat) (v : Jtag) : (s.setJtag v).stock j = s.stock j := rfl
@[simp] theorem State.closing_setJtag (s : State) (j : Nat) (v : Jtag) : (s.setJtag v).closing j = s.closing j := rfl
@[simp] theorem State.kerf_setJtag (s : State) (j : Nat) (v : Jtag) : (s.setJtag v).kerf j = s.kerf j := rfl
@[simp] theorem State.bench_setJtag (s : State) (j : Nat) (v : Jtag) : (s.setJtag v).bench j = s.bench j := rfl
@[simp] theorem State.core_setJtag (s : State) (j : Nat) (v : Jtag) : (s.setJtag v).core j = s.core j := rfl
@[simp] theorem State.box_setJtag (s : State) (j : Nat) (v : Jtag) : (s.setJtag v).box j = s.box j := rfl
@[simp] theorem State.uart_setJtag (s : State) (j : Nat) (v : Jtag) : (s.setJtag v).uart j = s.uart j := rfl
@[simp] theorem State.chan_setJtag (s : State) (j : Nat) (v : Jtag) : (s.setJtag v).chan j = s.chan j := rfl
@[simp] theorem State.reg_setCal (s : State) (j : Nat) (v : (List CalJob)) : (s.setCal v).reg j = s.reg j := rfl
@[simp] theorem State.eff_setCal (s : State) (j : Nat) (v : (List CalJob)) : (s.setCal v).eff j = s.eff j := rfl
@[simp] theorem State.latched_setCal (s : State) (j : Nat) (v : (List CalJob)) : (s.setCal v).latched j = s.latched j := rfl
@[simp] theorem State.rdVal_setCal (s : State) (j : Nat) (v : (List CalJob)) : (s.setCal v).rdVal j = s.rdVal j := rfl
@[simp] theorem State.dramByte_setCal (s : State) (j : Nat) (v : (List CalJob)) : (s.setCal v).dramByte j = s.dramByte j := rfl
@[simp] theorem State.hostByte_setCal (s : State) (j : Nat) (v : (List CalJob)) : (s.setCal v).hostByte j = s.hostByte j := rfl
@[simp] theorem State.enc_setCal (s : State) (j : Nat) (v : (List CalJob)) : (s.setCal v).enc j = s.enc j := rfl
@[simp] theorem State.sched_setCal (s : State) (j : Nat) (v : (List CalJob)) : (s.setCal v).sched j = s.sched j := rfl
@[simp] theorem State.head_setCal (s : State) (j : Nat) (v : (List CalJob)) : (s.setCal v).head j = s.head j := rfl
@[simp] theorem State.seq_setCal (s : State) (j : Nat) (v : (List CalJob)) : (s.setCal v).seq j = s.seq j := rfl
@[simp] theorem State.port_setCal (s : State) (j : Nat) (v : (List CalJob)) : (s.setCal v).port j = s.port j := rfl
@[simp] theorem State.face_setCal (s : State) (j : Nat) (v : (List CalJob)) : (s.setCal v).face j = s.face j := rfl
@[simp] theorem State.fctx_setCal (s : State) (j : Nat) (v : (List CalJob)) : (s.setCal v).fctx j = s.fctx j := rfl
@[simp] theorem State.sctx_setCal (s : State) (j : Nat) (v : (List CalJob)) : (s.setCal v).sctx j = s.sctx j := rfl
@[simp] theorem State.lastCand_setCal (s : State) (j : Nat) (v : (List CalJob)) : (s.setCal v).lastCand j = s.lastCand j := rfl
@[simp] theorem State.stock_setCal (s : State) (j : Nat) (v : (List CalJob)) : (s.setCal v).stock j = s.stock j := rfl
@[simp] theorem State.closing_setCal (s : State) (j : Nat) (v : (List CalJob)) : (s.setCal v).closing j = s.closing j := rfl
@[simp] theorem State.kerf_setCal (s : State) (j : Nat) (v : (List CalJob)) : (s.setCal v).kerf j = s.kerf j := rfl
@[simp] theorem State.bench_setCal (s : State) (j : Nat) (v : (List CalJob)) : (s.setCal v).bench j = s.bench j := rfl
@[simp] theorem State.core_setCal (s : State) (j : Nat) (v : (List CalJob)) : (s.setCal v).core j = s.core j := rfl
@[simp] theorem State.box_setCal (s : State) (j : Nat) (v : (List CalJob)) : (s.setCal v).box j = s.box j := rfl
@[simp] theorem State.uart_setCal (s : State) (j : Nat) (v : (List CalJob)) : (s.setCal v).uart j = s.uart j := rfl
@[simp] theorem State.chan_setCal (s : State) (j : Nat) (v : (List CalJob)) : (s.setCal v).chan j = s.chan j := rfl
@[simp] theorem State.reg_setSwq (s : State) (j : Nat) (v : (List SwReq)) : (s.setSwq v).reg j = s.reg j := rfl
@[simp] theorem State.eff_setSwq (s : State) (j : Nat) (v : (List SwReq)) : (s.setSwq v).eff j = s.eff j := rfl
@[simp] theorem State.latched_setSwq (s : State) (j : Nat) (v : (List SwReq)) : (s.setSwq v).latched j = s.latched j := rfl
@[simp] theorem State.rdVal_setSwq (s : State) (j : Nat) (v : (List SwReq)) : (s.setSwq v).rdVal j = s.rdVal j := rfl
@[simp] theorem State.dramByte_setSwq (s : State) (j : Nat) (v : (List SwReq)) : (s.setSwq v).dramByte j = s.dramByte j := rfl
@[simp] theorem State.hostByte_setSwq (s : State) (j : Nat) (v : (List SwReq)) : (s.setSwq v).hostByte j = s.hostByte j := rfl
@[simp] theorem State.enc_setSwq (s : State) (j : Nat) (v : (List SwReq)) : (s.setSwq v).enc j = s.enc j := rfl
@[simp] theorem State.sched_setSwq (s : State) (j : Nat) (v : (List SwReq)) : (s.setSwq v).sched j = s.sched j := rfl
@[simp] theorem State.head_setSwq (s : State) (j : Nat) (v : (List SwReq)) : (s.setSwq v).head j = s.head j := rfl
@[simp] theorem State.seq_setSwq (s : State) (j : Nat) (v : (List SwReq)) : (s.setSwq v).seq j = s.seq j := rfl
@[simp] theorem State.port_setSwq (s : State) (j : Nat) (v : (List SwReq)) : (s.setSwq v).port j = s.port j := rfl
@[simp] theorem State.face_setSwq (s : State) (j : Nat) (v : (List SwReq)) : (s.setSwq v).face j = s.face j := rfl
@[simp] theorem State.fctx_setSwq (s : State) (j : Nat) (v : (List SwReq)) : (s.setSwq v).fctx j = s.fctx j := rfl
@[simp] theorem State.sctx_setSwq (s : State) (j : Nat) (v : (List SwReq)) : (s.setSwq v).sctx j = s.sctx j := rfl
@[simp] theorem State.lastCand_setSwq (s : State) (j : Nat) (v : (List SwReq)) : (s.setSwq v).lastCand j = s.lastCand j := rfl
@[simp] theorem State.stock_setSwq (s : State) (j : Nat) (v : (List SwReq)) : (s.setSwq v).stock j = s.stock j := rfl
@[simp] theorem State.closing_setSwq (s : State) (j : Nat) (v : (List SwReq)) : (s.setSwq v).closing j = s.closing j := rfl
@[simp] theorem State.kerf_setSwq (s : State) (j : Nat) (v : (List SwReq)) : (s.setSwq v).kerf j = s.kerf j := rfl
@[simp] theorem State.bench_setSwq (s : State) (j : Nat) (v : (List SwReq)) : (s.setSwq v).bench j = s.bench j := rfl
@[simp] theorem State.core_setSwq (s : State) (j : Nat) (v : (List SwReq)) : (s.setSwq v).core j = s.core j := rfl
@[simp] theorem State.box_setSwq (s : State) (j : Nat) (v : (List SwReq)) : (s.setSwq v).box j = s.box j := rfl
@[simp] theorem State.uart_setSwq (s : State) (j : Nat) (v : (List SwReq)) : (s.setSwq v).uart j = s.uart j := rfl
@[simp] theorem State.chan_setSwq (s : State) (j : Nat) (v : (List SwReq)) : (s.setSwq v).chan j = s.chan j := rfl
@[simp] theorem State.reg_setReleased (s : State) (j : Nat) (v : (List OwnUnit)) : (s.setReleased v).reg j = s.reg j := rfl
@[simp] theorem State.eff_setReleased (s : State) (j : Nat) (v : (List OwnUnit)) : (s.setReleased v).eff j = s.eff j := rfl
@[simp] theorem State.latched_setReleased (s : State) (j : Nat) (v : (List OwnUnit)) : (s.setReleased v).latched j = s.latched j := rfl
@[simp] theorem State.rdVal_setReleased (s : State) (j : Nat) (v : (List OwnUnit)) : (s.setReleased v).rdVal j = s.rdVal j := rfl
@[simp] theorem State.dramByte_setReleased (s : State) (j : Nat) (v : (List OwnUnit)) : (s.setReleased v).dramByte j = s.dramByte j := rfl
@[simp] theorem State.hostByte_setReleased (s : State) (j : Nat) (v : (List OwnUnit)) : (s.setReleased v).hostByte j = s.hostByte j := rfl
@[simp] theorem State.enc_setReleased (s : State) (j : Nat) (v : (List OwnUnit)) : (s.setReleased v).enc j = s.enc j := rfl
@[simp] theorem State.sched_setReleased (s : State) (j : Nat) (v : (List OwnUnit)) : (s.setReleased v).sched j = s.sched j := rfl
@[simp] theorem State.head_setReleased (s : State) (j : Nat) (v : (List OwnUnit)) : (s.setReleased v).head j = s.head j := rfl
@[simp] theorem State.seq_setReleased (s : State) (j : Nat) (v : (List OwnUnit)) : (s.setReleased v).seq j = s.seq j := rfl
@[simp] theorem State.port_setReleased (s : State) (j : Nat) (v : (List OwnUnit)) : (s.setReleased v).port j = s.port j := rfl
@[simp] theorem State.face_setReleased (s : State) (j : Nat) (v : (List OwnUnit)) : (s.setReleased v).face j = s.face j := rfl
@[simp] theorem State.fctx_setReleased (s : State) (j : Nat) (v : (List OwnUnit)) : (s.setReleased v).fctx j = s.fctx j := rfl
@[simp] theorem State.sctx_setReleased (s : State) (j : Nat) (v : (List OwnUnit)) : (s.setReleased v).sctx j = s.sctx j := rfl
@[simp] theorem State.lastCand_setReleased (s : State) (j : Nat) (v : (List OwnUnit)) : (s.setReleased v).lastCand j = s.lastCand j := rfl
@[simp] theorem State.stock_setReleased (s : State) (j : Nat) (v : (List OwnUnit)) : (s.setReleased v).stock j = s.stock j := rfl
@[simp] theorem State.closing_setReleased (s : State) (j : Nat) (v : (List OwnUnit)) : (s.setReleased v).closing j = s.closing j := rfl
@[simp] theorem State.kerf_setReleased (s : State) (j : Nat) (v : (List OwnUnit)) : (s.setReleased v).kerf j = s.kerf j := rfl
@[simp] theorem State.bench_setReleased (s : State) (j : Nat) (v : (List OwnUnit)) : (s.setReleased v).bench j = s.bench j := rfl
@[simp] theorem State.core_setReleased (s : State) (j : Nat) (v : (List OwnUnit)) : (s.setReleased v).core j = s.core j := rfl
@[simp] theorem State.box_setReleased (s : State) (j : Nat) (v : (List OwnUnit)) : (s.setReleased v).box j = s.box j := rfl
@[simp] theorem State.uart_setReleased (s : State) (j : Nat) (v : (List OwnUnit)) : (s.setReleased v).uart j = s.uart j := rfl
@[simp] theorem State.chan_setReleased (s : State) (j : Nat) (v : (List OwnUnit)) : (s.setReleased v).chan j = s.chan j := rfl
@[simp] theorem State.reg_setPool (s : State) (j : Nat) (v : (List (Nat × Nat))) : (s.setPool v).reg j = s.reg j := rfl
@[simp] theorem State.eff_setPool (s : State) (j : Nat) (v : (List (Nat × Nat))) : (s.setPool v).eff j = s.eff j := rfl
@[simp] theorem State.latched_setPool (s : State) (j : Nat) (v : (List (Nat × Nat))) : (s.setPool v).latched j = s.latched j := rfl
@[simp] theorem State.rdVal_setPool (s : State) (j : Nat) (v : (List (Nat × Nat))) : (s.setPool v).rdVal j = s.rdVal j := rfl
@[simp] theorem State.dramByte_setPool (s : State) (j : Nat) (v : (List (Nat × Nat))) : (s.setPool v).dramByte j = s.dramByte j := rfl
@[simp] theorem State.hostByte_setPool (s : State) (j : Nat) (v : (List (Nat × Nat))) : (s.setPool v).hostByte j = s.hostByte j := rfl
@[simp] theorem State.enc_setPool (s : State) (j : Nat) (v : (List (Nat × Nat))) : (s.setPool v).enc j = s.enc j := rfl
@[simp] theorem State.sched_setPool (s : State) (j : Nat) (v : (List (Nat × Nat))) : (s.setPool v).sched j = s.sched j := rfl
@[simp] theorem State.head_setPool (s : State) (j : Nat) (v : (List (Nat × Nat))) : (s.setPool v).head j = s.head j := rfl
@[simp] theorem State.seq_setPool (s : State) (j : Nat) (v : (List (Nat × Nat))) : (s.setPool v).seq j = s.seq j := rfl
@[simp] theorem State.port_setPool (s : State) (j : Nat) (v : (List (Nat × Nat))) : (s.setPool v).port j = s.port j := rfl
@[simp] theorem State.face_setPool (s : State) (j : Nat) (v : (List (Nat × Nat))) : (s.setPool v).face j = s.face j := rfl
@[simp] theorem State.fctx_setPool (s : State) (j : Nat) (v : (List (Nat × Nat))) : (s.setPool v).fctx j = s.fctx j := rfl
@[simp] theorem State.sctx_setPool (s : State) (j : Nat) (v : (List (Nat × Nat))) : (s.setPool v).sctx j = s.sctx j := rfl
@[simp] theorem State.lastCand_setPool (s : State) (j : Nat) (v : (List (Nat × Nat))) : (s.setPool v).lastCand j = s.lastCand j := rfl
@[simp] theorem State.stock_setPool (s : State) (j : Nat) (v : (List (Nat × Nat))) : (s.setPool v).stock j = s.stock j := rfl
@[simp] theorem State.closing_setPool (s : State) (j : Nat) (v : (List (Nat × Nat))) : (s.setPool v).closing j = s.closing j := rfl
@[simp] theorem State.kerf_setPool (s : State) (j : Nat) (v : (List (Nat × Nat))) : (s.setPool v).kerf j = s.kerf j := rfl
@[simp] theorem State.bench_setPool (s : State) (j : Nat) (v : (List (Nat × Nat))) : (s.setPool v).bench j = s.bench j := rfl
@[simp] theorem State.core_setPool (s : State) (j : Nat) (v : (List (Nat × Nat))) : (s.setPool v).core j = s.core j := rfl
@[simp] theorem State.box_setPool (s : State) (j : Nat) (v : (List (Nat × Nat))) : (s.setPool v).box j = s.box j := rfl
@[simp] theorem State.uart_setPool (s : State) (j : Nat) (v : (List (Nat × Nat))) : (s.setPool v).uart j = s.uart j := rfl
@[simp] theorem State.chan_setPool (s : State) (j : Nat) (v : (List (Nat × Nat))) : (s.setPool v).chan j = s.chan j := rfl
@[simp] theorem State.reg_setFree (s : State) (j : Nat) (v : Nat) : (s.setFree v).reg j = s.reg j := rfl
@[simp] theorem State.eff_setFree (s : State) (j : Nat) (v : Nat) : (s.setFree v).eff j = s.eff j := rfl
@[simp] theorem State.latched_setFree (s : State) (j : Nat) (v : Nat) : (s.setFree v).latched j = s.latched j := rfl
@[simp] theorem State.rdVal_setFree (s : State) (j : Nat) (v : Nat) : (s.setFree v).rdVal j = s.rdVal j := rfl
@[simp] theorem State.dramByte_setFree (s : State) (j : Nat) (v : Nat) : (s.setFree v).dramByte j = s.dramByte j := rfl
@[simp] theorem State.hostByte_setFree (s : State) (j : Nat) (v : Nat) : (s.setFree v).hostByte j = s.hostByte j := rfl
@[simp] theorem State.enc_setFree (s : State) (j : Nat) (v : Nat) : (s.setFree v).enc j = s.enc j := rfl
@[simp] theorem State.sched_setFree (s : State) (j : Nat) (v : Nat) : (s.setFree v).sched j = s.sched j := rfl
@[simp] theorem State.head_setFree (s : State) (j : Nat) (v : Nat) : (s.setFree v).head j = s.head j := rfl
@[simp] theorem State.seq_setFree (s : State) (j : Nat) (v : Nat) : (s.setFree v).seq j = s.seq j := rfl
@[simp] theorem State.port_setFree (s : State) (j : Nat) (v : Nat) : (s.setFree v).port j = s.port j := rfl
@[simp] theorem State.face_setFree (s : State) (j : Nat) (v : Nat) : (s.setFree v).face j = s.face j := rfl
@[simp] theorem State.fctx_setFree (s : State) (j : Nat) (v : Nat) : (s.setFree v).fctx j = s.fctx j := rfl
@[simp] theorem State.sctx_setFree (s : State) (j : Nat) (v : Nat) : (s.setFree v).sctx j = s.sctx j := rfl
@[simp] theorem State.lastCand_setFree (s : State) (j : Nat) (v : Nat) : (s.setFree v).lastCand j = s.lastCand j := rfl
@[simp] theorem State.stock_setFree (s : State) (j : Nat) (v : Nat) : (s.setFree v).stock j = s.stock j := rfl
@[simp] theorem State.closing_setFree (s : State) (j : Nat) (v : Nat) : (s.setFree v).closing j = s.closing j := rfl
@[simp] theorem State.kerf_setFree (s : State) (j : Nat) (v : Nat) : (s.setFree v).kerf j = s.kerf j := rfl
@[simp] theorem State.bench_setFree (s : State) (j : Nat) (v : Nat) : (s.setFree v).bench j = s.bench j := rfl
@[simp] theorem State.core_setFree (s : State) (j : Nat) (v : Nat) : (s.setFree v).core j = s.core j := rfl
@[simp] theorem State.box_setFree (s : State) (j : Nat) (v : Nat) : (s.setFree v).box j = s.box j := rfl
@[simp] theorem State.uart_setFree (s : State) (j : Nat) (v : Nat) : (s.setFree v).uart j = s.uart j := rfl
@[simp] theorem State.chan_setFree (s : State) (j : Nat) (v : Nat) : (s.setFree v).chan j = s.chan j := rfl
@[simp] theorem State.reg_setUndef (s : State) (j : Nat) (v : (List Scope)) : (s.setUndef v).reg j = s.reg j := rfl
@[simp] theorem State.eff_setUndef (s : State) (j : Nat) (v : (List Scope)) : (s.setUndef v).eff j = s.eff j := rfl
@[simp] theorem State.latched_setUndef (s : State) (j : Nat) (v : (List Scope)) : (s.setUndef v).latched j = s.latched j := rfl
@[simp] theorem State.rdVal_setUndef (s : State) (j : Nat) (v : (List Scope)) : (s.setUndef v).rdVal j = s.rdVal j := rfl
@[simp] theorem State.dramByte_setUndef (s : State) (j : Nat) (v : (List Scope)) : (s.setUndef v).dramByte j = s.dramByte j := rfl
@[simp] theorem State.hostByte_setUndef (s : State) (j : Nat) (v : (List Scope)) : (s.setUndef v).hostByte j = s.hostByte j := rfl
@[simp] theorem State.enc_setUndef (s : State) (j : Nat) (v : (List Scope)) : (s.setUndef v).enc j = s.enc j := rfl
@[simp] theorem State.sched_setUndef (s : State) (j : Nat) (v : (List Scope)) : (s.setUndef v).sched j = s.sched j := rfl
@[simp] theorem State.head_setUndef (s : State) (j : Nat) (v : (List Scope)) : (s.setUndef v).head j = s.head j := rfl
@[simp] theorem State.seq_setUndef (s : State) (j : Nat) (v : (List Scope)) : (s.setUndef v).seq j = s.seq j := rfl
@[simp] theorem State.port_setUndef (s : State) (j : Nat) (v : (List Scope)) : (s.setUndef v).port j = s.port j := rfl
@[simp] theorem State.face_setUndef (s : State) (j : Nat) (v : (List Scope)) : (s.setUndef v).face j = s.face j := rfl
@[simp] theorem State.fctx_setUndef (s : State) (j : Nat) (v : (List Scope)) : (s.setUndef v).fctx j = s.fctx j := rfl
@[simp] theorem State.sctx_setUndef (s : State) (j : Nat) (v : (List Scope)) : (s.setUndef v).sctx j = s.sctx j := rfl
@[simp] theorem State.lastCand_setUndef (s : State) (j : Nat) (v : (List Scope)) : (s.setUndef v).lastCand j = s.lastCand j := rfl
@[simp] theorem State.stock_setUndef (s : State) (j : Nat) (v : (List Scope)) : (s.setUndef v).stock j = s.stock j := rfl
@[simp] theorem State.closing_setUndef (s : State) (j : Nat) (v : (List Scope)) : (s.setUndef v).closing j = s.closing j := rfl
@[simp] theorem State.kerf_setUndef (s : State) (j : Nat) (v : (List Scope)) : (s.setUndef v).kerf j = s.kerf j := rfl
@[simp] theorem State.bench_setUndef (s : State) (j : Nat) (v : (List Scope)) : (s.setUndef v).bench j = s.bench j := rfl
@[simp] theorem State.core_setUndef (s : State) (j : Nat) (v : (List Scope)) : (s.setUndef v).core j = s.core j := rfl
@[simp] theorem State.box_setUndef (s : State) (j : Nat) (v : (List Scope)) : (s.setUndef v).box j = s.box j := rfl
@[simp] theorem State.uart_setUndef (s : State) (j : Nat) (v : (List Scope)) : (s.setUndef v).uart j = s.uart j := rfl
@[simp] theorem State.chan_setUndef (s : State) (j : Nat) (v : (List Scope)) : (s.setUndef v).chan j = s.chan j := rfl
@[simp] theorem State.reg_setPending (s : State) (j : Nat) (v : (List Instr)) : (s.setPending v).reg j = s.reg j := rfl
@[simp] theorem State.eff_setPending (s : State) (j : Nat) (v : (List Instr)) : (s.setPending v).eff j = s.eff j := rfl
@[simp] theorem State.latched_setPending (s : State) (j : Nat) (v : (List Instr)) : (s.setPending v).latched j = s.latched j := rfl
@[simp] theorem State.rdVal_setPending (s : State) (j : Nat) (v : (List Instr)) : (s.setPending v).rdVal j = s.rdVal j := rfl
@[simp] theorem State.dramByte_setPending (s : State) (j : Nat) (v : (List Instr)) : (s.setPending v).dramByte j = s.dramByte j := rfl
@[simp] theorem State.hostByte_setPending (s : State) (j : Nat) (v : (List Instr)) : (s.setPending v).hostByte j = s.hostByte j := rfl
@[simp] theorem State.enc_setPending (s : State) (j : Nat) (v : (List Instr)) : (s.setPending v).enc j = s.enc j := rfl
@[simp] theorem State.sched_setPending (s : State) (j : Nat) (v : (List Instr)) : (s.setPending v).sched j = s.sched j := rfl
@[simp] theorem State.head_setPending (s : State) (j : Nat) (v : (List Instr)) : (s.setPending v).head j = s.head j := rfl
@[simp] theorem State.seq_setPending (s : State) (j : Nat) (v : (List Instr)) : (s.setPending v).seq j = s.seq j := rfl
@[simp] theorem State.port_setPending (s : State) (j : Nat) (v : (List Instr)) : (s.setPending v).port j = s.port j := rfl
@[simp] theorem State.face_setPending (s : State) (j : Nat) (v : (List Instr)) : (s.setPending v).face j = s.face j := rfl
@[simp] theorem State.fctx_setPending (s : State) (j : Nat) (v : (List Instr)) : (s.setPending v).fctx j = s.fctx j := rfl
@[simp] theorem State.sctx_setPending (s : State) (j : Nat) (v : (List Instr)) : (s.setPending v).sctx j = s.sctx j := rfl
@[simp] theorem State.lastCand_setPending (s : State) (j : Nat) (v : (List Instr)) : (s.setPending v).lastCand j = s.lastCand j := rfl
@[simp] theorem State.stock_setPending (s : State) (j : Nat) (v : (List Instr)) : (s.setPending v).stock j = s.stock j := rfl
@[simp] theorem State.closing_setPending (s : State) (j : Nat) (v : (List Instr)) : (s.setPending v).closing j = s.closing j := rfl
@[simp] theorem State.kerf_setPending (s : State) (j : Nat) (v : (List Instr)) : (s.setPending v).kerf j = s.kerf j := rfl
@[simp] theorem State.bench_setPending (s : State) (j : Nat) (v : (List Instr)) : (s.setPending v).bench j = s.bench j := rfl
@[simp] theorem State.core_setPending (s : State) (j : Nat) (v : (List Instr)) : (s.setPending v).core j = s.core j := rfl
@[simp] theorem State.box_setPending (s : State) (j : Nat) (v : (List Instr)) : (s.setPending v).box j = s.box j := rfl
@[simp] theorem State.uart_setPending (s : State) (j : Nat) (v : (List Instr)) : (s.setPending v).uart j = s.uart j := rfl
@[simp] theorem State.chan_setPending (s : State) (j : Nat) (v : (List Instr)) : (s.setPending v).chan j = s.chan j := rfl

end Sys2Proof.Machine
end

