-- ==== Sys2Proof/Laws/Ops.lean ====
section
/-!
SUPPORT. One lemma for each shared operation: what a guarded register write, a stored field, a counter, a response and a
command of the command line can do.
-/
namespace Sys2Proof.Machine

/-! ### The step and the queue -/

theorem step_cons (s : State) (c : Instr) (rest : List Instr) (h : s.pending = c :: rest) :
    step s = exec c { s with pending := rest } := by
  unfold step; rw [h]

theorem step_nil (s : State) (h : s.pending = []) : step s = tick s := by unfold step; rw [h]

/-! ### Registers -/

/-- A field written to one register leaves every other register. -/
theorem State.reg_setFld_ne (s : State) (a b hi lo v : Nat) (h : b ≠ a) : (s.setFld a hi lo v).reg b = s.reg b := by
  rw [State.setFld, State.reg_setReg, if_neg h]

theorem State.reg_setFlag_ne (s : State) (a b i : Nat) (v : Bool) (h : b ≠ a) : (s.setFlag a i v).reg b = s.reg b :=
  s.reg_setFld_ne a b i i _ h

/-- A counter advanced, saturating (R8). -/
theorem State.reg_addCnt (s : State) (a n b : Nat) :
    (s.addCnt a n).reg b = if b = a then BitVec.ofNat 20 (min ((s.reg a).toNat + n) 0xFFFFF) else s.reg b := by
  rw [State.addCnt, State.reg_setReg]

theorem State.reg_incr_toNat (s : State) (a : Nat) : ((s.incr a).reg a).toNat = min ((s.reg a).toNat + 1) 0xFFFFF := by
  rw [State.incr, State.reg_addCnt, if_pos rfl, BitVec.toNat_ofNat, Nat.mod_eq_of_lt]
  omega

/-- Bit i of a word with a field replaced. -/
theorem putBits_getLsbD (w : Word) (hi lo v i : Nat) (h : i < 20) :
    (putBits w hi lo v).getLsbD i
      = if lo ≤ i ∧ i - lo < hi + 1 - lo then (v % 2 ^ (hi + 1 - lo)).testBit (i - lo) else w.getLsbD i := by
  simp only [putBits, Fld.put, BitVec.getLsbD_or, BitVec.getLsbD_and, BitVec.getLsbD_not, BitVec.getLsbD_ofNat, h, decide_true,
    Bool.true_and, Nat.testBit_shiftLeft, Nat.testBit_two_pow_sub_one]
  by_cases h1 : lo ≤ i
  · by_cases h2 : i - lo < hi + 1 - lo
    · simp [h1, h2]
    · simp only [h1, h2, decide_true, decide_false, Bool.and_false, Bool.not_false, Bool.and_true, and_false, ↓reduceIte,
        Nat.testBit_mod_two_pow, Bool.false_and, Bool.or_false]
  · simp [h1]

/-- A field reads back as it was written, up to its width. -/
theorem bits_putBits (w : Word) (hi lo v : Nat) (h : hi < 20) (hl : lo ≤ hi) : bits (putBits w hi lo v).toNat hi lo = v % 2 ^ (hi + 1 - lo) := by
  apply Nat.eq_of_testBit_eq
  intro i
  simp only [bits, Nat.testBit_mod_two_pow, Nat.testBit_shiftRight]
  by_cases hi' : i < hi + 1 - lo
  · have e : (putBits w hi lo v).toNat.testBit (lo + i) = (putBits w hi lo v).getLsbD (lo + i) := rfl
    rw [e, putBits_getLsbD _ _ _ _ _ (by omega), if_pos (by omega), Nat.add_sub_cancel_left, Nat.testBit_mod_two_pow]
    simp [hi']
  · simp [hi']

theorem State.fld_setFld (s : State) (a hi lo v : Nat) (h : hi < 20) (hl : lo ≤ hi) :
    (s.setFld a hi lo v).fld a hi lo = v % 2 ^ (hi + 1 - lo) := by
  rw [State.fld, State.setFld, State.reg_setReg, if_pos rfl, bits_putBits _ _ _ _ h hl]

/-- A one-bit field reads back as it was written. -/
theorem State.flag_setFlag (s : State) (a i : Nat) (b : Bool) (h : i < 20) : (s.setFlag a i b).flag a i = b := by
  have e : ∀ w : Word, (putBits w i i (b2n b)).toNat.testBit i = (putBits w i i (b2n b)).getLsbD i := fun _ => rfl
  rw [State.flag, State.setFlag, State.setFld, State.reg_setReg, if_pos rfl, e, putBits_getLsbD _ _ _ _ _ h]
  cases b <;> simp [b2n]

/-- Writing register fields changes registers alone. -/
theorem State.setFld_eq (s : State) (a hi lo v : Nat) : s.setFld a hi lo v = { s with regs := (s.setFld a hi lo v).regs } := rfl
theorem State.setFlag_eq (s : State) (a i : Nat) (b : Bool) : s.setFlag a i b = { s with regs := (s.setFlag a i b).regs } := rfl
theorem State.addCnt_eq (s : State) (a n : Nat) : s.addCnt a n = { s with regs := (s.addCnt a n).regs } := rfl
theorem State.incr_eq (s : State) (a : Nat) : s.incr a = { s with regs := (s.incr a).regs } := rfl

/-- Storing a register's fields changes registers alone: that register and, for a reserved encoding, its block's CFGERR. -/
theorem State.store_eq (s : State) (h : Hit) (a : Nat) (w : Word) : s.store h a w = { s with regs := (s.store h a w).regs } := by
  unfold State.store State.cfgerr
  dsimp only
  split
  · split <;> rfl
  · rfl

/-! ### Guarded writes (R33, R377, R433, R489) -/

/-- What a register write by an agent can do: nothing where no register is found or its domain is off; everything becomes
undefined where the agent may not write, the block where it is undefined or a live-unsafe field changes; else what follows. -/
theorem State.guardWrite_cases (s : State) (ag : Agent) (a : Nat) (w : Word) (k : Hit → State → Out) :
    s.guardWrite ag a w k = .next s ∨ s.guardWrite ag a w k = .next s.undefineAll
      ∨ ∃ h, RegMap.find a = some h ∧ s.on h.domain = true ∧ s.mayWrite ag h = true
          ∧ (s.guardWrite ag a w k = .next (s.undefine h)
            ∨ s.isUndef h = false ∧ s.liveUnsafe h a w = false ∧ s.guardWrite ag a w k = k h s) := by
  unfold State.guardWrite
  split
  · exact .inl rfl
  · next h hf =>
    split
    · exact .inl rfl
    · split
      · exact .inr (.inl rfl)
      · refine .inr (.inr ⟨h, hf, by simp_all, by simp_all, ?_⟩)
        split
        · exact .inl rfl
        · exact .inr ⟨by simp_all, by simp_all, rfl⟩

/-- Where a write is ordinary, what follows is done. -/
theorem State.guardWrite_of_writable (s : State) (ag : Agent) (a : Nat) (w : Word) (k : Hit → State → Out)
    (h : s.writable ag a w = true) : ∃ x, RegMap.find a = some x ∧ s.guardWrite ag a w k = k x s := by
  unfold State.writable at h
  unfold State.guardWrite
  split at h
  · next x hx =>
    simp only [Bool.and_eq_true, Bool.not_eq_true'] at h
    exact ⟨x, hx, by rw [hx]; simp [h.1.1.1, h.1.1.2, h.1.2, h.2]⟩
  · simp at h

/-- A guarded write answers the old state, an undefined result, or what follows. -/
theorem State.guardWrite_next (s t : State) (ag : Agent) (a : Nat) (w : Word) (k : Hit → State → Out)
    (h : s.guardWrite ag a w k = .next t) :
    t = s ∨ t = s.undefineAll ∨ ∃ x, RegMap.find a = some x ∧ (t = s.undefine x ∨ k x s = .next t) := by
  rcases s.guardWrite_cases ag a w k with e | e | ⟨x, hx, -, -, e | ⟨-, -, e⟩⟩ <;> rw [h] at e
  · cases e; exact .inl rfl
  · cases e; exact .inr (.inl rfl)
  · cases e; exact .inr (.inr ⟨x, hx, .inl rfl⟩)
  · exact .inr (.inr ⟨x, hx, .inr e.symm⟩)

/-! ### What a read leaves -/

theorem State.ret_eq (s : State) (ag : Agent) (v : BitVec 32) : s.ret ag v = { s with rd := (s.ret ag v).rd } := rfl

theorem State.rdVal_ret (s : State) (ag : Agent) (v : BitVec 32) : (s.ret ag v).rdVal (readerOf ag) = v := by
  unfold State.ret State.rdVal State.setRd; simp only [SMap.get_set, ↓reduceIte]

/-! ### Free values -/

theorem State.draw_snd (s : State) : s.draw.2 = { s with free := s.free + 1 } := rfl

theorem State.drawList_snd (s : State) (n m : Nat) : (s.drawList n m).2 = { s with free := s.free + n } := rfl

/-! ### Repetition -/

/-- An invariant of every step of a fold holds at its end. -/
theorem foldl_keeps {α β : Type} (P : β → Prop) (f : β → α → β) (l : List α) (b : β) (hb : P b)
    (h : ∀ x ∈ l, ∀ b, P b → P (f b x)) : P (l.foldl f b) := by
  induction l generalizing b with
  | nil => exact hb
  | cons a l ih => exact ih _ (h a (List.mem_cons_self ..) b hb) (fun x hx => h x (List.mem_cons_of_mem _ hx))

theorem upTo_keeps {α : Type} (P : α → Prop) (n : Nat) (f : Nat → α → α) (a : α) (ha : P a)
    (h : ∀ i < n, ∀ a, P a → P (f i a)) : P (upTo n f a) :=
  foldl_keeps P _ _ _ ha (fun i hi a => h i (List.mem_range.mp hi) a)

/-! ### Responses and events (R356 to R362) -/

/-- A response changes its channel alone. -/
theorem State.respond_eq (s : State) (ch : Nat) (l : List (List Byte)) (fail : Bool) :
    s.respond ch l fail = { s with chans := (s.respond ch l fail).chans } := by
  unfold State.respond State.sendResponse
  dsimp only
  split
  · rfl
  · split <;> rfl

theorem State.respondOk_eq (s : State) (ch : Nat) (l : List (List Byte)) :
    s.respondOk ch l = { s with chans := (s.respondOk ch l).chans } := s.respond_eq ch _ _

theorem State.respondErr_eq (s : State) (ch : Nat) (e : ErrCode) :
    s.respondErr ch e = { s with chans := (s.respondErr ch e).chans } := s.respond_eq ch _ _

/-- A response leaves every other channel. -/
theorem State.respond_chan_ne (s : State) (ch j : Nat) (l : List (List Byte)) (fail : Bool) (h : j ≠ ch) :
    (s.respond ch l fail).chan j = s.chan j := by
  have e : ∀ (t : State) (v : CmdChan), t.chans = s.chans → (t.setChan ch v).chan j = s.chan j := by
    intro t v ht
    unfold State.chan State.setChan
    rw [SMap.get_set, if_neg h, ht]
  unfold State.respond State.sendResponse
  dsimp only
  split
  · exact e _ _ rfl
  · split <;> exact e _ _ rfl

/-- An event changes the channels alone. -/
theorem State.raise_eq (s : State) (e : Event) : s.raise e = { s with chans := (s.raise e).chans } := by
  unfold State.raise
  split
  · exact upTo_keeps (fun (t : State) => t = { s with chans := t.chans }) _ _ _ rfl
      (fun i _ t ht => by rw [ht]; rfl)
  · rfl

/-! ### Commands of the command line (R348, R353, R364, R409) -/

/-- A command accepted changes, besides its effect, its channel alone (R358, R364). -/
theorem State.accept_eq (s : State) (ch : Chan) (r : CmdOk) : s.accept ch r = { s with chans := (s.accept ch r).chans } := by
  unfold State.accept
  split
  · rfl
  · exact s.respondOk_eq ..
  · rfl

/-- What a command of a channel can do: nothing outside Run or while the channel is not ready, a rejection that changes nothing
else, or its effect with its answer. -/
theorem runCmd_cases (ch : Chan) (s : State) (f : State → CmdM CmdOk) :
    runCmd ch s f = s ∨ (∃ e, runCmd ch s f = s.respondErr ch e)
      ∨ ∃ r, f s = .ok r ∧ runCmd ch s f = r.st.accept ch r := by
  unfold runCmd
  split
  · exact .inl rfl
  · split
    · exact .inr (.inl ⟨_, rfl⟩)
    · split
      · next e _ => exact .inr (.inl ⟨e, rfl⟩)
      · next r hr => exact .inr (.inr ⟨r, hr, rfl⟩)

/-- On a channel that serves commands an accepted command has its effect. -/
theorem runCmd_of_serves (ch : Chan) (s : State) (f : State → CmdM CmdOk) (h : s.serves ch) :
    runCmd ch s f = match f s with
      | .error e => s.respondErr ch e
      | .ok r => r.st.accept ch r := by
  obtain ⟨h1, h2, -⟩ := h
  have hr : s.inRun = true := by unfold State.inRun; rw [h1]; rfl
  unfold runCmd
  rw [hr, h1, h2]
  rfl

/-- An accepted command answers as `answers` says. -/
theorem answers_of_ok (i : Instr) (ch : Chan) (s u : State) (f : State → CmdM CmdOk) (rep : List (List Byte)) (h : s.serves ch)
    (hi : exec i s = .next (runCmd ch s f)) (hf : f s = .ok { st := u, report := rep }) : answers i ch s u :=
  ⟨rep, by rw [hi, runCmd_of_serves ch s f h, hf]; rfl⟩

/-- An accepted long command answers as `answersLater` says. -/
theorem answersLater_of_ok (i : Instr) (ch : Chan) (s u : State) (f : State → CmdM CmdOk) (rep : List (List Byte))
    (w : LongWork) (x : Undo) (h : s.serves ch) (hi : exec i s = .next (runCmd ch s f))
    (hf : f s = .ok { st := u, report := rep, long := some (w, x) }) : answersLater i ch s u :=
  ⟨w, rep, x, by rw [hi, runCmd_of_serves ch s f h, hf]; rfl⟩

/-! ### The DRAM pool (R160, R195, R287) -/

/-- What the foreman allocates at Boot leaves its room, whatever it is. -/
theorem bootRegions_leaves : bootLeaves bootRegions = true := by
  unfold bootRegions
  split
  · assumption
  · decide

/-- While nothing else is allocated the pool has room for every region of up to that size. -/
theorem State.room_of_empty (s : State) (n : Nat) (hp : s.pool = []) (hn : n ≤ bootRoom) : s.room n := by
  obtain ⟨o, ho, hf⟩ := List.any_eq_true.mp bootRegions_leaves
  have hz : poolSize n ≤ bootRoom := by unfold poolSize bootRoom at *; omega
  refine ⟨o, by simpa [hp] using ho, ?_⟩
  simp only [Bool.and_eq_true, decide_eq_true_eq, List.all_eq_true, Bool.not_eq_true', clash, Bool.and_eq_false_iff,
    decide_eq_false_iff_not] at hf
  simp only [poolFits, hp, List.append_nil, Bool.and_eq_true, decide_eq_true_eq, List.all_eq_true, Bool.not_eq_true', clash,
    Bool.and_eq_false_iff, decide_eq_false_iff_not]
  refine ⟨by omega, fun p h => ?_⟩
  have := hf.2 p h
  omega

/-- Where the pool has room, an allocation gives a region that fits and adds it to the pool. -/
theorem State.alloc_of_room (s : State) (n : Nat) (h : s.room n) :
    ∃ (o : Nat) (t : State), s.alloc n = .ok (o, t) ∧ poolFits s.pool (o, poolSize n) = true
      ∧ t.pool = s.pool ++ [(o, poolSize n)] := by
  obtain ⟨o, ho, hf⟩ := h
  simp only [State.alloc]
  split
  · next x hx => exact ⟨x, _, rfl, by simpa using List.find?_some hx, rfl⟩
  · next hx => exact absurd hf (by simpa using List.find?_eq_none.mp hx o (List.mem_cons_of_mem _ ho))

end Sys2Proof.Machine
end

