-- ==== Sys2Proof/WellFormed.lean ====
section
/-!
DEFINITION. Well-formed commands: the checks on operands that their types do not make.
-/
namespace Sys2Proof

/-- An aligned slot of the 40-bit fabric address space (R7, R485). -/
def wfAddr (a : Nat) : Bool := decide (a < 2 ^ 40) && a % 4 == 0

/-- A grid has a centre for each of its places. -/
def Fit2d.wf (g : Fit2d) : Bool := decide (0 < g.cols) && decide (0 < g.rows) && g.centres.length == g.cols * g.rows

/-- Numbers in rising order. -/
def rising : List Nat → Bool
  | a :: b :: l => decide (a < b) && rising (b :: l)
  | _ => true

/-- The edges of a scan row rise, and its quiet zones lie outside them. -/
def ScanRow.wf (r : ScanRow) : Bool := decide (2 ≤ r.edges.length) && rising (r.lo :: r.edges.map (· + 1) ++ [r.hi + 2])

/-- An attempt names a symbology of R223 and holds a well-formed fit. -/
def Attempt.wf (a : Attempt) : Bool :=
  decide (1 ≤ a.sym.val) && match a.found with
    | .grid g => g.wf
    | .rows r => decide (0 < r.narrow) && r.rows.all (fun o => o.all ScanRow.wf)
    | _ => true

/-- A word in error: it had a Manchester or framing error, or its type is reserved (R75). -/
def BadWord.wf (b : BadWord) : Bool := b.err || decide (5 ≤ b.w.toNat / 2 ^ 13)

/-- A payload of a CSI-2 long packet: at most 65,535 bytes. -/
def wfPacket (bs : List Byte) : Bool := decide (bs.length ≤ 65535)

/-- A UNIT code of R423. -/
def wfUnit (u : BitVec 8) : Bool :=
  let n := u.toNat
  decide (n ≤ 0x13) || (decide (0x18 ≤ n) && decide (n ≤ 0x1C)) || (decide (0x20 ≤ n) && decide (n ≤ 0x28))
    || (decide (0x30 ≤ n) && decide (n ≤ 0x37)) || (decide (0x40 ≤ n) && decide (n ≤ 0x44))
    || (decide (0x48 ≤ n) && decide (n ≤ 0x4E)) || (decide (0x50 ≤ n) && decide (n ≤ 0x5F))

/-- The commands whose operands meet the checks of this file. -/
def Instr.wf : Instr → Bool
  | .registerWrite _ a _ | .rcFieldRead _ a | .latchingRead _ a => wfAddr a
  | .bar0Request _ o l _ _ => decide (o < 2 ^ 28) && decide (l ≤ 4096)
  | .bar2Request _ o d _ => decide (o < 2 ^ 35) && decide (d.length ≤ 4096)
  | .configRequest _ r _ _ => decide (r < 1024)
  | .pcieLinkUp w sp => (w == 1 || w == 2 || w == 4 || w == 8) && decide (1 ≤ sp) && decide (sp ≤ 5)
  | .embeddedLine _ _ _ bs _ _ | .imageLine _ _ _ bs _ _ => wfPacket bs
  | .decodeTicket _ _ att => att.all Attempt.wf
  | .spoilReport _ u _ _ => wfUnit u
  | .syncWordError bad => bad.wf
  | _ => true

end Sys2Proof
end

