-- ==== Sys2Proof/Tests/Slice0.lean ====
section
/-!
SUPPORT. The model's own tests: ill-formed terms that the checks refuse; for every obligation with hypotheses a concrete
state and operands that meet them, clause by clause; and single steps whose result the manual gives.
-/
namespace Sys2Proof.Tests
open Sys2Proof.Machine

set_option Elab.async false

/-- An engine in Run with every domain on and the main input valid. -/
def runS : State := { pw := { on := 0xFF, st := .run, mainOk := true } }

/-- A command answers a next state with the given property. -/
def okN (o : Out) (p : State → Bool) : Bool :=
  match o with
  | .next t => p t
  | _ => false

/-- A register is found and has the given property. -/
def hitIs (a : Nat) (p : Hit → Bool) : Bool := (RegMap.find a).any p

/-- An engine whose standby input is not valid. -/
def deadS : State := { pw := { st := .unpowered, on := 0, stbyOk := false } }

/-- An engine in a state of the table, its supplies valid, with these domains on. -/
def inSt (st : PState) (on : BitVec 8) : State := { pw := { st := st, on := on, mainOk := true } }

/-- An entry of the Riddle table. -/
def entX (st : EntSt) : Entry :=
  { st := st, chan := 0, cls := 4, planeA := 3, planeB := 3, mode := 0, box := {}, tight := {}, headA := 15, headB := 15, fl := {}, score := 5, ntiles := 1,
    deadline := 0, edgeTime := 7, arrived := 0, order := 0, gset := false }

/-- A state with this entry as number 4095. -/
def entS (e : Entry) : State := runS.setEnt 4095 (some e)

/-- Bench 7 with this record. -/
def benchS (b : Bench) : State := runS.setBench 7 b

/-- Bench 7 leased, with this core as hewer 7. -/
def coreS (h : Hewer) : State := (benchS { leased := true }).setCore 63 h

/-! ### Ill-formed terms are refused -/

theorem test_wf_unaligned : Instr.wf (.registerWrite .host 2 0) = false := by decide
theorem test_wf_address_high : Instr.wf (.rcFieldRead .host (2 ^ 40)) = false := by decide
theorem test_wf_latching : Instr.wf (.latchingRead .host 1) = false := by decide
theorem test_wf_bar0_offset : Instr.wf (.bar0Request false (2 ^ 28) 4 0xF 0) = false := by decide
theorem test_wf_bar0_length : Instr.wf (.bar0Request false 0 4097 0xF 0) = false := by decide
theorem test_wf_bar2_offset : Instr.wf (.bar2Request false (2 ^ 35) [] false) = false := by decide
theorem test_wf_config_reg : Instr.wf (.configRequest false 1024 0xF 0) = false := by decide
theorem test_wf_link_width : Instr.wf (.pcieLinkUp 3 1) = false := by decide
theorem test_wf_link_speed : Instr.wf (.pcieLinkUp 4 6) = false := by decide
theorem test_wf_grid_count : Fit2d.wf { cols := 2, rows := 1, centres := [⟨0, 0⟩], wideU := 0, wideV := 0 } = false := by decide
theorem test_wf_grid_empty : Fit2d.wf { cols := 0, rows := 1, centres := [], wideU := 0, wideV := 0 } = false := by decide
theorem test_wf_grid_good : Fit2d.wf { cols := 1, rows := 1, centres := [⟨0, 0⟩], wideU := 0, wideV := 0 } = true := by decide
theorem test_wf_row_order : ScanRow.wf { lo := 0, hi := 9, edges := [4, 3] } = false := by decide
theorem test_wf_row_quiet : ScanRow.wf { lo := 5, hi := 9, edges := [3, 4] } = false := by decide
theorem test_wf_row_good : ScanRow.wf { lo := 1, hi := 9, edges := [3, 4] } = true := by decide
theorem test_wf_attempt_sym : Attempt.wf { sym := 0, light := false, mirror := false, found := .grid { cols := 1, rows := 1, centres := [⟨0, 0⟩], wideU := 0, wideV := 0 }, ages := [] } = false := by decide
theorem test_wf_attempt_narrow : Attempt.wf { sym := 4, light := false, mirror := false, found := .rows { rows := [], narrow := 0, height := 9, rev := false }, ages := [] } = false := by decide
theorem test_wf_word : Instr.wf (.syncWordError ⟨0x8000, false⟩) = false ∧ Instr.wf (.syncWordError ⟨0xA000, false⟩) = true
    ∧ Instr.wf (.syncWordError ⟨0x8000, true⟩) = true := by decide
theorem test_wf_unit : Instr.wf (.spoilReport .parity 0x14 .pending 0) = false := by decide
theorem test_wf_unit_good : Instr.wf (.spoilReport .parity 0x27 .pending 0) = true := by decide

/-! ### Witnesses: registers and the queue -/

theorem wit_StepRunsFront : ({ runS with pending := [.refLoss, .linkDown] } : State).pending = .refLoss :: [.linkDown] := by decide

theorem wit_StepIdleTicks : deadS.pending = [] ∧ deadS.powered = false ∧ runS.pending = [] ∧ runS.powered = true := by decide

theorem wit_StepKeepsMemoryCanonical :
    (runS.putDram 0x6FFFFFFFF [1]).memWf = true
      ∧ okN (step { runS.putDram 0x6FFFFFFFF [1] with pending := [.busMasterDisable false] }) (fun _ => true) = true := by
  decide +kernel

theorem wit_DomainOffRegisters :
    (isPrivate 0x20FFFFC = true ∧ State.reset.on (privatePd 0x20FFFFC) = false)
      ∧ isPrivate (Adr.portCtrl 15) = false ∧ isDram (Adr.portCtrl 15) = false
      ∧ hitIs (Adr.portCtrl 15) (fun h => !State.reset.on h.domain) = true := by
  decide +kernel
theorem wit_RegisterWriteStores :
    hitIs (Adr.encMinEdge 3) (fun h => decide (h.blk ∈ [BlockId.kerf, .seam, .enc, .trgc, .trgh, .gpio])
        && decide (Adr.encMinEdge 3 ∉ [Adr.seamCtrl h.i, Adr.encCtrl h.i, Adr.trgcCtrl h.i, Adr.trghCtrl h.i, Adr.gpioEvPush])
        && runS.on h.domain && !runS.isUndef h && ({ runS with released := [.aon] } : State).mayWrite .host h
        && !runS.liveUnsafe h (Adr.encMinEdge 3) 0xFFFFF) = true
      ∧ isPrivate (Adr.encMinEdge 3) = false ∧ isDram (Adr.encMinEdge 3) = false ∧ runS.on 4 = true
      ∧ runS.undefAt (Adr.kerfFill 7) = false := by
  decide +kernel

/-- R221: a Kerf's FILL is an 8-bit field. -/
theorem test_register_write : okN (exec (.registerWrite .foreman (Adr.kerfFill 7) 0xFFFFFFA5) runS)
    (fun t => t.reg (Adr.kerfFill 7) == 0xA5) = true := by
  decide +kernel

theorem wit_ReadClearsRcFields :
    hitIs (Adr.portPktIgn 15) (fun h => decide (h.blk = .port) && runS.on h.domain && !runS.isUndef h) = true
      ∧ isPrivate (Adr.portPktIgn 15) = false ∧ isDram (Adr.portPktIgn 15) = false := by
  decide +kernel

/-- R8, R119: a read of an RC counter returns it and leaves 0. -/
theorem test_rc_read : okN (exec (.rcFieldRead .host (Adr.portPktIgn 15)) (runS.setReg (Adr.portPktIgn 15) 7))
    (fun t => t.rdVal 0 == 7 && t.reg (Adr.portPktIgn 15) == 0) = true := by
  decide +kernel

theorem wit_PositionReadLatches : runS.on 0 = true ∧ runS.undefAt (Adr.encPosL 3) = false := by decide +kernel

/-- R490: POS_L latches the rest of the position. -/
theorem test_latching_read : okN (exec (.latchingRead .foreman (Adr.encPosL 3)) (runS.setEnc 3 { count := 0x123456789ABC }))
    (fun t => t.rdVal 65 == 0x9ABC && ((t.setEnc 3 {}).busRead .foreman (Adr.encPosH 3)).1 == 0x1234) = true := by
  decide +kernel

/-! ### Witnesses: power -/

theorem wit_SuppliesMoveTheState :
    (runS.chan 9).long = none ∧ deadS.pw.st = .unpowered ∧ runS.pw.st ∉ [PState.unpowered, .reset, .standby] ∧ runS.powered = true
      ∧ ((inSt .reset 1).pw.st = .reset ∧ (inSt .reset 1).pw.mainOk = true)
      ∧ (State.reset.pw.st = .reset ∧ State.reset.pw.mainOk = false)
      ∧ (runS.on (2 : Fin 8) = true ∧ runS.on (6 : Fin 8) = true) ∧ (runS.on (1 : Fin 8) = true ∧ runS.on (7 : Fin 8) = true) := by
  decide

theorem wit_WakeHeldDuringEntry :
    (inSt .entering 1).pw.st = .entering ∧ (inSt .entering 1).wakeEnabled (.uart 0) = false
      ∧ ((inSt .entering 1).setFlag Adr.pwrWake 8 true).wakeEnabled (.gpio 7) = true
      ∧ ((inSt .entering 1).setFlag Adr.pwrWake 8 true).wakeSeen (.gpio 7) = true
      ∧ (((inSt .entering 1).setReg (Adr.encCtrl 3) 0xFFFFF).setEnc 3 { lastEdge := some 0 }).wakeEnabled (.encoder 3) = true
      ∧ (((inSt .entering 1).setReg (Adr.encCtrl 3) 0xFFFFF).setEnc 3 { lastEdge := some 0 }).wakeSeen (.encoder 3) = true
      ∧ ((inSt .entering 1).setFlag Adr.pwrWake 8 true).pw.st = .entering
      ∧ ((inSt .entering 1).setFlag Adr.pwrWake 8 true).pw.wakeHeld = none
      ∧ ((inSt .entering 1).setFlag Adr.pwrWake 8 true).pw.mainOk = true
      ∧ ((inSt .entering 1).setFlag Adr.pwrWake 8 true).allBelow 100 = true
      ∧ ({ (inSt .entering 1).setFlag Adr.pwrWake 0 true with pw := { st := .entering } } : State).wakeEnabled .sync = true
      ∧ ({ (inSt .entering 1).setFlag Adr.pwrWake 0 true with pw := { st := .entering } } : State).pw.mainOk = false := by
  decide +kernel

/-- R29: held, then Boot without Standby. -/
theorem test_wake_held :
    okN (exec (.wakeEvent (.gpio 7)) ((inSt .entering 1).setFlag Adr.pwrWake 8 true)) (fun t => t.pw.st == .entering
      && okN (exec .standbyEntryComplete t) (fun u => u.pw.st == .boot)) = true := by
  decide +kernel

theorem wit_RunStandbyAndClocks :
    ((inSt .boot 0x83).pw.st = .boot ∧ (inSt .boot 0x83).flag Adr.sysBoot 2 = false ∧ (inSt .boot 0x83).flash.bootSet = none)
      ∧ ((inSt .drain 0xFF).pw.st = .drain ∧ (inSt .drain 0xFF).slabOpen = false ∧ (inSt .drain 0xFF).riddle.table = []
          ∧ (inSt .drain 0xFF).res.staging = [])
      ∧ 30000 * msT ≤ ((inSt .drain 0xFF).setTime 6000000000).since ((inSt .drain 0xFF).setTime 6000000000).pw.drainAt
      ∧ ((inSt .entering 1).pw.st = .entering ∧ (inSt .entering 1).pw.wakeHeld = none)
      ∧ (((inSt .standby 1).setFlag Adr.pwrWake 0 true).wakeEnabled .sync = true
          ∧ ((inSt .standby 1).setFlag Adr.pwrWake 0 true).wakeSeen .sync = true ∧ (inSt .standby 1).pw.st = .standby
          ∧ (inSt .standby 1).pw.mainOk = true ∧ (inSt .standby 1).allBelow 100 = true)
      ∧ (runS.pw.st = .run ∧ 440 < (441 : BitVec 12).toInt ∧ 1 ≤ SMap.get (fun _ => 0) (runS.setPw { runS.pw with hot := [(7, 1)] }).pw.hot 7)
      ∧ ((runS.setPw { runS.pw with throttled := true, coolSince := some 0 }).pw.throttled = true
          ∧ 100 * msT ≤ (runS.setTime 20000000).since 0)
      ∧ (runS.pw.refOk = true ∧ (runS.setPw { runS.pw with refOk := false }).pw.refOk = false) := by
  decide +kernel

/-- R410: the second sample above 110 °C in Run enters Standby with cause 4. -/
theorem test_overheat : okN (exec (.temperatureSample 7 441) (runS.setPw { runS.pw with hot := [(7, 1)] }))
    (fun t => t.pw.st == .entering && t.pw.cause == 4 && t.pw.on == 1) = true := by
  decide +kernel

/-- R26: Boot ends in Run. -/
theorem test_run_entry : okN (exec .runEntry (inSt .boot 0x83)) (fun t => t.pw.st == .run && t.pw.on == 0xFF) = true := by
  decide +kernel

theorem wit_StatesMoveAsTabled : okN (exec .resetRelease (inSt .reset 1)) (fun t => t.pw.st == .boot) = true
    ∧ okN (exec (.currentLimitTrip 7 9000) runS) (fun t => t.pw.st == .reset && t.pw.cause == 7) = true
    ∧ okN (exec .standbyInputLost runS) (fun t => t.pw.st == .unpowered) = true
    ∧ okN (exec (.mainInputUndervoltage 9000) runS) (fun t => t.pw.st == .reset && t.pw.cause == 3) = true
    ∧ okN (exec (.refRestore 5) (runS.setPw { runS.pw with refOk := false })) (fun t => t.pw.refOk) = true := by
  decide +kernel
/-! ### Witnesses: host link -/

/-- Run with the link up and the host's memory writable. -/
def linkS : State := { runS with pcie := { up := true, width := 8, speed := 5, bme := true, mse := true } }

theorem wit_HostLinkEvents : runS.on 1 = true ∧ (8 : Nat) ∈ [1, 2, 4, 8] ∧ linkS.on 1 = true ∧ linkS.pcie.up = true
    ∧ linkS.pcie.cfg = [] := by
  decide

/-- R470: the identity registers. -/
theorem test_config_read : okN (exec (.configRequest false 2 0xF 0) linkS) (fun t => leNat t.pcie.data == 0x11800000) = true := by
  decide +kernel

/-- R475: a link-down resets the configuration space and is counted. -/
theorem test_link_down : okN (exec .linkDown (linkS.setReg Adr.pcieLinkdn 0xFFFFF))
    (fun t => t.pcie.cfg == [] && !t.hostCan && t.reg Adr.pcieLinkdn == 0xFFFFF) = true := by
  decide +kernel

theorem wit_HostWindows :
    (linkS.on 1 = true ∧ linkS.pcie.up = true ∧ linkS.pcie.mse = true ∧ linkS.pcie.d3 = false)
      ∧ (0xFFFFFFC % 4 = 0 ∧ 0xFFFFFFC < 0x10000000) ∧ linkS.on 7 = true ∧ 0x6FFFFFFFE + [1, 2].length ≤ dramSize
      ∧ (0x6FFFFFFFF < dramSize ∧ 0x6FFFFFFFF + [(1 : Byte)].length ≤ dramSize) ∧ dramSize ≤ 0x700000000 := by
  decide

/-- R473: a write below the end of usable DRAM stores, one past it is discarded. -/
theorem test_bar2 : okN (exec (.bar2Request true 0x6FFFFFFFE [1, 2] false) linkS) (fun t => t.dramRun 0x6FFFFFFFE 2 == [1, 2]) = true
    ∧ okN (exec (.bar2Request true 0x700000000 [1] false) linkS) (fun t => t.dram == []) = true := by
  decide +kernel

/-- R472: BAR0 writes a register as the host's fabric write does. -/
theorem test_bar0 : okN (exec (.bar0Request false Adr.sysVariant 4 0xF 0) linkS)
    (fun t => t.pcie.data == leBytes (linkS.busRead .host Adr.sysVariant).1.toNat 4 && !t.pcie.ur) = true := by
  decide +kernel

theorem wit_RingsEnabledAndConsumed :
    linkS.on 1 = true
      ∧ (linkS.pcie.up = true ∧ linkS.pcie.bme = true ∧ ({ linkS.pcie with stale := true } : Pcie).stale = true
          ∧ (linkS.setFlag Adr.pcieCtrl 1 true).flag Adr.pcieCtrl 1 = true)
      ∧ (linkS.flag Adr.pcieCtrl 1 = false ∧ linkS.hostCan = true ∧ linkS.undefAt Adr.pcieCtrl = false
          ∧ linkS.undefAt (Adr.pcieStreamCtrlEn 47) = false) ∧ linkS.flag Adr.pcieCtrl 0 = false ∧ linkS.ringEn 47 = false
      ∧ ((linkS.setReg Adr.pcieResProd 0x400).reg Adr.pcieResProd - (0 : Word)).toNat ≤ linkS.resN
      ∧ linkS.resN < ((linkS.setReg Adr.pcieResProd 0x401).reg Adr.pcieResProd - (0 : Word)).toNat
      ∧ ((1 : Word).toNat < (linkS.setReg Adr.pciePaySize 1).payUnits ∧ linkS.payUnits ≤ (0xFFFFF : Word).toNat)
      ∧ (linkS.reg (Adr.pcieStreamProd 47) - (0 : Word)).toNat ≤ linkS.ringUnits 47
      ∧ linkS.ringUnits 47 < (linkS.reg (Adr.pcieStreamProd 47) - (1 : Word)).toNat := by
  decide +kernel

/-- R480: a consumer index with exactly the ring's size behind the producer is taken, one more is not. -/
theorem test_res_cons : okN (exec (.resConsWrite .host 1) (linkS.setReg Adr.pcieResProd 0x401)) (fun t => t.reg Adr.pcieResCons == 1) = true
    ∧ okN (exec (.resConsWrite .host 0) (linkS.setReg Adr.pcieResProd 0x401))
        (fun t => t.reg Adr.pcieResCons == 0 && t.flag Adr.pcieStatus 11) = true := by
  decide +kernel

/-- R482: enabling a ring zeroes its indices. -/
theorem test_ring_enable : okN (exec (.streamRingEnable .foreman 47 true) (linkS.setReg (Adr.pcieStreamProd 47) 5))
    (fun t => t.ringEn 47 && t.reg (Adr.pcieStreamProd 47) == 0) = true := by
  decide +kernel
/-! ### Witnesses: encoders, triggers, SYNC, sequencers -/

/-- Encoder channel 3 enabled with a CTRL word, its last accepted edge at TIME 0, the time 1 s. -/
def encS (ctrl : Word) : State := ((runS.setReg (Adr.encCtrl 3) ctrl).setEnc 3 { lastEdge := some 0, lastIdx := some 0 }).setTime 200000000

theorem wit_CountEdges :
    ((encS 1).powered = true ∧ (encS 1).encEn 3 = true)
      ∧ ((encS 1).fld (Adr.encCtrl 3) 2 1 = 0 ∧ (some true).any (edgeSelected ((encS 1).fld (Adr.encCtrl 3) 4 3)) = true
          ∧ (encS 1).edgeOk 3 ((encS 1).enc 3).lastEdge = true)
      ∧ ((encS 3).fld (Adr.encCtrl 3) 2 1 = 1 ∧ (some true).any (edgeSelected ((encS 3).fld (Adr.encCtrl 3) 4 3)) = true
          ∧ (none : Option Bool).any (edgeSelected ((encS 3).fld (Adr.encCtrl 3) 4 3)) = false ∧ (encS 3).encEn 3 = true
          ∧ (encS 3).edgeOk 3 ((encS 3).enc 3).lastEdge = true)
      ∧ (((encS 1).setReg (Adr.encMinEdge 3) 1).setTime 0).edgeOk 3 (some 0) = false
      ∧ (some false).any (edgeSelected ((encS 1).fld (Adr.encCtrl 3) 4 3)) = false := by
  decide +kernel

/-- R52: step and direction. -/
theorem test_count : okN (exec (.encCandidateEdge 3 (some true) none true) (encS 1)) (fun t => (t.enc 3).count == 1) = true
    ∧ okN (exec (.encCandidateEdge 3 (some true) none false) (encS 1)) (fun t => (t.enc 3).count == 0xFFFFFFFFFFFF) = true := by
  decide +kernel

/-- R54: an edge sooner than MIN_EDGE is rejected and counted. -/
theorem test_glitch : okN (exec (.encCandidateEdge 3 (some true) none true) (((encS 1).setReg (Adr.encMinEdge 3) 1).setTime 0))
    (fun t => (t.enc 3).count == 0 && t.reg (Adr.encGlitchCnt 3) == 1) = true := by
  decide +kernel

theorem wit_WindowsStandstillPresets :
    ((encS 1).eff (Adr.encWindow 3)).toNat * usT ≤ (encS 1).since ((encS 1).enc 3).winStart
      ∧ (((encS 1).setFlag (Adr.encStatus 3) 0 true).flag (Adr.encStatus 3) 0 = true ∧ ((encS 1).enc 3).lastEdge = some 0
          ∧ ((encS 1).reg (Adr.encStandstill 3)).toNat * usT ≤ (encS 1).since 0)
      ∧ (encS 1).writable .foreman (Adr.encCtrl 3) (putBits ((encS 1).reg (Adr.encCtrl 3)) 9 9 1) = true
      ∧ (encS 1).presetBarred 3 = false ∧ ((encS 1).setFlag (Adr.trgcCtrl 3) 0 true).presetBarred 3 = true
      ∧ ((encS 1).setFlag (Adr.trgcCtrl 3) 0 true).writable .foreman (Adr.encCtrl 3) (putBits ((encS 1).reg (Adr.encCtrl 3)) 9 9 1) = true := by
  decide +kernel

/-- R58: a window closes with its edges in MAG and WINSEQ advanced. -/
theorem test_window : okN (exec (.speedWindowClose 3 false)
      (((encS 1).setEnc 3 { accepted := 1000000 }).setReg (Adr.encStatus 3) 0xFF01))
    (fun t => t.fld (Adr.encSpeed 3) 18 0 == 524287 && t.fld (Adr.encStatus 3) 15 8 == 0 && (t.enc 3).accepted == 0) = true := by
  decide +kernel

/-- R65: a preset loads the count; with the schedule on it sets CFGERR. -/
theorem test_preset : okN (exec (.encPreset .foreman 3) ((encS 1).setReg (Adr.encPresetH 3) 0xFFFF))
      (fun t => (t.enc 3).count == 0xFFFF00000000) = true
    ∧ okN (exec (.encPreset .foreman 3) ((encS 1).setFlag (Adr.trgcCtrl 3) 0 true)) (fun t => t.flag (Adr.encStatus 3) 4) = true := by
  decide +kernel

/-- Index edges of channel 3: period 100, tolerance 2, reference 0 known, count as given, CTRL as given. -/
def idxS (ctrl : Word) (n : BitVec 48) : State :=
  ((((encS ctrl).setEnc 3 { count := n }).setEff (Adr.encIndexPeriod 3) 100).setEff (Adr.encIndexTol 3) 2).setReg (Adr.encStatus 3) 4

theorem wit_IndexEdges :
    ((idxS 1 100).powered = true ∧ (idxS 1 100).encEn 3 = true ∧ (idxS 1 100).edgeOk 3 ((idxS 1 100).enc 3).lastIdx = true)
      ∧ (((encS 1).eff (Adr.encIndexPeriod 3)).setWidth 48 = (0 : BitVec 48) ∨ (encS 1).flag (Adr.encStatus 3) 2 = false)
      ∧ (((idxS 1 100).eff (Adr.encIndexPeriod 3)).setWidth 48 ≠ (0 : BitVec 48) ∧ (idxS 1 100).flag (Adr.encStatus 3) 2 = true)
      ∧ diff48 100 100 = 0 ∧ (diff48 102 100 ≠ 0 ∧ (diff48 102 100).natAbs ≤ 2 ∧ (idxS 1 102).flag (Adr.encCtrl 3) 7 = false)
      ∧ (idxS 0x81 98).flag (Adr.encCtrl 3) 7 = true ∧ 2 < (diff48 103 100).natAbs := by
  decide +kernel

/-- R62: slip, snap and fault at the edge of the tolerance. -/
theorem test_index :
    okN (exec (.indexEdge 3 true) (idxS 1 102)) (fun t => (t.enc 3).count == 102 && t.reg (Adr.encSlipCnt 3) == 1
        && t.reg (Adr.encIdxDev 3) == 2) = true
      ∧ okN (exec (.indexEdge 3 true) (idxS 0x81 98)) (fun t => (t.enc 3).count == 100 && t.reg (Adr.encSnapCnt 3) == 1) = true
      ∧ okN (exec (.indexEdge 3 true) (idxS 0x81 103)) (fun t => (t.enc 3).count == 103 && t.reg (Adr.encIfaultCnt 3) == 1) = true := by
  decide +kernel

theorem wit_SchedulesHeadsAndGpio_heads :
    (runS.schedOn 3 = false ∧ runS.writable .foreman (Adr.trgcCtrl 3) (putBits (runS.reg (Adr.trgcCtrl 3)) 0 0 1) = true
        ∧ (runS.setReg (Adr.trgcCtrl 3) 4).flag (Adr.trgcCtrl 3) 2 = true)
      ∧ (runS.setReg (Adr.trgcCtrl 3) 1).writable .foreman (Adr.trgcCtrl 3) (putBits 1 0 0 0) = true
      ∧ (runS.headEn 15 = false ∧ runS.writable .foreman (Adr.trghCtrl 15) (putBits (runS.reg (Adr.trghCtrl 15)) 0 0 1) = true)
      ∧ runS.writable .foreman (Adr.trghCtrl 15) (putBits (runS.reg (Adr.trghCtrl 15)) 0 0 0) = true
      ∧ (((runS.setHead 15 { trig := true, fall := 5 }).setTime 5).head 15).trig = true
      ∧ ((((runS.setHead 15 { trig := true, fall := 5 }).setTime 5).head 15).fall - (5 : BitVec 64)).toInt ≤ 0 := by
  decide +kernel

/-- R68: the origin HERE is the point after the count. -/
theorem test_schedule : okN (exec (.scheduleEnable .foreman 3) ((runS.setReg (Adr.trgcCtrl 3) 4).setEnc 3 { count := 9 }))
    (fun t => t.schedOn 3 && (t.sched 3).x0 == fix48 10 && (t.sched 3).k == 0xFFFFFFFFFFFF) = true := by
  decide +kernel

/-- GPIO with this many events waiting and EV_CTRL as given; the staged event lies at 0, the count of its channel as given. -/
def gpioS (n : Nat) (ctrl : Word) (c : BitVec 48) : State :=
  (((runS.setGpio { pend := List.replicate n ⟨0, 0, 0, 0, 0⟩ }).setReg Adr.gpioEvCtrl ctrl).setEnc 0 { count := c })

theorem wit_SchedulesHeadsAndGpio_gpio :
    (gpioS 31 0 0).writable .foreman Adr.gpioEvPush 1 = true
      ∧ ((gpioS 31 0 0xFFFFFFFFFFFF).gpio.pend.length < 32 ∧ 0 < diff48 (gpioS 31 0 0xFFFFFFFFFFFF).gpioStaged.pos
          ((gpioS 31 0 0xFFFFFFFFFFFF).enc (gpioS 31 0 0xFFFFFFFFFFFF).gpioStaged.chan.toNat).count)
      ∧ 32 ≤ (gpioS 32 0 0).gpio.pend.length
      ∧ (diff48 (gpioS 0 0 0).gpioStaged.pos ((gpioS 0 0 0).enc (gpioS 0 0 0).gpioStaged.chan.toNat).count ≤ 0
          ∧ (gpioS 0 0 0).flag Adr.gpioEvCtrl 7 = false ∧ (gpioS 0 0x80 0).flag Adr.gpioEvCtrl 7 = true
          ∧ diff48 (gpioS 0 0x80 0).gpioStaged.pos ((gpioS 0 0x80 0).enc (gpioS 0 0x80 0).gpioStaged.chan.toNat).count ≤ 0)
      ∧ runS.writable .foreman Adr.gpioEvPush 2 = true
      ∧ (SMap.get noPulse ({ runS with gpio := { pulses := [(7, some (0, true))] } } : State).gpio.pulses 7 = some (0, true)
          ∧ ((0 : BitVec 64) - runS.time).toInt ≤ 0) := by
  decide +kernel

/-- R80: ahead of the count the event waits, at it it is late. -/
theorem test_gpio : okN (exec (.gpioEvPush .foreman) (gpioS 31 0 0xFFFFFFFFFFFF)) (fun t => t.gpio.pend.length == 32) = true
    ∧ okN (exec (.gpioEvPush .foreman) (gpioS 0 0x80 0)) (fun t => t.gpio.pend == [] && t.flag Adr.gpioOut 0) = true
    ∧ okN (exec (.gpioEvPush .foreman) (gpioS 0 0 0)) (fun t => t.reg Adr.gpioEvDrop == 1) = true := by
  decide +kernel

/-- A master with three slaves, and a slave, at a time. -/
def syncM (t : BitVec 64) : State := (runS.setReg Adr.syncCtrl 0x431).setTime t
def syncV (t : BitVec 64) : State := (runS.setReg Adr.syncCtrl 0xE).setTime t

theorem wit_SyncMaster :
    ((syncM 9).syncMaster = true ∧ (syncM 9).writable .foreman Adr.syncCtrl (putBits ((syncM 9).reg Adr.syncCtrl) 6 6 1) = true
        ∧ (syncM 9).sync.loop = none)
      ∧ (((syncM 3999).setSync { loop := some (0x1FFF, 0) }).since 0 < 4000 ∧ 4000 ≤ (syncM 4000).since 0)
      ∧ 20000 ≤ (syncM 20000).since (syncM 20000).sync.lastSent
      ∧ ((syncM 20000000).flag Adr.syncCtrl 10 = true ∧ ((syncM 20000000).setSync { done := true }).sync.done = true
          ∧ 20000000 ≤ (syncM 20000000).since 0) := by
  decide +kernel

theorem wit_SyncSlave :
    (syncV 9).syncSlave = true
      ∧ ((syncV 9).edgesBefore (syncV 9).syncChan ((syncV 9).time - BitVec.ofNat 64 0) (syncV 9).syncLatency).length ≤ 63
      ∧ (((syncV 9).setEnc 0 { hist := List.replicate 63 (9, false) }).edgesBefore 0 9 (syncV 9).syncLatency).length ≤ 63
      ∧ (syncV 9).stateEdges 0 = []
      ∧ 63 < (((syncV 9).setEnc 0 { hist := List.replicate 64 (9, false) }).edgesBefore 0 9 (syncV 9).syncLatency).length
      ∧ (((syncV 9).setSync { await := true }).sync.fresh = false ∧ ((syncV 9).setSync { await := true }).sync.await = true
          ∧ ((syncV 9).setSync { await := true }).tickAgrees (BitVec.toNat (0 : BitVec 6)) 0 = true
          ∧ ((syncV 9).setSync { await := true }).seqsFit (BitVec.toNat (0 : BitVec 6)) = true
          ∧ ∀ q : Fin 4, ((syncV 9).setSync { await := true }).seqEn q = true
              → ((syncV 9).setSync { await := true }).seqChan q ≠ ((syncV 9).setSync { await := true }).syncChan)
      ∧ (BadWord.mk 0 true).err = true ∧ 5 ≤ (BadWord.mk 0xA000 false).w.toNat / 2 ^ 13
      ∧ ((syncV 40000).setFlag Adr.syncStatus 0 true).syncLocked = true ∧ 40000 ≤ (syncV 40000).since 0 := by
  decide +kernel

theorem wit_SequencerWrites :
    (runS.schedOn (runS.seqChan 3) = false ∧ (runS.seq 3).swap = false ∧ (runS.seq 3).held = none)
      ∧ ((runS.setFlag (Adr.trgcCtrl 0) 0 true).schedOn ((runS.setFlag (Adr.trgcCtrl 0) 0 true).seqChan 3) = true
          ∧ (runS.setFlag (Adr.trgcCtrl 0) 0 true).writable .foreman (Adr.seqCtrl 3) 1 = true)
      ∧ (({ runS with seqs := [(3, { swap := true })] } : State).seq 3).swap = true
      ∧ (runS.seqEn 3 = false ∧ runS.writable .foreman (Adr.seqCtrl 3) (putBits (runS.reg (Adr.seqCtrl 3)) 0 0 1) = true)
      ∧ ((runS.setReg (Adr.seqCtrl 3) 1).seqEn 3 = true ∧ (runS.setReg (Adr.seqCtrl 3) 1).writable .foreman (Adr.seqCtrl 3) 0 = true)
      ∧ ((runS.setReg (Adr.seqCtrl 3) 1).seqBank 3 ≠ true
          ∧ (runS.setReg (Adr.seqCtrl 3) 1).writable .foreman (Adr.seqCtrl 3) (putBits ((runS.setReg (Adr.seqCtrl 3) 1).reg (Adr.seqCtrl 3)) 3 3 (b2n true)) = true)
      ∧ (runS.seqChan 3 ≠ 2 ∧ runS.writable .foreman (Adr.seqCtrl 3) (putBits (runS.reg (Adr.seqCtrl 3)) 2 1 (2 : Fin 4)) = true) := by
  decide +kernel

/-- R91: an enabled sequencer has a table record of its bank in force. -/
theorem test_seq : okN (exec (.seqEnable .foreman 3) runS) (fun t => t.seqEn 3 && (t.seq 3).swap == false
    && match (t.seq 3).newer with
      | some (.table _ b n) => b == false && n == runS.seqLen 3 false
      | _ => false) = true := by
  decide +kernel
/-! ### Witnesses: camera ports -/

/-- A tag FIFO entry of port 15's head. -/
def tagE (index : BitVec 13) (num : BitVec 16) : TagEnt := { tag := { index := index, head := 15 }, trignum := num, n := 512 }

/-- Port 15 enabled with stream 1 on channel 1, data type RAW8, in effect, its slab as given, one tag waiting. -/
def portS (x : PStream) (e : TagEnt) : State :=
  (((runS.setReg (Adr.portCtrl 15) 0x21).setReg (Adr.portFilt 15 1) 0x2A1).setEff (Adr.portFilt 15 1) 0x2A1).setPort 15
    { st := [(1, { x with act := true })] } |>.setHead 15 { tags := [e] }

/-- An open, anchored slab of 512 lines with r lines. -/
def slabX (r : Nat) : PStream := { open_ := true, anchor := some (tagE 0 0xFFFF), n := 512, r := r }

/-- The same port with EMB on channel 1, data type 12H, and counter-checked alignment; the slab is not anchored yet. -/
def embS : State :=
  ((portS { open_ := true, align := true } (tagE 3 0x1234)).setEff (Adr.portCtrl 15) 0x40).setEff (Adr.portEmbFilt 15) 0x121

theorem wit_SlabsOpenAndClose :
    (portS {} (tagE 0 0)).portOn 15 = true
      ∧ ((portS {} (tagE 0 0)).filtVc 15 1 = ({ vc := 1 } : FsHdr).vc.toNat ∧ (portS {} (tagE 0 0)).filtVc 15 0 ≠ ({ vc := 1 } : FsHdr).vc.toNat
          ∧ (portS {} (tagE 0 0)).flag (Adr.portCtrl 15) 5 = true ∧ (portS {} (tagE 0 0)).imgRefused 15 1 ({ vc := 1 } : FsHdr).vc.toNat = false)
      ∧ (∀ st : Fin 2, (portS {} (tagE 0 0)).filtVc 15 st ≠ (15 : BitVec 4).toNat
          ∧ ((portS {} (tagE 0 0)).strAct 15 st && (portS {} (tagE 0 0)).actVc 15 st == (15 : BitVec 4).toNat) = false)
      ∧ (((portS (slabX 511) (tagE 0 0x1FE)).strAct 15 1 && (portS (slabX 511) (tagE 0 0x1FE)).actVc 15 1 == (1 : BitVec 4).toNat
            && (portS (slabX 511) (tagE 0 0x1FE)).actDt 15 1 == (0x2A : BitVec 6).toNat) = true
          ∧ (portS (slabX 511) (tagE 0 0x1FE)).strAct 15 0 = false ∧ (portS (slabX 511) (tagE 0 0x1FE)).embOn 15 = false
          ∧ ((portS (slabX 511) (tagE 0 0x1FE)).pst 15 1).anchor = some (tagE 0 0xFFFF)
          ∧ ((portS (slabX 511) (tagE 0 0x1FE)).pst 15 1).r < ((portS (slabX 511) (tagE 0 0x1FE)).pst 15 1).n
          ∧ (portS (slabX 511) (tagE 0 0x1FE)).ptrTag 15 1 = some (tagE 0 0x1FE)
          ∧ (tagE 0 0x1FE).trignum = (tagE 0 0xFFFF).trignum + BitVec.ofNat 16 511)
      ∧ ((embS.embOn 15 && embS.efld (Adr.portEmbFilt 15) 3 0 == (1 : BitVec 4).toNat
            && embS.efld (Adr.portEmbFilt 15) 9 4 == (0x12 : BitVec 6).toNat) = true
          ∧ (embS.strAct 15 1 && embS.actVc 15 1 == (1 : BitVec 4).toNat) = true ∧ embS.actDt 15 1 ≠ (0x12 : BitVec 6).toNat
          ∧ embS.strAct 15 0 = false ∧ embS.alignOn 15 1 = true ∧ (embS.port 15).learn = false ∧ (embS.pst 15 1).open_ = true
          ∧ (embS.pst 15 1).embdone = false ∧ (embS.pst 15 1).anchor = none ∧ (embS.pst 15 1).dead = false
          ∧ bits (embS.pst 15 1).cnt.toNat 9 0 + 2 ≤ [(0x12 : Byte), 0x34].length ∧ embS.ptrTag 15 1 = some (tagE 3 0x1234)
          ∧ (tagE 3 0x1234).trignum = counterOf (embS.pst 15 1).cnt [0x12, 0x34] + (embS.reg (Adr.portCntOfs 15)).setWidth 16)
      ∧ (((((portS (slabX 511) (tagE 0 0)).setTime 200000001).pst 15 1).tmoFe.toNat * 100 * usT : Nat) : Int)
          < (((portS (slabX 511) (tagE 0 0)).setTime 200000001).tm - (slabX 511).tfs).toInt
      ∧ ((((portS {} (tagE 0 0)).setTime 200001).pst 15 1).fsTicks : Int)
          < (((portS {} (tagE 0 0)).setTime 200001).tm - (tagE 0 0).tag.time).toInt := by
  decide +kernel

/-- R110: Frame Start opens a slab, and Frame End closes it short. -/
theorem test_frame_start : okN (exec (.frameStart 15 { vc := 1 }) (portS {} (tagE 0 0))) (fun t => (t.pst 15 1).open_ && (t.pst 15 1).r == 0) = true
    ∧ okN (exec (.frameStart 15 { vc := 15 }) (portS {} (tagE 0 0))) (fun t => t.reg (Adr.portPktIgn 15) == 1) = true := by
  decide +kernel

/-- R114: 511 of 512 lines is SHORT. -/
theorem test_frame_end : okN (exec (.frameEnd 15 { vc := 1 }) (portS (slabX 511) (tagE 0 0)))
    (fun t => !(t.pst 15 1).open_ && t.reg (Adr.portLast 15 1) == BitVec.ofNat 20 (511 * 8 + Outc.short.code)
      && t.reg (Adr.portShort 15) == 1) = true := by
  decide +kernel

/-- R110, R112: a line takes the tag of its number; the counter of an embedded line anchors, most significant byte first. -/
theorem test_image_line : okN (exec (.imageLine 15 1 0x2A [1, 2, 3] false false) (portS (slabX 511) (tagE 0 0x1FE)))
    (fun t => (t.pst 15 1).r == 512 && (t.pst 15 1).ptr == 1 && (t.pst 15 1).sline) = true := by
  decide +kernel
theorem test_embedded_line : okN (exec (.embeddedLine 15 1 0x12 [0x12, 0x34] false false) embS)
    (fun t => (t.pst 15 1).anchor == some (tagE 3 0x1234) && (t.pst 15 1).n == 509) = true := by
  decide +kernel

/-- R113: the watchdogs. -/
theorem test_watchdogs :
    okN (exec (.frameEndWatchdog 15 1) ((portS (slabX 511) (tagE 0 0)).setTime 200000001))
        (fun t => !(t.pst 15 1).open_ && t.fld (Adr.portLast 15 1) 2 0 == Outc.timeout.code && t.reg (Adr.portTmo 15) == 1) = true
      ∧ okN (exec (.frameStartWatchdog 15 1) ((portS {} (tagE 0 0)).setTime 200001))
        (fun t => (t.pst 15 1).ptr == 1 && t.reg (Adr.portTagDisc 15) == 1 && t.fld (Adr.portLast 15 1) 2 0 == Outc.timeout.code) = true := by
  decide +kernel

theorem wit_PortLinkAndEnables :
    (runS.setFlag (Adr.portCtrl 15) 0 true).portOn 15 = true ∧ ((runS.setFlag (Adr.portCtrl 15) 0 true).embOn 15
          && (runS.setFlag (Adr.portCtrl 15) 0 true).efld (Adr.portEmbFilt 15) 3 0 == (PktHdr.mk 15 false).vc.toNat
          && (runS.setFlag (Adr.portCtrl 15) 0 true).efld (Adr.portEmbFilt 15) 9 4 == (0x3F : BitVec 6).toNat) = false
      ∧ (∀ st : Fin 2, (runS.setFlag (Adr.portCtrl 15) 0 true).strAct 15 st = false)
      ∧ runS.on (portPd 15) = true
      ∧ (runS.flag (Adr.portCtrl 15) 0 = false ∧ runS.outOfService 15 = false
          ∧ runS.writable .foreman (Adr.portCtrl 15) (putBits (runS.reg (Adr.portCtrl 15)) 0 0 1) = true)
      ∧ ((runS.setFlag (Adr.portCtrl 15) 0 true).flag (Adr.portCtrl 15) 0 = true
          ∧ (runS.setFlag (Adr.portCtrl 15) 0 true).writable .foreman (Adr.portCtrl 15)
              (putBits ((runS.setFlag (Adr.portCtrl 15) 0 true).reg (Adr.portCtrl 15)) 0 0 0) = true)
      ∧ runS.writable .foreman (Adr.portCtrl 15) (putBits (runS.reg (Adr.portCtrl 15)) 8 8 1) = true := by
  decide +kernel

/-- R107: an error in the header is counted and marks the open slab. -/
theorem test_link_error : okN (exec (.linkError 15 .header) (portS (slabX 511) (tagE 0 0)))
    (fun t => t.reg (Adr.portEccErr 15) == 1 && (t.pst 15 1).linkerr && (t.pst 15 1).open_) = true := by
  decide +kernel

/-- R115: a disabled port closes its slabs with TIMEOUT. -/
theorem test_port_disable : okN (exec (.portDisable .foreman 15) (portS (slabX 511) (tagE 0 0)))
    (fun t => !(t.pst 15 1).open_ && !(t.pst 15 1).act && t.fld (Adr.portLast 15 1) 2 0 == Outc.timeout.code) = true := by
  decide +kernel

/-- A command of I2C: GO, 32 bytes to write, 32 to read, device 7FH. -/
def i2cV : Word := 0x80000 + 32 * 8192 + 32 * 128 + 0x7F

theorem wit_I2cTransactions :
    runS.writable .foreman (Adr.portI2cCmd 15) i2cV = true ∧ runS.i2cBusy 15 = false ∧ i2cV.toNat.testBit 19 = true
      ∧ bits i2cV.toNat 12 7 ≤ 32 ∧ bits i2cV.toNat 18 13 ≤ 32
      ∧ (runS.setPort 15 { i2c := some ⟨0x7F, 0, 32, []⟩ }).writable .foreman (Adr.portI2cCmd 15) i2cV = true
      ∧ (runS.setPort 15 { i2c := some ⟨0x7F, 0, 32, []⟩ }).i2cBusy 15 = true
      ∧ ((runS.setPort 15 { i2c := some ⟨0x7F, 0, 32, []⟩ }).port 15).i2c = some ⟨0x7F, 0, 32, []⟩
      ∧ runS.writable .foreman (Adr.portI2cOp 15) 1 = true := by
  decide +kernel

/-- R117: GO sets BUSY; a NACK after 5 of 7 bytes ends with DONE, NACK and 5 bytes transferred. -/
theorem test_i2c : okN (exec (.i2cGo .foreman 15 i2cV) runS) (fun t => t.flag (Adr.portI2cStatus 15) 0 && (t.port 15).i2c.any (·.wlen == 32)) = true
    ∧ okN (exec (.i2cDone 15 (.nack 5)) (runS.setPort 15 { i2c := some ⟨0x7F, 7, 32, []⟩ }))
        (fun t => t.reg (Adr.portI2cStatus 15) == 6 + 5 * 64 && (t.port 15).i2c == none) = true := by
  decide +kernel

/-- R105, R117: the clock lane's ULPS shows in STATUS; a bus error after 33 of 40 bytes ends with DONE, BUSERR, 32 bytes at most. -/
theorem test_ulps : okN (exec (.ulpsEntry ⟨15, none⟩) (runS.setFlag (Adr.portCtrl 15) 0 true)) (fun t => t.ulpsOn 15
    && okN (exec (.ulpsExit ⟨15, none⟩) t) (fun u => !u.ulpsOn 15)) = true := by
  decide +kernel
theorem test_i2c_cut : okN (exec (.i2cDone 15 (.busErr ⟨5, none⟩)) (runS.setPort 15 { i2c := some ⟨0x7F, 7, 32, []⟩ }))
    (fun t => t.flag (Adr.portI2cStatus 15) 4 && t.fld (Adr.portI2cStatus 15) 11 6 == 5) = true := by
  decide +kernel
/-! ### Witnesses: Faces -/

/-- A raw line of slab 0 of a context. -/
def rawL : RawLine := { comps := [[1, 2, 3, 4]], dt := 0x2A, tag := { head := 12 }, fl := { crc := true }, slab := 0 }

/-- Face 3 with context 3 enabled in line on port 12, this line waiting in a slab begun. -/
def faceS : State := (runS.setReg (Adr.fsrcSrc 3 3) 3).setFctx 15 { queue := [rawL], begun := some 0, head := 12, slabs := [{ id := 0, waiting := 1 }] }

theorem wit_FaceLinesAndContexts :
    (faceS.on (facePd 3) = true ∧ (faceS.face 3).line = none ∧ faceS.nextLine 3 = some (3, 3)
        ∧ (faceS.fctx (4 * 3 + 3)).queue = rawL :: [] ∧ (faceS.fctx (4 * 3 + 3)).begun = some rawL.slab
        ∧ (faceS.fctx (4 * 3 + 3)).modeBad = false)
      ∧ ((faceS.setFace 3 { line := some (3, rawL) }).face 3).line = some (3, rawL)
      ∧ (runS.ctxEn 3 3 = false ∧ runS.writable .foreman (Adr.fsrcSrc 3 3) (putBits (runS.reg (Adr.fsrcSrc 3 3)) 0 0 1) = true
          ∧ runS.outOfService (0x10 + 3) = false ∧ runS.enableRefused 3 3 = true)
      ∧ ((runS.setReg (Adr.fsrcSrc 3 3) 2).ctxEn 3 3 = false ∧ (runS.setReg (Adr.fsrcSrc 3 3) 2).enableRefused 3 3 = false
          ∧ (runS.setReg (Adr.fsrcSrc 3 3) 2).writable .foreman (Adr.fsrcSrc 3 3) 3 = true)
      ∧ (faceS.ctxEn 3 3 = true ∧ faceS.writable .foreman (Adr.fsrcSrc 3 3) (putBits (faceS.reg (Adr.fsrcSrc 3 3)) 0 0 0) = true) := by
  decide +kernel

/-- R153: the line enters and leaves its queue, and leaves the Face. -/
theorem test_line_boundary : okN (exec (.lineBoundary 3 false false) faceS)
    (fun t => (t.face 3).line == some (3, rawL) && (t.fctx 15).queue == []) = true := by
  decide +kernel
theorem test_face_line_out : okN (exec (.faceLineOut 3) (faceS.setFace 3 { line := some (3, rawL) })) (fun t => (t.face 3).line == none) = true := by
  decide +kernel

/-- R148: a spool outside usable DRAM refuses the context; in line it starts; R149: disabled it holds no line. -/
theorem test_context_enable : okN (exec (.contextEnable .foreman 3 3) runS) (fun t => !t.ctxEn 3 3 && t.flag (Adr.faceStatusCfgerr 3) 0) = true
    ∧ okN (exec (.contextEnable .foreman 3 3) (runS.setReg (Adr.fsrcSrc 3 3) 2)) (fun t => t.ctxEn 3 3 && (t.fctx 15).head == 12) = true := by
  decide +kernel
theorem test_context_disable : okN (exec (.contextDisable .foreman 3 3) faceS) (fun t => !t.ctxEn 3 3 && (t.fctx 15).queue == []) = true := by
  decide +kernel

/-- Table select words: flat, context 3, table 2. -/
theorem wit_FaceTablesAndStreams :
    (runS.writable .foreman (Adr.faceTblSel 3) 0x43 = true ∧ bits (0x43 : Word).toNat 2 0 ≤ 3
        ∧ (bits (0x43 : Word).toNat 2 0 = 3 → bits (0x43 : Word).toNat 6 5 ≠ 3))
      ∧ (runS.writable .foreman (Adr.faceTblData 3) 0xFFFFF = true ∧ runS.selKind 3 ≤ 3) ∧ runS.on (facePd 3) = true ∧ runS.undefAt (Adr.faceTblData 3) = false
      ∧ (((({ runS with pcie := { bme := true, up := true, lastRing := 47 } } : State).setFlag (Adr.pcieStreamCtrlEn 47) 0 true).setFace 3
            { wait := [(47, List.replicate 64 7)] }).nextRing = some 47
          ∧ takeRing 47 [(47, List.replicate 64 (7 : Byte))] = some (List.replicate 64 7, [])
          ∧ ((({ runS with pcie := { bme := true, up := true, lastRing := 47 } } : State).setFlag (Adr.pcieStreamCtrlEn 47) 0 true).ringEn 47) = true
          ∧ (({ runS with pcie := { bme := true, up := true } } : State).hostCan) = true)
      ∧ runS.ringUsed 47 + 64 / 64 ≤ runS.ringUnits 47
      ∧ (runS.setReg (Adr.pcieStreamProd 47) (BitVec.ofNat 20 (runS.ringUnits 47))).ringUnits 47
          < (runS.setReg (Adr.pcieStreamProd 47) (BitVec.ofNat 20 (runS.ringUnits 47))).ringUsed 47 + 64 / 64 := by
  decide +kernel

/-- R143: 16 bits are stored in the black table, and the address wraps at the table's end. -/
theorem test_tbl_data : okN (exec (.tblDataAccess .foreman 3 (some 0xFFFFF)) (runS.setReg (Adr.faceTblAddr 3) 0x3FFF))
    (fun t => SMap.get tblBoot (t.face 3).tbl (runS.selKey 3 0x3FFF) == 0xFFFF && t.reg (Adr.faceTblAddr 3) == 0) = true := by
  decide +kernel
theorem test_tbl_sel : okN (exec (.tblSelWrite .foreman 3 0x43) runS) (fun t => t.fld (Adr.faceTblSel 3) 7 0 == 0x43) = true := by
  decide +kernel

/-- R476: a waiting line goes to its ring and PROD advances by its units. -/
theorem test_stream_line : okN (exec .streamLineWrite ((({ runS with pcie := { bme := true, up := true } } : State).setFlag (Adr.pcieStreamCtrlEn 47) 0 true).setFace 3
            { wait := [(47, List.replicate 64 7)] }))
    (fun t => t.reg (Adr.pcieStreamProd 47) == 1 && (t.face 3).wait == [] && t.hostRun (t.hostBase (Adr.pcieStreamBaseL 47) (Adr.pcieStreamBaseH 47)) 2 == [7, 7]) = true := by
  decide +kernel
/-! ### Witnesses: Seams, stockpiles, the Riddle -/

/-- Stockpile 3 of head 15 enabled at the base of usable DRAM with two lines resident. -/
def stockS : State :=
  let s := (((runS.setReg (Adr.stockCtrl 15 3) 3).setReg (Adr.stockBaseH 15 3) (BitVec.ofNat 20 (dramBase / 2 ^ 32))).setReg Adr.riddleCtrlEn 1)
  let s := (s.setReg Adr.riddleDupWin 0).setStock 63 { w := 3, newest := 1, any := true }
  let o := (s.stockRegion 15 3).1 + s.stockDepth 15 3 * stockStride 3 - dramBase
  (s.putDram o (stockRecord { head := 15 } 0 {} 0)).putDram (o + 32) (stockRecord { x := 0x10000, head := 15 } 1 {} 0)

/-- A GRID candidate of head 15, plane 3, centred on line 0. -/
def candX : Cand :=
  { ctx := 3, seam := 3, head := 15, planeA := 3, planeB := 3, mode := 0, cls := 4, trunc := false, cut := false, fl := {}, score := 5,
    ntiles := 1, angle := 0, cx := 16, cy := 8, hu := 4, hv := 4, bofs := 0, slabno := 0, time := 0 }

theorem wit_CandidatesAndEnables :
    runS.writable .foreman (Adr.seamCtrl 3) (putBits (runS.reg (Adr.seamCtrl 3)) 0 0 1) = true
      ∧ runS.writable .foreman (Adr.seamCtrl 3) (putBits (runS.reg (Adr.seamCtrl 3)) 0 0 0) = true
      ∧ (runS.stockEn 15 3 = false ∧ runS.writable .foreman (Adr.stockCtrl 15 3) (putBits (runS.reg (Adr.stockCtrl 15 3)) 0 0 1) = true)
      ∧ ((runS.setReg Adr.riddleCtrlEn 1).riddleOn = true ∧ (runS.setReg Adr.riddleCtrlEn 1).inStock candX = false)
      ∧ (stockS.riddleOn = true ∧ stockS.inStock candX = true ∧ stockS.riddle.table = [] ∧ (stockS.mapCand candX).waits = false
          ∧ stockS.reg Adr.riddleDupWin = 0)
      ∧ ((entS (entX .pending)).ent (4095 : BitVec 12).toNat = some (entX .pending)
          ∧ ((entS (entX .pending)).reg Adr.riddleJoinTmo).toNat % 65536 * msT ≤ ((entS (entX .pending)).setTime 20000000000).since 0) := by
  decide +kernel

/-- R198: a candidate whose lines are not resident is counted; R199: the first of a table is READY in entry 0. -/
theorem test_candidate_arrival :
    okN (exec .candidateArrival ((runS.setReg Adr.riddleCtrlEn 1).setRiddle { queue := [candX] }))
        (fun t => t.reg Adr.riddleNostock == 1 && t.riddle.queue == []) = true
      ∧ okN (exec .candidateArrival (stockS.setRiddle { queue := [candX] })) (fun t => (t.ent 0).any (·.st == .ready)) = true := by
  decide +kernel

/-- R193: an enable begins a new epoch. -/
theorem test_stock_enable : okN (exec (.stockEnable .foreman 15 3) runS) (fun t => (t.stock 63).epoch == 1) = true := by
  decide +kernel

/-- R203: a fragment goes on alone when JOIN_TMO has passed. -/
theorem test_join_timeout : okN (exec (.joinTimeout 4095) ((entS (entX .pending)).setTime 20000000000))
    (fun t => t.reg Adr.riddleSolo == 1 && (t.ent 4095).any (·.st == .ready)) = true := by
  decide +kernel

/-- One READY entry whose lines are resident, the Kerfs enabled, bench 7 alone in BENCHES with one patch slot. -/
def cutS : State :=
  (((stockS.setReg Adr.riddleBenches 0x80).setReg (Adr.riddlePslot 7) 0x401).setReg (Adr.riddleClsCut 1) 0x1FE).setEnt 4095
    (some (entX .ready))

theorem wit_CutsAndReleases :
    (cutS.idleKerf = some 0
        ∧ cutS.pickEntry (cutS.entries.filter (fun p => cutS.dispatchable p.2)).length (cutS.entries.filter (fun p => cutS.dispatchable p.2))
            = some (4095, entX .ready, 7))
      ∧ (((entS { entX .cut with bench := 7 }).setKerf 7 { job := some (4095, []) }).kerf 7).job = some (4095, [])
      ∧ (((entS { entX .cut with bench := 7 }).setReg Adr.riddleBenches 0x80).reg Adr.riddleBenches).toNat.testBit 7 = true
      ∧ ((entS { entX .cut with bench := 7 }).setReg Adr.riddleBenches 0x7F |>.reg Adr.riddleBenches).toNat.testBit 7 = false
      ∧ (runS.on (benchPd 7) = true ∧ runS.tqOccupied 7 < 16)
      ∧ ((entS (entX .ready)).expired (entX .ready) = true ∧ (entX .ready).shadow = none ∧ (entS (entX .ready)).res.staging.length < stagingMax)
      ∧ (runS.writable .foreman Adr.riddleDone (BitVec.ofNat 20 (4095 + 4096 * (3 : BitVec 2).toNat)) = true
          ∧ runS.writable .foreman Adr.riddleDone (BitVec.ofNat 20 (4095 + 4096 * (2 : BitVec 2).toNat)) = true
          ∧ (entS (entX .decode)).ent (4095 : BitVec 12).toNat = some (entX .decode))
      ∧ ((entS (entX .held)).on 4 = true ∧ (entS (entX .held)).slabsClosed (entX .held) = true) := by
  decide +kernel

/-- R210: the idle Kerf takes the entry and the bench. -/
theorem test_dispatch : okN (exec .dispatch cutS)
    (fun t => (t.ent 4095).any (fun e => e.st == .cut && e.bench == 7) && (t.kerf 0).job.isSome && t.riddle.lastBench == 7) = true := by
  decide +kernel

/-- R216, R220: a cut whose bench stays posts a ticket; one whose bench has left is READY again. -/
theorem test_cut_done :
    okN (exec (.kerfCutDone 7) (((entS { entX .cut with bench := 7 }).setKerf 7 { job := some (4095, []) }).setReg Adr.riddleBenches 0x80))
        (fun t => (t.ent 4095).any (·.st == .decode) && (t.bench 7).order == [0]) = true
      ∧ okN (exec (.kerfCutDone 7) (((entS { entX .cut with bench := 7 }).setKerf 7 { job := some (4095, []) }).setReg Adr.riddleBenches 0x7F))
        (fun t => (t.ent 4095).any (·.st == .ready) && t.reg Adr.riddleRedo == 1) = true := by
  decide +kernel

/-- R209: at its deadline an entry that no bench has is released. -/
theorem test_deadline : okN (exec (.deadlineExpiry 4095) (entS (entX .ready)))
    (fun t => t.ent 4095 == none && t.res.nextSeq == 1 && t.reg Adr.riddleExpired == 1) = true := by
  decide +kernel

/-- R219: DONE holds an entry in DECODE, and the release gives it the next number and its own TIME. -/
theorem test_done : okN (exec (.riddleDoneWrite .foreman 4095 2) (entS (entX .decode))) (fun t => (t.ent 4095).any (fun e => e.st == .held && e.done == 2)) = true
    ∧ okN (exec (.riddleDoneWrite .foreman 4095 3) (entS (entX .decode))) (fun t => t.flag Adr.riddleStatus 0) = true := by
  decide +kernel

theorem test_release : okN (exec (.resultRelease 4095) (entS (entX .held)))
    (fun t => t.ent 4095 == none && t.res.staging.map (·.time) == [7] && t.res.nextSeq == 1) = true := by
  decide +kernel

/-- A staged result without payload. -/
def stgX : Staged := { seq := 0, ashlar := List.replicate 64 9, payload := [], time := 0 }

/-- A host that takes results: rings of reset size, a payload area of one unit of 4 KiB. -/
def postS : State :=
  (({ runS with pcie := { up := true, bme := true } } : State).setReg Adr.pcieCtrl 1).setRes { staging := [stgX] }

theorem wit_PostsCommitsBenches :
    (postS.res.staging = stgX :: [] ∧ postS.mayPost = true ∧ postS.flag Adr.pcieCtrl 1 = false ∧ stgX.undef = false ∧ stgX.ashlar.length = 64
        ∧ place (postS.reg Adr.pciePayProd).toNat (postS.reg Adr.pciePayCons).toNat postS.payUnits ((stgX.payload.length + 63) / 64) = some 0)
      ∧ (runS.writable .foreman Adr.riddleGcommitCommit 1 = true ∧ runS.riddle.gpend = false ∧ runS.geoHeld = false)
      ∧ (entS { entX .ready with gset := true }).geoHeld = true ∧ (runS.setRiddle { gpend := true }).riddle.gpend = true
      ∧ (runS.setRiddle { gpend := true }).geoHeld = false
      ∧ runS.writable .foreman Adr.riddleBenches ((0x7F : BitVec 8).setWidth 20) = true
      ∧ (((runS.setReg Adr.riddleBenches 0xFF).reg Adr.riddleBenches).toNat.testBit 7 = true ∧ (0x7F : BitVec 8).toNat.testBit 7 = false) := by
  decide +kernel

/-- R256: the staged result is posted and the producer index advances. -/
theorem test_post : okN (exec .ashlarPost postS) (fun t => t.res.staging == [] && t.reg Adr.pcieResProd == 1
    && t.hostRun (postS.hostBase Adr.pcieResBaseL Adr.pcieResBaseH) 4 == [9, 9, 9, 9]) = true := by
  decide +kernel

/-- R196: a commit changes the set in force, one under an entry of the other set is held. -/
theorem test_commit : okN (exec (.geometryCommit .foreman) runS) (fun t => t.riddle.gset && !t.riddle.gpend) = true
    ∧ okN (exec (.geometryCommit .foreman) (entS { entX .ready with gset := true })) (fun t => !t.riddle.gset && t.riddle.gpend) = true := by
  decide +kernel

/-- R220: a bench that leaves has no waiting ticket. -/
theorem test_benches : okN (exec (.benchesWrite .foreman 0x7F) ((runS.setReg Adr.riddleBenches 0xFF).setBench 7
      { tq := [(0, { st := .waiting })], order := [0] })) (fun t => (t.bench 7).order == [] && (t.tqEnt 7 0).st == .free) = true := by
  decide +kernel
/-! ### Witnesses: benches -/

/-- A ticket for entry 4095 waiting as number 15. -/
def tickB : Bench := { tq := [(15, { st := .waiting, words := [0xFFF] })], order := [15] }

/-- The same with the entry in DECODE at bench 7, which is in BENCHES. -/
def tickS : State := ((benchS tickB).setEnt 4095 (some { entX .decode with bench := 7 })).setReg Adr.riddleBenches 0x80

/-- Bench 7's ECC unit owned by its hewer 7 (reader 64), a codeword of four zeros with two check symbols. -/
def eccS : State := (benchS { eccOwner := 64 }).setReg (Adr.benchEccLen 7) 0x204

/-- A job on four zeros. -/
def eccJ : EccJob := { refused := false, n := 4, r := 2, cwWords := [0, 0, 0, 0] }

theorem wit_TicketsAndEcc :
    ((benchS tickB).on (benchPd (7 : Fin 8)) = true ∧ takesFrom .foreman (7 : Fin 8) = true ∧ ((benchS tickB).bench (7 : Fin 8)).order = 15 :: [] ∧ 15 < 16
        ∧ (benchS tickB).undefAt (Adr.benchTqTake 7) = false ∧ (benchS tickB).undefAt (Adr.benchTqFree 7) = false)
      ∧ takesFrom .host (7 : Fin 8) = false ∧ (runS.bench (7 : Fin 8)).order = []
      ∧ (runS.reachesBench .foreman 7 = true ∧ (0x1F : Word).toNat.testBit 4 = true
          ∧ ((benchS { tq := [(15, { st := .taken })] }).tqEnt 7 ((0x1F : Word).toNat % 16)).st = .taken
          ∧ ((benchS tickB).tqEnt 7 ((0x1F : Word).toNat % 16)).st ≠ .taken)
      ∧ (tickS.fwRuns 7 = true ∧ (tickS.core (8 * 7 + 7)).fwOff = false ∧ tickS.eccFreeFor 7 [] = true
          ∧ (({ entX .decode with bench := 7 } : Entry).st = .decode ∧ ({ entX .decode with bench := 7 } : Entry).shadow = none)
          ∧ tickS.ent (((tickS.tqEnt 7 15).words.getD 0 0).toNat % 4096) = some { entX .decode with bench := 7 }
          ∧ (tickS.reg Adr.riddleBenches).toNat.testBit 7 = true)
      ∧ (eccEntitled (.hewer 7 7) (7 : Fin 8) = true ∧ (runS.bench 7).eccOwner = 0 ∧ runS.undefAt (Adr.benchEccClaimOwner 7) = false)
      ∧ (eccS.eccOwns (.hewer 7 7) 7 = true ∧ eccS.undefAt (Adr.benchEccGo 7) = false)
      ∧ eccS.flag (Adr.benchEccStatus 7) 0 = false
      ∧ ((benchS { ecc := some eccJ }).bench 7).ecc = some eccJ
      ∧ (({ prime := eccJ.gf113, poly := eccJ.poly, alpha := eccJ.alpha } : Gf).primitive = true
          ∧ eccJ.dirty = false ∧ (benchS { ecc := some eccJ }).undefAt (Adr.benchEccCfg 7) = false
          ∧ (({ prime := eccJ.gf113, poly := eccJ.poly, alpha := eccJ.alpha } : Gf).decode eccJ.fcr eccJ.r
              (readCodeword eccJ.gf113 (eccJ.cwWords.map (·.toNat)) (eccJ.eraWords.map (·.toNat))).1
              (readCodeword eccJ.gf113 (eccJ.cwWords.map (·.toNat)) (eccJ.eraWords.map (·.toNat))).2.1).ok = true) := by
  decide +kernel

/-- R272: TAKE returns the entry with VALID and removes it; the host gets 0. -/
theorem test_tq_take : okN (exec (.tqTake .foreman 7) (benchS tickB))
      (fun t => t.rdVal 65 == 31 && (t.bench 7).order == [] && (t.tqEnt 7 15).st == .taken) = true
    ∧ okN (exec (.tqTake .host 7) (benchS tickB)) (fun t => t.rdVal 0 == 0 && (t.bench 7).order == [15]) = true := by
  decide +kernel

/-- R273: FREE of a taken entry frees it, of a waiting one sets CFGERR. -/
theorem test_tq_free : okN (exec (.tqFree .foreman 7 0x1F) (benchS { tq := [(15, { st := .taken })] })) (fun t => (t.tqEnt 7 15).st == .free) = true
    ∧ okN (exec (.tqFree .foreman 7 0x1F) (benchS tickB)) (fun t => t.flag (Adr.benchTqStatusCfgerr 7) 0 && (t.tqEnt 7 15).st == .waiting) = true := by
  decide +kernel

/-- R234: a ticket without an attempt that reads is a NOREAD, held for its release. -/
theorem test_decode : okN (exec (.decodeTicket 7 7 []) tickS)
    (fun t => (t.ent 4095).any (fun e => e.st == .held && e.done == 2 && e.hewer == 63) && (t.bench 7).order == []) = true := by
  decide +kernel

/-- R229: CLAIM by an entitled agent, and by the host. -/
theorem test_ecc_claim : okN (exec (.eccClaim (.hewer 7 7) 7) runS) (fun t => t.rdVal 64 == 0 && (t.bench 7).eccOwner == 64) = true
    ∧ okN (exec (.eccRelease (.hewer 7 7) 7) eccS) (fun t => (t.bench 7).eccOwner == 0) = true := by
  decide +kernel

/-- R231, R232: GO takes four codewords; a codeword without error ends with OK and no corrections. -/
theorem test_ecc_go : okN (exec (.eccGo (.hewer 7 7) 7) eccS) (fun t => (t.bench 7).ecc.any (fun j => !j.refused && j.n == 4 && j.r == 2)) = true
    ∧ okN (exec (.eccJobDone 7) (benchS { ecc := some eccJ }))
        (fun t => t.fld (Adr.benchEccStatus 7) 4 2 == 1 && t.reg (Adr.benchEccRes0 7) == 0 && t.reg (Adr.benchEccJobs 7) == 1) = true := by
  decide +kernel

/-- Bench 7's DMA channel 8: COUNT, LOCAL, CFG, from the base of usable DRAM. -/
def dmaS (n loc cfg : Word) : State :=
  (((runS.setReg (Adr.benchDmaCount 7 8) n).setReg (Adr.benchDmaLocal 7 8) loc).setReg (Adr.benchDmaCfg 7 8) cfg).setReg (Adr.benchDmaDaddrH 7 8)
    (BitVec.ofNat 20 (dramBase / 2 ^ 20))

theorem wit_DmaAndCompletion :
    (runS.reachesBench .foreman 7 = true ∧ ownChannel .foreman (8 : Fin 9) = true ∧ runS.undefAt (Adr.benchDmaGo 7 8) = false
        ∧ (runS.reg (Adr.benchDmaXfer 7 8)).toNat ≤ 1 ∧ runS.undefAt (Adr.benchCmpGo 7 7) = false)
      ∧ ((dmaS 1 0xFFFFF 0x41).flag (Adr.benchDmaStat 7 8) 0 = false ∧ (dmaS 1 0xFFFFF 0x41).fld (Adr.benchDmaCfg 7 8) 2 1 = 0
          ∧ (((dmaS 1 0xFFFFF 0x41).reg (Adr.benchDmaDaddrL 7 8)).toNat + 2 ^ 20 * ((dmaS 1 0xFFFFF 0x41).reg (Adr.benchDmaDaddrH 7 8)).toNat) / 2 * 2 = dramBase
          ∧ dramBase + 1 * 2 ≤ dramBase + dramSize ∧ (spaceEnd 0).1 ≤ 0xFFFFF ∧ 0xFFFFF + 1 ≤ (spaceEnd 0).2)
      ∧ ((dmaS 0 0xFFFFF 0x41).reg (Adr.benchDmaCount 7 8)).toNat = 0
      ∧ ((dmaS 1 0xFFFFF 0x41).setReg (Adr.benchDmaStat 7 8) 1).flag (Adr.benchDmaStat 7 8) 0 = true
      ∧ ((0x5FFF : Word).toNat.testBit 14 = true ∧ bits (0x5FFF : Word).toNat 13 12 = 1 ∧ bits (0x6FFF : Word).toNat 13 12 = 2
          ∧ runS.flag (Adr.benchCmpStat 7 7) 0 = false
          ∧ ((runS.setReg (Adr.benchCmpBlock 7 7) 0xFFFEC).reg (Adr.benchCmpBlock 7 7)).toNat + 20 + 0 ≤ 0x100000
          ∧ bits ((runS.sharedRun 7 0xFFFEC 20).getD 19 0).toNat 12 0 = 0)
      ∧ ((benchS { cmp := [(7, some ⟨4095, 1, List.replicate 20 0, []⟩)] }).cmpJob 7 7 = some ⟨4095, 1, List.replicate 20 0, []⟩
          ∧ (entS (entX .decode)).ent 4095 = some (entX .decode)) := by
  decide +kernel

/-- R275, R276: a unit of 16 bits goes to DRAM, least significant byte first; COUNT 0 is refused. -/
theorem test_dma : okN (exec (.dmaDone 7 8 none) (((dmaS 1 0xFFFFF 0x41).setReg (Adr.benchDmaStat 7 8) 1).setBench 7 { shared := [(0xFFFFF, 0x51234)] }))
      (fun t => t.dramRun 0 3 == [0x34, 0x12, 0] && t.fld (Adr.benchDmaStat 7 8) 3 0 == 2) = true
    ∧ okN (exec (.dmaGo .foreman 7 8) (dmaS 0 0xFFFFF 0x41)) (fun t => t.fld (Adr.benchDmaStat 7 8) 3 0 == 10) = true
    ∧ okN (exec (.dmaGo .foreman 7 8) (dmaS 1 0xFFFFF 0x41)) (fun t => t.fld (Adr.benchDmaStat 7 8) 3 0 == 1) = true := by
  decide +kernel

/-- R279: the block and its result are taken at GO, and held for the release at the end of the copy. -/
theorem test_cmp : okN (exec (.cmpGo .foreman 7 7 0x6FFF) (runS.setReg (Adr.benchCmpBlock 7 7) 0xFFFEC))
      (fun t => (t.cmpJob 7 7).any (fun j => j.entry == 4095 && j.result == 2)) = true
    ∧ okN (exec (.cmpCopyDone 7 7) (((entS (entX .decode)).setBench 7 { cmp := [(7, some ⟨4095, 1, List.replicate 20 0, []⟩)] }).setReg Adr.riddleBenches 0x80))
        (fun t => (t.ent 4095).any (fun e => e.st == .held && e.done == 1) && t.fld (Adr.benchCmpStat 7 7) 2 0 == 2) = true := by
  decide +kernel

theorem wit_HewerControl :
    (onFabric .foreman = true ∧ onFabric .host = true ∧ (coreS {}).writable .host (Adr.benchHctrl 7 7) 1 = true
        ∧ runS.writable .foreman (Adr.benchHctrl 7 7) 0 = true ∧ (coreS {}).fwRuns 7 = false ∧ runS.fwRuns 7 = true)
      ∧ (coreIdx (.hewer 7 7) = 63 ∧ ((coreS { running := true, halting := true }).core 63).running = true
          ∧ ((coreS { running := true, halting := true }).core 63).halting = true
          ∧ ((coreS { running := true, halting := true }).core 63).branch = [] ∧ ((coreS { running := true, halting := true }).core 63).haltIn = none ∧ ((coreS { running := true, halting := true }).core 63).raw = [])
      ∧ ((coreS {}).writable .host (Adr.benchHctrl 7 7) ((coreS {}).hctrlWord 7 7 2) = true ∧ (coreS {}).runBit (8 * 7 + 7) = false
          ∧ ((coreS {}).core 63).running = false)
      ∧ (coreS {}).writable .host (Adr.benchHctrl 7 7) ((coreS {}).hctrlWord 7 7 4) = true
      ∧ (((coreS {}).setReg (Adr.benchMaSel 7) 0x1E).fld (Adr.benchMaSel 7) 1 0 = 2 ∧ ((coreS {}).setReg (Adr.benchMaSel 7) 0x1E).fld (Adr.benchMaSel 7) 4 2 = 7
          ∧ ((coreS {}).setReg (Adr.benchMaSel 7) 0x1E).hewerRuns (8 * 7 + 7) = false
          ∧ ((coreS {}).setReg (Adr.benchMaSel 7) 0x1E).writable .host (Adr.benchMaData 7) 0xFFFFF = true
          ∧ (coreS {}).on (benchPd 7) = true ∧ (coreS {}).undefAt (Adr.benchMaData 7) = false)
      ∧ runS.writable .foreman (Adr.benchMaDatah 7) 0xFFFFF = true ∧ (runS.on 1 = true ∧ runS.swq.length < 8)
      ∧ 8 ≤ (runS.setSwq (List.replicate 8 ⟨0, none, 0⟩)).swq.length
      ∧ ((runS.setSwq [⟨0x16FFFFFFFC, some 5, 7⟩]).swq = ⟨0x16FFFFFFFC, some 5, 7⟩ :: [] ∧ (7 < 8 ∧ runS.on 7 = true
          ∧ dramBase ≤ (0x16FFFFFFFC : BitVec 40).toNat ∧ (0x16FFFFFFFC : BitVec 40).toNat + 4 ≤ dramBase + dramSize)) := by
  decide +kernel

/-- R282: RUN, HALT at a bundle boundary, RESET. -/
theorem test_hewer_run : okN (exec (.hewerRun .host 7 7) (coreS {})) (fun t => (t.core 63).running) = true
    ∧ okN (exec (.hewerHalt (.hewer 7 7)) (coreS { running := true, halting := true })) (fun t => !(t.core 63).running) = true := by
  decide +kernel
theorem test_hewer_reset : okN (exec (.hewerReset .host 7 7) ((coreS { d := [(1, 5)], dmem := [(0, 7)] }).setReg (Adr.benchStart 7 7) 0x7FFF))
    (fun t => (t.core 63).pc == 0x7FFF && (t.core 63).d == [] && (t.core 63).dmem == [(0, 7)]) = true := by
  decide +kernel

/-- R283: MA_DATA writes the 40-bit entry with MA_DATAH, and MA_ADDR wraps at the end of instruction memory. -/
theorem test_ma : okN (exec (.maDataAccess .host 7 (some 0x12345)) ((((coreS {}).setReg (Adr.benchMaSel 7) 0x1E).setReg (Adr.benchMaAddr 7) 0x7FFF).setReg (Adr.benchMaDatah 7) 0xABCDE))
    (fun t => SMap.get (fun _ => (0 : BitVec 40)) (t.core 63).imem 0x7FFF == 0xABCDE12345 && t.reg (Adr.benchMaAddr 7) == 0) = true := by
  decide +kernel

/-- R286: a request waits, and done it has written the last doubleword of usable DRAM. -/
theorem test_sw : okN (exec .swRead runS) (fun t => t.swq.length == 1) = true
    ∧ okN (exec .swRequestDone (runS.setSwq [⟨0x16FFFFFFFC, some 5, 7⟩])) (fun t => t.dramRun 0x6FFFFFFFC 4 == [5, 0, 0, 0]
        && t.reg Adr.foremanSwDone == 1 && t.swq == []) = true := by
  decide +kernel
/-! ### Witnesses: Tsumante -/

/-- A running core at the start of a bundle. -/
def runH : Hewer := { running := true, d := [(1, 0x7FFFF), (2, 1)] }

/-- Bench 7's hewer 7. -/
def c77 : Core := .hewer 7 7

/-- A syllable with the first and second source registers D1 and D2 and the destination D31. -/
def sylX (slot : Slot) : Syl := { slot := slot, dst := 31, sa := 1, sb := 2 }

theorem wit_fresh : ((coreS runH).core (coreIdx c77)).fresh := by unfold Hewer.fresh Hewer.calm; decide

theorem wit_AlCompletes : (TOp.b2d, (Instr.b2d : SylCmd)) ∈ alSyls ∧ TOp.b2d.formed (sylX .al1) none
    ∧ (TOp.alNop, (Instr.alNop : SylCmd)) ∈ alSyls ∧ TOp.alNop.formed (sylX .al0) none
    ∧ TOp.add.formed { sylX .al0 with im := true, sb := 1 } (some 0xFFFFF) := by
  refine ⟨by simp [alSyls], ⟨by decide, by decide⟩, by simp [alSyls], ⟨by decide, by decide⟩, ⟨by decide, by decide⟩⟩

/-- R311: add of 7FFFFH and 1 sets N and V and stands in D31. -/
theorem test_add : okN (exec (.add c77 (sylX .al0) none true) (coreS runH))
    (fun t => (t.core 63).dr 31 == 0x80000 && (t.core 63).fl == { n := true, v := true } && (t.core 63).pc == 1) = true := by
  decide +kernel

theorem wit_MuCompletes : (TOp.muBrev, (Instr.muBrev : SylCmd)) ∈ mulSyls ∧ TOp.muBrev.formed (sylX .mu1) none
    ∧ (TOp.fdiv, (Instr.fdiv : SylCmd)) ∈ divSyls ∧ TOp.fdiv.formed (sylX .mu0) none
    ∧ (TOp.movta, (Instr.movta : SylCmd)) ∈ accSyls ∧ TOp.movta.formed (sylX .mu0) none ∧ TOp.ext.formed (sylX .mu0) none
    ∧ (TOp.brNop, (Instr.brNop : SylCmd)) ∈ nopSyls ∧ TOp.brNop.formed (sylX .br) none := by
  refine ⟨by simp [mulSyls], ⟨by decide, by decide⟩, by simp [divSyls], ⟨by decide, by decide⟩, by simp [accSyls], ⟨by decide, by decide⟩,
    ⟨by decide, by decide⟩, by simp [nopSyls], ⟨by decide, by decide⟩⟩

/-- R316, R269: the product is in flight for three bundles, the quotient for twelve. -/
theorem test_mul : okN (exec (.mul c77 (sylX .mu0) none true) (coreS runH))
      (fun t => (t.core 63).flight == [⟨.d 31, .word 0x7FFFF, 3⟩] && (t.core 63).dr 31 == 0) = true
    ∧ okN (exec (.divq c77 (sylX .mu0) none true) (coreS runH)) (fun t => (t.core 63).flight == [⟨.d 31, .word 0x7FFFF, 12⟩]) = true := by
  decide +kernel

theorem wit_LsBrCompletes :
    (((coreS runH).core (coreIdx c77)).calm ∧ ((coreS runH).core (coreIdx c77)).flight = [])
      ∧ TOp.ld.formed (sylX .ls0) none ∧ TOp.st.formed (sylX .ls1) none ∧ TOp.b.formed (sylX .br) none ∧ TOp.jr.formed (sylX .br) none
      ∧ TOp.call.formed { sylX .br with sb := 1 } (some 0x7FFF) ∧ TOp.loop.formed (sylX .br) none ∧ TOp.loopi.formed (sylX .br) none
      ∧ TOp.halt.formed (sylX .br) none
      ∧ (SMap.get (fun _ => (0 : BitVec 40)) ({ runH with imem := [(1, 0x8000000000), (2, 0x8000000000)] } : Hewer).imem 1 = 0x8000000000)
      ∧ ({ sylX .br with md := 1 } : Syl).md ≠ 0
      ∧ (({ runH with lc := [(3, 2)] } : Hewer).lev 3 = runH.pc.toNat ∧ 1 < ({ runH with lc := [(3, 2)] } : Hewer).lcv 3
          ∧ ({ runH with lc := [(3, 1)] } : Hewer).lcv 3 = 1) := by
  refine ⟨⟨by unfold Hewer.calm; decide, by decide⟩, ⟨by decide, by decide⟩, ⟨by decide, by decide⟩, ⟨by decide, by decide⟩, ⟨by decide, by decide⟩,
    ⟨by decide, by decide⟩, ⟨by decide, by decide⟩, ⟨by decide, by decide⟩, ⟨by decide, by decide⟩, by decide, by decide, by decide⟩

/-- R304, R264: a store to the last word of own memory stands at once; one past it goes to the port. -/
theorem test_st : okN (exec (.st c77 { slot := .ls0, ad := false, dst := 1, sa := 0 } none true) (coreS { runH with a := [(0, 0x1FFFF)] }))
      (fun t => SMap.get (fun _ => (0 : Word)) (t.core 63).dmem 0x1FFFF == 0x7FFFF && (t.core 63).ports == []) = true
    ∧ okN (exec (.st c77 { slot := .ls0, ad := false, dst := 1, sa := 0 } none true) (coreS { runH with a := [(0, 0x20000)] }))
      (fun t => (t.core 63).dmem == [] && (t.core 63).ports.length == 1) = true := by
  decide +kernel

/-- R329: the last bundle of a loop goes round while the count is above 1. -/
theorem test_loop_end : okN (exec (.loopEnd c77) (coreS { runH with lc := [(3, 2)], lb := [(3, 9)], loops := [3] }))
      (fun t => (t.core 63).pc == 9 && (t.core 63).lcv 3 == 1 && (t.core 63).loops == [3]) = true
    ∧ okN (exec (.loopEnd c77) (coreS { runH with lc := [(3, 1)], lb := [(3, 9)], loops := [3] }))
      (fun t => (t.core 63).pc == 1 && (t.core 63).loops == []) = true := by
  decide +kernel

/-- R297: an undefined syllable sets ILLOP. -/
theorem test_undefined : okN (exec (.undefinedSyllable c77 (some .al0) true) (coreS { runH with pc := 5 }))
    (fun t => (t.core 63).illop && (t.core 63).illadr == 5 && (t.core 63).d == runH.d) = true := by
  decide +kernel

theorem wit_BundlesStageAndLand :
    ((TOp.halt, (Instr.halt : SylCmd)) ∈ allSyls ∧ runH.running = true ∧ runH.halting = false ∧ slotCount runH.raw < 6 ∧ runH.raw.length + sylLen none < 9)
      ∧ (({ runH with flight := [⟨.d 1, .word 5, 1⟩, ⟨.acc 3, .accAdd (-1), 1⟩] } : Hewer).flight.Pairwise (fun f g => f.tgt ≠ g.tgt)
          ∧ ∀ f ∈ ({ runH with flight := [⟨.d 1, .word 5, 1⟩, ⟨.acc 3, .accAdd (-1), 1⟩] } : Hewer).flight, f.land ≤ runH.cyc + 1)
      ∧ (({ runH with branch := [(1, 0xFFFF)] } : Hewer).branch = [(1, 0xFFFF)] ∧ 0xFFFF < 2 ^ 16)
      ∧ ({ runH with haltIn := some 1 } : Hewer).haltIn = some 1 := by
  refine ⟨⟨by simp [allSyls, lsBrSyls], by decide, by decide, by decide, by decide⟩, by decide, by decide, by decide⟩

/-- R326: a taken branch goes to its target behind its two delay bundles; R305: a halt stops the hewer. -/
theorem test_branch : okN (exec (.alNop c77 nopSyl none true) (coreS { runH with branch := [(1, 0x1234)] })) (fun t => (t.core 63).pc == 0x1234) = true
    ∧ okN (exec (.alNop c77 nopSyl none true) (coreS { runH with haltIn := some 1 })) (fun t => !(t.core 63).running) = true := by
  decide +kernel

theorem wit_FrameOfSyllables : ((coreS runH).core (coreIdx c77)).ports = []
    ∧ ((coreS runH).core (coreIdx c77)).raw.all (fun r => !r.access) = true ∧ ((coreS runH).core (coreIdx c77)).cur.port0 = none
    ∧ ((coreS runH).core (coreIdx c77)).cur.port1 = none ∧ (runS.core (coreIdx c77)).running = false
    ∧ okN (exec (.mul c77 (sylX .mu0) none true) (coreS runH)) (fun _ => true) = true := by
  decide +kernel

theorem wit_WordResults : (99999 < 100000) ∧ 20 ≤ countOf 20 := by decide
/-! ### Witnesses: mailboxes, serial ports, the Spoil log -/

/-- Host box 79 with words waiting from its near end. -/
def boxS (n : Nat) : State := runS.setBox 79 { near := { out := List.replicate n (5, true) }, wedge := 96 }

theorem wit_MailboxesAndConsoles :
    ((boxS 7).boxOpen .host 79 false = true ∧ (((boxS 7).box 79).side false).out.length < 8 ∧ 8 ≤ (((boxS 8).box 79).side false).out.length)
      ∧ ((boxS 1).boxOpen .foreman 79 true = true ∧ ((boxS 1).box 79).incoming true = (5, true) :: [] ∧ ((boxS 0).box 79).incoming true = []
          ∧ ((boxS 0).box 79).wedge < 128)
      ∧ (boxS 0).boxOpen .host 79 true = false
      ∧ (runS.inRun = true ∧ runS.on 1 = true ∧ (runS.chan (2 + 7)).inp = [] ∧ (runS.chan (2 + 7)).out = []
          ∧ ((runS.setBox 79 { near := { out := [(0x2410A, true)] } }).box (72 + 7)).near.out = [(0x2410A, true)])
      ∧ ((runS.setChan 9 { out := [0x41] }).chan (2 + 7)).out = [0x41] ∧ ((benchS { leased := true }).bench (boxBench 71)).leased = true := by
  decide +kernel

theorem wit_RxTakesTheOldestWord :
    (boxS 8).boxOpen .foreman 79 true = true ∧ ((boxS 8).box 79).incoming true = (5, true) :: List.replicate 7 (5, true)
      ∧ ((boxS 0).box 79).incoming true = [] ∧ (((boxS 8).box 79).incoming true).length ≤ 8 ∧ (((boxS 8).box 79).side true).out.length ≤ 8
      ∧ (((boxS 8).box 79).incoming true)[0]?.map Prod.snd = some true := by
  decide +kernel

/-- R335, R336: the eighth word is taken, a ninth sets TXOVF; RX gives the oldest, and 0 with RXUND from an empty queue. -/
theorem test_mbx_tx : okN (exec (.mbxTxl .host 79 false 6) (boxS 7)) (fun t => (t.box 79).near.out == List.replicate 7 (5, true) ++ [(6, true)]) = true
    ∧ okN (exec (.mbxTx .host 79 false 6) (boxS 8)) (fun t => (t.box 79).near.txovf && (t.box 79).near.out.length == 8) = true := by
  decide +kernel
theorem test_mbx_rx : okN (exec (.mbxRx .foreman 79 true) (boxS 1)) (fun t => t.rdVal 65 == 5 && (t.box 79).near.out == []) = true
    ∧ okN (exec (.mbxRx .foreman 79 true) (boxS 0)) (fun t => t.rdVal 65 == 0 && (t.box 79).far.rxund) = true := by
  decide +kernel

/-- R342: a held wedge is not claimed; its owner frees it. -/
theorem test_wedge : okN (exec (.wedgeClaim .foreman 79 true 0) (boxS 0)) (fun t => t.rdVal 65 == 96 && (t.box 79).wedge == 96) = true
    ∧ okN (exec (.wedgeRelease .host 79 false 0 0) (boxS 0)) (fun t => (t.box 79).wedge == 0) = true
    ∧ okN (exec (.wedgeRelease .host 79 false 1 0) (boxS 0)) (fun t => (t.box 79).wedge == 96) = true := by
  decide +kernel

/-- R345: FLUSH and FORCE. -/
theorem test_flush : okN (exec (.mbxFlush .foreman 79) (boxS 8)) (fun t => (t.box 79).near.out == [] && (t.box 79).wedge == 96) = true
    ∧ okN (exec (.mbxForce .foreman 79) (boxS 8)) (fun t => (t.box 79).near.out.length == 8 && (t.box 79).wedge == 0) = true := by
  decide +kernel

/-- R372: two characters of a host box reach the console's channel, least significant byte first. -/
theorem test_console : okN (exec .consolePoll (runS.setBox 79 { near := { out := [(0x24241, true)] } }))
    (fun t => (t.chan 9).inp.map (·.ch) == [0x41, 0x42] && (t.box 79).near.out == []) = true := by
  decide +kernel

/-- Samples of a line that stays low through a start bit; that goes high at once. -/
def lowL : List Bool := List.replicate 160 false

/-- UART1 with receiver and transmitter enabled. -/
def uartS (x : Uart) : State := (runS.setReg (Adr.uartCtrl 1) 3).setUart 1 x

theorem wit_SerialPorts :
    ((uartS { muted := false }).uartHears 1 = true ∧ ((uartS { muted := false }).uart 1).waitHigh = false ∧ majority [] 0 = true ∧ majority lowL 0 = false)
      ∧ ((((uartS { muted := false }).frame 1).word lowL).toNat.testBit 8 = false ∧ (uartS { muted := false }).uartMuted 1 = false
          ∧ ((uartS { muted := false, rx := List.replicate 31 0 }).uart 1).rx.length < 32)
      ∧ ((uartS { rx := [0x141] }).uart 1).rx = 0x141 :: []
      ∧ (runS.on 0 = true ∧ (uartS {}).writable .foreman (Adr.uartTx 1) 0x41 = true ∧ (uartS {}).flag (Adr.uartFmt 1) 0 = false
          ∧ ((uartS { shift := some 0x42, tx := List.replicate 31 0 }).uart 1).shift = some 0x42
          ∧ ((uartS { shift := some 0x42, tx := List.replicate 31 0 }).uart 1).tx.length < 32
          ∧ ((uartS {}).uart 1).shift = none ∧ (uartS {}).flag (Adr.uartCtrl 1) 0 = true ∧ (uartS {}).inRun = true
          ∧ 32 ≤ ((uartS { tx := List.replicate 32 0 }).uart 1).tx.length)
      ∧ ((runS.setUart 0 { de := .tail }).uart 0).de = .tail
      ∧ ((uartS {}).flag (Adr.uartStatus 1) 14 = false ∧ ((uartS {}).chan (uartChan 1)).textq = [] ∧ ((uartS {}).chan (uartChan 1)).echo = false
          ∧ (0x841 : BitVec 12).toNat.testBit 9 = false ∧ (0x841 : BitVec 12).toNat.testBit 10 = false
          ∧ (((uartS {}).setChan (uartChan 1) { out := [0xFF] }).chan (uartChan 1)).out = [0xFF] ∧ (0xFF : BitVec 9).toNat < 256) := by
  decide +kernel

/-- R386: a denied start bit is a glitch; a frame of zeros lacks its stop bit, and the receiver waits for a high sample. -/
theorem test_uart_rx : okN (exec (.uartCharReceived 1 []) (uartS { muted := false })) (fun t => t.reg (Adr.uartGlitchCnt 1) == 1 && (t.uart 1).rx == []) = true
    ∧ okN (exec (.uartCharReceived 1 lowL) (uartS { muted := false })) (fun t => (t.uart 1).waitHigh && (t.uart 1).rx.length == 1 && t.reg (Adr.uartFeCnt 1) == 1) = true := by
  decide +kernel

/-- R389, R391: a character written to an idle port is being sent, with DE of UART0 active; sent, DE waits for its tail. -/
theorem test_uart_tx : okN (exec (.uartTxWrite .foreman 0 0x41) ((runS.setReg (Adr.uartCtrl 0) 3).setUart 0 {}))
      (fun t => (t.uart 0).shift == some 0x41 && (t.uart 0).de == .active) = true
    ∧ okN (exec (.uartTxWrite .foreman 1 0x41) (uartS { tx := List.replicate 32 0 })) (fun t => t.flag (Adr.uartStatus 1) 15) = true := by
  decide +kernel
theorem test_uart_sent : okN (exec (.uartCharSent 0) (((runS.setReg (Adr.uartCtrl 0) 3).setReg (Adr.uartDe 0) 0x100).setUart 0 { shift := some 0x41, de := .active }))
      (fun t => (t.uart 0).sent == [0x41] && (t.uart 0).de == .tail) = true
    ∧ okN (exec .uartDeTailEnd (runS.setUart 0 { de := .tail })) (fun t => (t.uart 0).de == .idle) = true := by
  decide +kernel

/-- A Spoil entry of PARITY in Kerf 7. -/
def spoilX : SpoilEnt := { cls := .parity, fw := false, unit_ := 0x27, out := .pending, time := 0, detail := 0 }

/-- A log with this entry. -/
def spoilS (e : SpoilEnt) : State := runS.setSpoil { ents := [e] }

/-- A hewer's entry in DECODE, 1 ms past its deadline. -/
def hungS : State := (entS { entX .decode with bench := 7, hewer := 63 }).setTime 200000

theorem wit_SpoilAndRecovery :
    (∀ b : Fin 8, (runS.bench b).restart = none)
      ∧ (runS.powered = true ∧ runS.spoil.ents.any (·.isOpen .parity 0x27) = false ∧ runS.spoil.ents.length < 64)
      ∧ 64 ≤ (runS.setSpoil { ents := List.replicate 64 spoilX }).spoil.ents.length
      ∧ (spoilS spoilX).spoil.ents.any (·.isOpen .parity 0x27) = true
      ∧ ((spoilS spoilX).spoil.ents.zipIdx.find? (fun e => e.1.st != .handled) = some (spoilX, 0) ∧ spoilX.st = .new
          ∧ retryOf .encGlitch = .none_ ∧ SpoilClass.encGlitch ≠ .pwrOc ∧ (spoilS spoilX).released = [] ∧ spoilX.unit_ = BitVec.ofNat 8 (0x20 + 7)
          ∧ (spoilS spoilX).spoil.transients = [] ∧ (spoilS spoilX).undefAt (Adr.kerfCtrlEn 7) = false)
      ∧ ((inSt .boot 0x83).pw.st = .boot ∧ lastingIsland .fabric (0x40 : BitVec 8).toNat (reportOutcome .fabric .lasting) = true)
      ∧ (spoilS { spoilX with cls := .hang, unit_ := 0x37, st := .inhand }).spoil.ents.zipIdx.find?
            (fun e => e.1.st == .inhand && e.1.unit_.toNat == 0x30 + 7) = some ({ spoilX with cls := .hang, unit_ := 0x37, st := .inhand }, 0)
      ∧ (hungS.inRun = true ∧ (hungS.bench 7).leased = false ∧ hungS.hung (8 * 7 + 7) = some (4095, { entX .decode with bench := 7, hewer := 63 })
          ∧ hungS.spoil.ents.any (·.isOpen .hang (BitVec.ofNat 8 (0x30 + 7))) = false)
      ∧ (((inSt .boot 0x83).setReg Adr.sysBoot 4).writable .host Adr.sysRecov 0x80001 = true ∧ (0x80001 : Word).toNat.testBit 19 = true
          ∧ ((inSt .boot 0x83).setReg Adr.sysBoot 4).flag Adr.sysBoot 2 = true
          ∧ recValid 6 ((inSt .boot 0x83).recovRecord ((0x80001 : Word).toNat % 2 ^ 19 * 4096)) = false) := by
  decide +kernel

/-- R422, R424: a new entry, and a repetition. -/
theorem test_spoil_report : okN (exec (.spoilReport .parity 0x27 .pending 9) (spoilS spoilX)) (fun t => t.spoil.ents == [{ spoilX with rep := 2 }]) = true
    ∧ okN (exec (.spoilReport .encGlitch 0x27 .logged 9) (spoilS spoilX)) (fun t => t.spoil.ents.length == 2) = true := by
  decide +kernel

/-- R427: a Kerf that fails its repetition is out of service. -/
theorem test_spoil_handle : okN (exec (.spoilHandle false) (spoilS spoilX))
      (fun t => t.outOfService 0x27 && !t.flag (Adr.kerfCtrlEn 7) 0 && t.spoil.ents.map (·.out) == [.lasting]) = true
    ∧ okN (exec (.spoilHandle true) (spoilS spoilX)) (fun t => !t.outOfService 0x27 && t.spoil.ents.map (·.out) == [.transient]) = true := by
  decide +kernel

/-- R426: HANG is reported for the bench. -/
theorem test_hang : okN (exec (.hangDetect 7 7) hungS) (fun t => t.spoil.ents.map (·.unit_) == [0x37] && t.spoil.ents.map (·.cls) == [.hang]) = true := by
  decide +kernel

/-- R438: a record that fails its check sets BADREC. -/
theorem test_recov : okN (exec (.sysRecovGo .host 0x80001) ((inSt .boot 0x83).setReg Adr.sysBoot 4)) (fun t => t.flag Adr.sysBoot 5 && t.flag Adr.sysBoot 2) = true := by
  decide +kernel
/-! ### Witnesses: the command line's commands -/

/-- A number without a unit. -/
def qn (n : Int) : Qty := { m := n }

theorem wit_serves : runS.serves 9 ∧ runS.serves 0 := by unfold State.serves; decide
theorem wit_ready : runS.ready 9 .aon 0 ∧ runS.ready 9 (.seq 3) (facePd (3 : Fin 4)) ∧ runS.ready 9 (.port 15) (portPd (15 : Fin 16))
    ∧ runS.ready 9 (.face 3) (facePd (3 : Fin 4)) ∧ runS.ready 9 (.seam 3) 4 ∧ runS.ready 9 .rk 4 := by
  unfold State.ready State.serves; decide

/-- Whatever the foreman allocates at Boot, the empty pool has room for 8 GiB. -/
theorem wit_room : runS.room 0x200000000 ∧ runS.room 16777216 :=
  ⟨runS.room_of_empty _ rfl (by decide), runS.room_of_empty _ rfl (by decide)⟩

theorem wit_EncoderCommands :
    (runS.setReg (Adr.encCtrl 3) 0).flag (Adr.encCtrl 3) 0 = false ∧ conv (some ({ m := 5242875, u := .ns } : Qty)) (timeIn 0 0xFFFFF 5) = .ok (some 0xFFFFF)
      ∧ conv (some (qn 0xFFFF)) (fun q => q.count 0 0xFFFF) = .ok (some 0xFFFF)
      ∧ conv (some ({ m := 1, u := .us } : Qty)) (timeIn 1 0xFFFFF 1000) = .ok (some 1)
      ∧ (runS.fld (Adr.encCtrl 3) 4 3 ≤ 2 ∧ runS.fld (Adr.encCtrl 3) 2 1 ≤ 1)
      ∧ (qn (2 ^ 48 - 1)).count 0 (2 ^ 48 - 1) = .ok (2 ^ 48 - 1) ∧ runS.presetBarred 3 = false := by
  decide +kernel

/-- R83, R355: values at the ends of their ranges stand in the registers; one past it changes nothing. -/
theorem test_cmd_enc : okN (exec (.cmdEncFilter 9 3 (some { m := 5242875, u := .ns }) (some (qn 0xFFFF))) runS)
      (fun t => t.reg (Adr.encMinEdge 3) == 0xFFFFF && t.fld (Adr.encGlitchLim 3) 15 0 == 0xFFFF) = true
    ∧ okN (exec (.cmdEncFilter 9 3 (some { m := 5242880, u := .ns }) (some (qn 1))) runS) (fun t => t.regs == []) = true := by
  decide +kernel

theorem wit_TriggerCommands :
    (runS.flag (Adr.trgcCtrl 3) 0 = false ∧ conv (some (qn 1)) (plainIn 0x10000 (2 ^ 36 - 1) 65536) = .ok (some 65536)
        ∧ plainIn 0 (2 ^ 64 - 1) 65536 (qn 0) = .ok 0)
      ∧ (runS.flag (Adr.trghCtrl 15) 0 = false
          ∧ conv (some (qn (-8388608))) (fun q => do withinI (-8388608) 8388607 (← q.plain 1 1)) = .ok (some (-8388608))
          ∧ conv (none : Option Qty) (timeIn 0 0xFFFFF 5) = .ok none ∧ conv (some (qn 8192)) (fun q => q.count 1 8192) = .ok (some 8192))
      ∧ ((qn 1).count 0 (2 ^ 48 - 1) = .ok 1 ∧ gpioAction .set = .ok (0, 0) ∧ runS.gpio.pend.length < 32
          ∧ 0 < diff48 (BitVec.ofNat 48 1) (runS.enc 3).count)
      ∧ (runS.fld Adr.syncCtrl 1 0 = 0 ∧ (syncRoleFields (some (.master (qn 3)))).isOk = true
          ∧ conv ((some (some ({ m := 5, u := .ns } : Qty))).getD none) (timeIn 0 4095 5) = .ok (some 1) ∧ (qn 3).count 1 3 = .ok 3)
      ∧ ((syncM 0).fld Adr.syncCtrl 1 0 = 1 ∧ (syncM 0).fld Adr.syncCtrl 5 4 ≠ 0) := by
  decide +kernel

/-- R83: a signed delay, a channel and a slab length; an event ahead of the count. -/
theorem test_cmd_trg_head : okN (exec (.cmdTrgHead 9 15 (some 3) (some (qn (-1))) none (some (qn 8192))) runS)
    (fun t => t.fld (Adr.trghDelayL 15) 15 0 == 0xFFFF && t.fld (Adr.trghDelayH 15) 7 0 == 0xFF && t.fld (Adr.trghSlab 15) 12 0 == 8191
      && t.fld (Adr.trghCtrl 15) 2 1 == 3) = true := by
  decide +kernel
theorem test_cmd_trg_event : okN (exec (.cmdTrgEvent 9 7 3 (qn 1) .set false) runS) (fun t => t.gpio.pend.map (·.pin) == [7]) = true := by
  decide +kernel

theorem wit_SequencerCommands :
    runS.flag (Adr.seqCtrl 3) 0 = false
      ∧ (conv (some (qn 15)) (fun q => q.count 0 15) = .ok (some 15) ∧ conv (some (qn 3)) (fun q => q.count 0 3) = .ok (some 3)
          ∧ conv (some ({ m := 100, u := .ns } : Qty)) (timeIn 20 0xFFFFF 5) = .ok (some 20) ∧ (qn 47).count 0 47 = .ok 47 ∧ (runS.seq 3).swap = false)
      ∧ (qn 48).count 1 48 = .ok 48
      ∧ (1 ≤ runS.seqLen 3 (!runS.freeBank 3) ∧ runS.seqLen 3 (!runS.freeBank 3) ≤ 48
          ∧ ∀ i < 48, 20 ≤ (runS.reg (stepExp 3 (!runS.freeBank 3) i)).toNat)
      ∧ (conv (some (qn (2 ^ 48 - 1))) (fun v => v.count 0 (2 ^ 48 - 1)) = .ok (some (2 ^ 48 - 1)) ∧ runS.atNames 3 (2 ^ 48 - 1) = true ∧ runS.expFits 3 (!runS.seqBank 3) = true)
      ∧ (12 : Fin 16).val / 4 = (3 : Fin 4).val := by
  decide +kernel

/-- R99: a step goes to the bank not in use. -/
theorem test_cmd_seq_step : okN (exec (.cmdSeqStep 9 3 (qn 47) { plane := some (qn 3), int := some (qn 15) }) runS)
    (fun t => t.fld (stepLight 3 (runS.freeBank 3) 47) 11 6 == 63) = true := by
  decide +kernel

theorem wit_PortCommands :
    (runS.calHolds ((15 : Fin 16) / 4) = false ∧ runS.outOfService (15 : Fin 16) = false)
      ∧ (runS.flag (Adr.portCtrl 15) 0 = false ∧ conv (some (qn 4)) (fun q => q.count 1 4) = .ok (some 4) ∧ some 4 ≠ some 3
          ∧ conv (some ({ m := 45, e := 1, u := .gbps } : Qty)) (rateIn 80 4500) = .ok (some 4500))
      ∧ runS.fld (Adr.portCtrl 15) 2 1 ≠ 3
      ∧ (conv (some (qn 15)) (fun q => q.count 0 15) = .ok (some 15) ∧ conv (some (qn 16384)) (fun q => q.count 1 16384) = .ok (some 16384)
          ∧ runS.imgEn 15 0 = false ∧ runS.imgCount 15 ≤ 2)
      ∧ (conv (some (qn 1022)) (fun q => q.count 0 1022) = .ok (some 1022) ∧ runS.imgEn 15 1 = false
          ∧ conv (match some (CntOffset.offset (qn 65535)) with | some (.offset n) => some n | _ => none) (fun q => q.count 0 65535) = .ok (some 65535))
      ∧ (conv (some ({ m := 1, u := .us } : Qty)) (timeIn 1 0xFFFFF 1000) = .ok (some 1)
          ∧ conv (some ({ m := 100, u := .us } : Qty)) (timeIn 1 0xFFFFF 100000) = .ok (some 1))
      ∧ (runS.i2cBusy 15 = false ∧ runS.flag (Adr.portI2cStatus 15) 0 = false ∧ (qn 127).count 0 127 = .ok 127
          ∧ convAll (fun (q : Qty) => q.count 0 255) [qn 255, qn 0] = .ok [255, 0] ∧ conv (some (qn 32)) (fun q => q.count 0 32) = .ok (some 32)
          ∧ conv (some ({ m := 255, u := .ms } : Qty)) (timeIn 1 255 1000000) = .ok (some 255)) := by
  decide +kernel

/-- R121: lanes 4 is code 2; R117: i2c starts the transaction and holds the channel. -/
theorem test_cmd_port_lanes : okN (exec (.cmdPortLanes 9 15 (some (qn 4)) (some { m := 45, e := 1, u := .gbps })) runS)
    (fun t => t.fld (Adr.portCtrl 15) 2 1 == 2 && t.fld (Adr.portPhyRate 15) 12 0 == 4500) = true := by
  decide +kernel
theorem test_cmd_port_i2c : okN (exec (.cmdPortI2c 9 15 (qn 127) [qn 255, qn 0] (some (qn 32)) none none) runS)
    (fun t => (t.chan 9).long == some (.i2c 15 32) && (t.port 15).i2c == some ⟨127, 2, 32, [255, 0]⟩) = true := by
  decide +kernel

/-- Port 12's first stream is 2,048 pixels wide. -/
def narrowS : State := runS.setReg (Adr.portWidth 12 0) 2047

theorem wit_FaceCorrectionCommands :
    runS.calHolds (3 : Fin 4) = false
      ∧ (conv (some [qn 0, qn 3]) planeMask = .ok (some 9) ∧ runS.ctxEn 3 3 = false
          ∧ others 3 (fun d => narrowS.alnUsed 3 d) + 4 * 252 * narrowS.strWidth (narrowS.ctxPort 3 3) (narrowS.ctxStream 3 3) ≤ 2097152)
      ∧ (do withinI (-524288) 524287 (← (qn (-524288)).plain 1 1)) = .ok (-524288)
      ∧ ((runS.fillEntries 0 .zero).isOk = true ∧ runS.tblSettled 3 0 3 = true ∧ runS.tblSettled 3 2 0 = true)
      ∧ ((qn 16383).count 0 16383 = .ok 16383 ∧ bits (SMap.get tblBoot (runS.face 3).tbl (tblKey 2 0 0 (!runS.bankSet 3 2 0) 8191)).toNat 3 2 = 0)
      ∧ conv (some (qn 0xFFFFF)) (fun q => q.count 0 0xFFFFF) = .ok (some 0xFFFFF) ∧ (gainVal (qn 1)).isOk = true
      ∧ ((List.replicate 9 (qn 1)).length = 9
          ∧ convAll (fun (q : Qty) => do withinI (-524288) 524287 (← q.plain 32768 1)) (List.replicate 9 (qn 1)) = .ok (List.replicate 9 32768)) := by
  decide +kernel

/-- R147: a swap changes the bank, settings stand signed. -/
theorem test_cmd_face_swap : okN (exec (.cmdFaceToneSwap 9 3 3) runS) (fun t => t.bankSet 3 3 3 == !runS.bankSet 3 3 3) = true := by
  decide +kernel
theorem test_cmd_face_offset : okN (exec (.cmdFaceBlackOffset 9 3 3 3 (qn (-524288))) runS) (fun t => t.reg (Adr.fctxGlob 3 3 3) == 0x80000) = true := by
  decide +kernel

theorem wit_FaceSourceCommands :
    ((15 : Fin 16).val / 4 = (3 : Fin 4).val ∧ conv (some (qn 64)) (fun q => q.count 1 64) = .ok (some 64)
        ∧ conv (some (qn 8192)) (fun q => q.count 1 8192) = .ok (some 8192) ∧ runS.ctxEn 3 3 = false
        ∧ (∀ (g d : Fin 4), (g, d) ≠ (3, 3) → runS.ctxEn g d = false))
      ∧ (runS.slabSet 15 ≤ (some 8192).getD (runS.spoolLines 3 3) ∧ runS.pool = []
          ∧ (runS.unalloc (runS.dramAddr (Adr.fsrcSpoolBaseL 3 3) (Adr.fsrcSpoolBaseH 3 3))).pool = []
          ∧ (some 32).getD (runS.spoolSlabs 3 3) * (some 8192).getD (runS.spoolLines 3 3)
              * spoolStride (runS.strDt 15 (b2n true)) (runS.strWidth 15 (b2n true)) ≤ bootRoom)
      ∧ (runS.outOfService (0x10 + 3) = false ∧ (runS.setReg (Adr.fsrcSrc 3 3) 2).enableRefused 3 3 = false)
      ∧ (conv (some (qn 3)) (fun q => q.count 0 3) = .ok (some 3) ∧ (scaleCodes (qn 1, qn 1)).isOk = true
          ∧ conv (some (qn 255)) (fun q => q.count 0 255) = .ok (some 255)
          ∧ others 3 (fun e => narrowS.dlyUsed 3 e) + 255 * narrowS.strWidth (narrowS.ctxPort 3 3) (narrowS.ctxStream 3 3) ≤ 524288)
      ∧ (qn 63).count 0 63 = .ok 63 := by
  decide +kernel

/-- R148: a source in line; on starts it. -/
theorem test_cmd_face_source : okN (exec (.cmdFaceSource 9 3 3 15 true true none none none) runS)
      (fun t => t.ctxInline 3 3 && t.ctxPort 3 3 == 15 && t.ctxStream 3 3 == 1) = true
    ∧ okN (exec (.cmdFaceCtxOnOff 9 3 3 true) (runS.setReg (Adr.fsrcSrc 3 3) 2)) (fun t => t.ctxEn 3 3) = true := by
  decide +kernel

theorem wit_SeamCommands :
    (runS.outOfService (0x18 + 3) = false ∧ conv (some (qn 8)) (fun q => q.count 1 8) = .ok (some 8) ∧ conv (some (qn 255)) (fun q => q.count 1 255) = .ok (some 255))
      ∧ ((planeFields (some (.max (qn 0) (qn 3)))).isOk = true ∧ (runS.setReg (Adr.fsrcSrc 3 3) 1).ctxEn 3 3 = true
          ∧ runS.fld (Adr.sctxSrc 3 3) 2 1 = 0)
      ∧ (conv (some (qn 1530)) (fun q => q.count 0 1530) = .ok (some 1530) ∧ conv (some (qn 256)) (fun q => q.count 0 256) = .ok (some 256)
          ∧ conv (some (qn 391680)) (fun q => q.count 0 391680) = .ok (some 391680))
      ∧ (conv (some (qn 256)) (fun q => q.count 1 256) = .ok (some 256) ∧ conv (some (qn 7)) (fun q => q.count 0 7) = .ok (some 7))
      ∧ conv (some (qn 1, qn 63, qn 1)) (fun (l, g, d) => do return (← l.count 1 63) + 64 * (← g.count 1 63) + 4096 * (← d.count 1 63))
          = .ok (some (1 + 64 * 63 + 4096)) := by
  decide +kernel

/-- R190: the mode and planes of a context. -/
theorem test_cmd_seam_src : okN (exec (.cmdSeamSrc 9 3 3 (some (.max (qn 0) (qn 3))) none) (runS.setReg (Adr.fsrcSrc 3 3) 1))
    (fun t => t.fld (Adr.sctxSrc 3 3) 6 1 == 1 + 16 * 3) = true := by
  decide +kernel
theorem wit_RiddleCommands :
    conv (some (qn 256)) (fun q => do within 1 256 (← q.plain 1 256)) = .ok (some 1)
      ∧ (runS.stockEn 15 3 = false ∧ runS.outOfService 0x28 = false ∧ (runS.unalloc (runS.stockBase 15 3)).pool = []
          ∧ 256 * 32 * (stockStride (runS.lumaWidth 15) + 32) ≤ bootRoom ∧ runS.outOfService 0x1C = false)
      ∧ (runS.riddle.gpend = false ∧ runS.geoHeld = false ∧ (entS { entX .ready with gset := true }).geoHeld = true
          ∧ (entS { entX .ready with gset := true }).riddle.gpend = false)
      ∧ (conv (some (qn (-8388608), qn 0, qn 0)) (fun (a, b, c) => do
            let x ← withinI (-8388608) 8388607 (← a.len 1 1)
            let y ← withinI (-8388608) 8388607 (← b.len 65536 1)
            let z ← withinI (-524288) 524287 (← c.plain (2 ^ 32) 1)
            return (x, y, z)) = .ok (some (-8388608, 0, 0))
          ∧ (14 : Fin 16) ≠ 15 ∧ runS.headChan (14 : Fin 16) = runS.headChan (15 : Fin 16))
      ∧ (do within 1 0xFFFFF (← (qn 1).len 1024 1)) = .ok 1024 := by
  decide +kernel

theorem wit_RiddleCommands_settings :
    ([(15 : Fin 16)] ≠ [] ∧ runS.headFit (15 : Fin 16) = none)
      ∧ (conv (some (qn 255)) (fun q => q.count 0 255) = .ok (some 255)
          ∧ conv (some ({ m := 4095, e := 2, u := .deg } : Qty)) (fun q => do within 0 4095 (← q.angle 100 1)) = .ok (some 4095)
          ∧ conv (some ({ m := 65535, u := .ms } : Qty)) (timeIn 1 65535 1000000) = .ok (some 65535))
      ∧ (conv (some ({ m := 65535, u := .um } : Qty)) (fun q => do within 0 65535 (← q.len 1 1)) = .ok (some 65535) ∧ (qn 0xFFFFF).count 0 0xFFFFF = .ok 0xFFFFF)
      ∧ (conv (some (qn 4)) (plainIn 64 1024 256) = .ok (some 1024) ∧ conv (some ({ m := 25, u := .s } : Qty)) (timeIn 1 25000 1000000) = .ok (some 25000))
      ∧ ((runS.setReg Adr.riddleBenches 0).flag Adr.riddleBenches (7 : Fin 8) = false ∧ conv (some (qn 0)) (fun q => q.count 0 0xFFFFF) = .ok (some 0)
          ∧ conv (some (qn 63)) (fun q => q.count 1 63) = .ok (some 63) ∧ conv (some (qn 1)) (fun q => q.count 1 512) = .ok (some 1)
          ∧ 1 ≤ runS.fld (Adr.riddlePslot (7 : Fin 8)) 15 10 ∧ 1 ≤ runS.fld (Adr.riddlePslot (7 : Fin 8)) 9 0 ∧ runS.fld (Adr.riddlePslot (7 : Fin 8)) 9 0 ≤ 512
          ∧ 0 + 63 * 1 * 1024 ≤ 0x100000)
      ∧ (runS.outOfService (0x30 + 7) = false ∧ runS.on (benchPd (7 : Fin 8)) = true ∧ runS.outOfService (0x20 + 7) = false) := by
  decide +kernel

/-- R222: margins and the deadline of a class; R220: one bench leaves. -/
theorem test_cmd_riddle_class : okN (exec (.cmdRiddleClass 9 .dot (some (qn 4)) (some { m := 65535, u := .um }) (some { m := 25, u := .s }) none none) runS)
    (fun t => t.fld (Adr.riddleClsScale 2) 10 0 == 1024 && t.fld (Adr.riddleClsPmargin 2) 15 0 == 65535 && t.fld (Adr.riddleClsDeadline 2) 14 0 == 25000) = true := by
  decide +kernel
theorem test_cmd_riddle_bench : okN (exec (.cmdRiddleBenchOnOff 9 7 false) (runS.setReg Adr.riddleBenches 0xFF)) (fun t => t.reg Adr.riddleBenches == 0x7F) = true := by
  decide +kernel

theorem wit_SymbologyCommands :
    runS.idle .fw ∧ (1 : SymId) ≠ 0 ∧ ([2, 1] : List SymId).Nodup ∧ (∀ x ∈ ([2, 1] : List SymId), classTakes .grid x.val = true)
      ∧ (1 ≤ (3 : SymId).val ∧ (3 : SymId).val ≤ 3 ∧ conv (some (qn 255)) (fun q => q.count 0 255) = .ok (some 255)
          ∧ conv (some ({ m := 100, u := .pct } : Qty)) (fun q => do within 0 100 (← q.pct 1 1)) = .ok (some 100) ∧ (qn 80).count 0 80 = .ok 80)
      ∧ (4 ≤ (11 : SymId).val ∧ conv (some (qn 32)) (fun q => q.count 1 32) = .ok (some 32) ∧ conv (some (qn 20)) (fun q => q.count 0 20) = .ok (some 20) ∧ 32 ≤ 32)
      ∧ (conv (some (qn 1, qn 80)) lenRange = .ok (some (1, 80)))
      ∧ ((qn 2).count 1 80 = .ok 2 ∧ (qn 80).count 1 80 = .ok 80 ∧ 2 % 2 = 0 ∧ convAll (fun (q : Qty) => q.count 1 80) [qn 2, qn 80] = .ok [2, 80]
          ∧ [qn 2, qn 80].length ≤ 8) := by
  decide +kernel

/-- R240: settings of one symbology. -/
theorem test_cmd_sym_scans : okN (exec (.cmdSymScans 9 11 (some (qn 32)) (some (qn 32)) (some (qn 20))) runS)
    (fun t => (t.fw.sym 11).scans == 32 && (t.fw.sym 11).agree == 32 && (t.fw.sym 11).qz == 20 && t.fw.sym 10 == runS.fw.sym 10) = true := by
  decide +kernel
theorem test_cmd_sym_order : okN (exec (.cmdSymOrder 9 .grid [2, 1]) runS) (fun t => t.fw.orderGrid == [2, 1] && t.fw.orderDot == [3, 1]) = true := by
  decide +kernel

/-- A trend monitor that is on. -/
def trendX : TrendMon := { window := 3, below := 10, above := 40 }

theorem wit_GradeAndResultCommands :
    (do within 20 200 (← ({ m := 200, u := .pct } : Qty).pct 1 1)) = .ok 200
      ∧ ((qn 255).count 1 255 = .ok 255 ∧ ({ m := 1000, e := 1, u := .pct } : Qty).short = true ∧ (1000 : Int) ≤ 100 * 10 ^ 1)
      ∧ ((qn 1024).count 1 1024 = .ok 1024 ∧ plainIn 0 40 10 (qn 4) = .ok 40 ∧ plainIn 0 40 10 { m := 0 } = .ok 0 ∧ 0 ≤ 40
          ∧ (paramNib 1 .overall).isSome = true)
      ∧ (({ runS with fw := { trends := [(7, some trendX)] } } : State).fw.trend (7 : Fin 8) = some trendX
          ∧ conv (some (qn 1)) (fun q => q.count 1 1024) = .ok (some 1) ∧ conv (none : Option Qty) (plainIn 0 40 10) = .ok none
          ∧ (none : Option Nat).getD trendX.below ≤ (none : Option Nat).getD trendX.above)
      ∧ conv (some (qn 0)) (fun q => q.count 0 0xFFFFF) = .ok (some 0) := by
  decide +kernel

/-- R249: a monitor that is on keeps what is not given; R260: result removes the lines it sends. -/
theorem test_cmd_trend : okN (exec (.cmdGradeTrend 9 7 false none none none none (some (qn 1)) none none none) ({ runS with fw := { trends := [(7, some trendX)] } } : State))
    (fun t => (t.fw.trend 7).any (fun m => m.window == 1 && m.below == 10 && m.above == 40)) = true := by
  decide +kernel
theorem test_cmd_result : okN (exec (.cmdResult 1 (some (qn 1))) (runS.setChan 1 { textq := [[0x41], [0x42]] })) (fun t => (t.chan 1).textq == [[0x42]]) = true := by
  decide +kernel

theorem wit_BenchCommands :
    runS.on (benchPd (7 : Fin 8)) = true
      ∧ (runS.on 4 = true ∧ runS.retired 7 = false ∧ (runS.bench 7).leased = false ∧ (runS.bench 7).restart = none
          ∧ runS.isReleased .rk = false ∧ runS.idle (.unit .rk) ∧ runS.idle (.bench (7 : Fin 8).val) ∧ runS.idle (.bench 8)
          ∧ ((0 : Fin 8) ≠ 7 ∧ (runS.setReg Adr.riddleBenches 0x81).flag Adr.riddleBenches (0 : Fin 8) = true)
          ∧ (∀ h : Fin 8, (runS.core (8 * 7 + h.val)).ports = [] ∧ (runS.core (8 * 7 + h.val)).flight = []
              ∧ (runS.core (8 * 7 + h.val)).raw = [] ∧ (runS.core (8 * 7 + h.val)).noDelay = true)
          ∧ (({ running := true } : Hewer).noDelay = true))
      ∧ (((benchS { leased := true, buf := some 0x1000000000, saved := List.replicate 9 1 }).bench 7).leased = true
          ∧ ((benchS { leased := true, buf := some 0x1000000000, saved := List.replicate 9 1 }).bench 7).buf = some 0x1000000000
          ∧ ((benchS { leased := true, buf := some 0x1000000000, saved := List.replicate 9 1 }).bench 7).saved.length = 9)
      ∧ ((coreS {}).bench 7 |>.leased) = true ∧ ((coreS {}).core 63).running = false ∧ (qn 0x7FFF).count 0 0x7FFF = .ok 0x7FFF
      ∧ (coreS {}).flag (Adr.benchHctrl 7 7) 0 = false
      ∧ (72 ≤ (79 : Fin 80).val ∨ (runS.bench (boxBench 79)).leased = true) ∧ ((coreS {}).bench (boxBench 71)).leased = true
      ∧ ((8 : Chan).val < 2 ∨ (79 : Fin 80).val ≠ 70 + (8 : Chan).val) ∧ ((1 : Chan).val < 2 ∨ (71 : Fin 80).val ≠ 70 + (1 : Chan).val)
      ∧ (coreS {}).idle (.bench (if (71 : Fin 80).val < 72 then boxBench 71 else 8)) := by
  decide +kernel

/-- R288: start runs the hewer at its address. -/
theorem test_cmd_start : okN (exec (.cmdHewerStart 9 7 7 (qn 0x7FFF)) (coreS {})) (fun t => (t.core 63).running && (t.core 63).pc == 0x7FFF) = true := by
  decide +kernel

/-- Bytes of a line as characters received. -/
def chars (s : String) : List InChar := s.toList.map (fun c => { ch := BitVec.ofNat 8 c.toNat })

/-- Channel 9 with these characters received. -/
def lineS (l : List InChar) : State := runS.setChan 9 { inp := l }

/-- A set of one command, with its check word. -/
def setX : CfgSet := { name := "a", lines := [bytesOf "id"], crc := crc32 (textOf [bytesOf "id"]) }

theorem wit_SessionCommands :
    ((some true).isSome = true ∧ (none : Option Bool) = none) ∧ ((qn 1).plain 1 1 = .ok 1 ∧ (qn 2).plain 1 1 = .ok 2)
      ∧ ((qn 15).count 0 15 = .ok 15 ∧ runS.released = [] ∧ nameOk "a" = true
          ∧ ({ runS with flash := { sets := [(15, some setX)] } } : State).cfgSet 15 = some setX ∧ setX.ok = true
          ∧ runS.cfgSet 15 = none ∧ runS.idle (.set 15) ∧ ∀ k < 10, (runS.chan k).long = none)
      ∧ ((runS.chan 1).cur = {} ∧ (runS.chan 1).check = false ∧ (runS.setReg (Adr.uartFmt 0) 0).flag (Adr.uartFmt 0) 1 = false)
      ∧ matchWord verbs .syntax_ ("ENC".toList.map Char.toLower) = .ok "enc" ∧ (inSt .boot 0x83).pw.st = .boot := by
  decide +kernel

/-- Of the two clauses on a load's outcome one holds of every set. -/
theorem wit_load (c : CfgSet) : (∃ u, runS.applySet (some 9) (some c) = (u, none)) ∨ ∃ u e m, runS.applySet (some 9) (some c) = (u, some (e, m)) := by
  rcases h : runS.applySet (some 9) (some c) with ⟨u, _ | ⟨e, m⟩⟩
  · exact .inl ⟨u, rfl⟩
  · exact .inr ⟨u, e, m, rfl⟩

/-- Of the two clauses on a save one holds of every name. -/
theorem wit_save (n : String) : (∃ c, runS.snapshot n = .ok c) ∨ ∃ e, runS.snapshot n = .error e := by
  rcases h : runS.snapshot n with e | c
  · exact .inr ⟨e, rfl⟩
  · exact .inl ⟨c, rfl⟩

/-- R381: reset enters Reset with cause 2; R376: release and take. -/
theorem test_cmd_reset : okN (exec (.cmdReset 9) runS) (fun t => t.pw.st == .reset && t.pw.cause == 2) = true := by decide +kernel
theorem test_cmd_own : okN (exec (.cmdOwnRelease 9 .rk) runS) (fun t => t.isReleased .rk && !t.isReleased .aon) = true
    ∧ okN (exec (.cmdOwnTake 9 .rk) (runS.setReleased [.aon, .rk])) (fun t => !t.isReleased .rk && t.isReleased .aon) = true := by
  decide +kernel

/-- The error of a command. -/
def errOf {α : Type} (m : CmdM α) : Option ErrCode :=
  match m with
  | .error e => some e
  | .ok _ => none

theorem wit_LinesAreReceived :
    ((lineS []).pw.st = .run ∧ ((lineS []).chan 9).ready = true ∧ (lineS []).undef = [] ∧ takeLine ((lineS []).chan 9).inp = none
        ∧ ∀ k : Chan, k ≠ 9 → takeLine ((lineS (chars "id" ++ [{ ch := 0x0A }])).chan k).inp = none)
      ∧ (takeLine [{ ch := 0x41 }, { ch := 0x0A, bad := true }] = some ([0x41], { ch := 0x0A, bad := true }, []))
      ∧ (takeLine [{ ch := 0x20 }, { ch := 0x0A }] = some ([0x20], { ch := 0x0A }, []) ∧ ∀ b ∈ [(0x20 : Byte)], b = 0x20 ∨ b = 0x09)
      ∧ (takeLine [{ ch := 0x41 }, { ch := 0x0A, tooLong := true }] = some ([0x41], { ch := 0x0A, tooLong := true }, []))
      ∧ (checkLine false (bytesOf "#8 trg e0 off*01")).body = .error .checksum
    := by
  decide +kernel

/-- Lines whose words or command are in error, and one that runs. -/
theorem wit_LinesAreReceived_commands :
    ((checkLine false (bytesOf "ids")).body = .ok [['i', 'd', 's']] ∧ errOf (readWords 9 [['i', 'd', 's']]) = some .verb
          ∧ ∃ b ∈ bytesOf "ids", b ≠ 0x20 ∧ b ≠ 0x09)
      ∧ ((readWords 9 [['i', 'd']]).toOption.map List.length = some 1
          ∧ (readWords 9 [['i', 'd']]).toOption.any (fun ps => (runAll ps runS).isOk) = true)
      ∧ ((readWords 9 [['e', 'v', 'e', 'n', 't']]).toOption.any (fun ps => errOf (runAll ps runS) == some .state)) = true := by
  decide +kernel

/-- R357: the manual's examples of a checksum that holds and of one that does not. -/
theorem test_checksum : (checkLine true (bytesOf "#7 trg e0 on*01")).body.isOk = true
    ∧ (checkLine true (bytesOf "#8 trg e0 off*01")).body = .error .checksum := by
  decide +kernel

/-- R349, R357: a whole line leaves the buffer and its command runs and is answered; one of spaces draws no response. -/
theorem test_line : okN (exec (.commandLineReceived 9) (lineS (chars "#7 trg e0 on*01" ++ [{ ch := 0x0A }] ++ chars "x")))
      (fun t => (t.chan 9).inp == chars "x" && t.schedOn 0 && (t.chan 9).out.map (·.setWidth 8) == bytesOf "#7 ok*30" ++ [(0x0A : Byte)]) = true
    ∧ okN (exec (.commandLineReceived 9) (lineS [{ ch := 0x20 }, { ch := 0x0A }])) (fun t => (t.chan 9).inp == [] && (t.chan 9).out == []) = true := by
  decide +kernel

theorem wit_SerialPowerAndBootCommands :
    (conv (some (qn 9600)) baudDiv |>.isOk) = true
      ∧ (conv (some (qn 65535)) (fun q => q.count 1 65535) = .ok (some 65535) ∧ conv (some (qn 8)) (fun q => q.count 7 8) = .ok (some 8)
          ∧ conv (some (qn 2)) (fun q => q.count 1 2) = .ok (some 2) ∧ (runS.uartReg 1 (Adr.uartFmt 1)).toNat.testBit 1 = false)
      ∧ (conv (some (qn 254)) (fun q => q.count 1 254) = .ok (some 254) ∧ conv (some (qn 255)) (fun q => q.count 0 255) = .ok (some 255)
          ∧ (runS.uartReg 0 (Adr.uartFmt 0)).toNat.testBit 0 = false)
      ∧ (runS.idle .uart ∧ runS.idle .pwr ∧ runS.idle (.domain (6 : Fin 8).val) ∧ runS.idle (.image true) ∧ runS.idle .prefer)
      ∧ (runS.recovering 6 = false ∧ runS.mayOff 6 = false ∧ (inSt .run 0xBF).on (6 : Fin 8) = false ∧ (runS.setReg Adr.riddleBenches 0).mayOff 6 = true)
      ∧ (qn 100).count 85 100 = .ok 100
      ∧ ((qn 64).count 64 dramSize = .ok 64 ∧ 64 ≤ 0x400000 ∧ (qn 0x16FFFFFFC0).count dramBase (dramBase + dramSize - 1) = .ok 0x16FFFFFFC0
          ∧ 0x16FFFFFFC0 + 64 ≤ dramBase + dramSize ∧ runS.pw.imageB ≠ true) := by
  decide +kernel

/-- R404, R409: a domain switched off; standby begins the drain. -/
theorem test_cmd_pwr : okN (exec (.cmdPwrPd 9 6 false) (runS.setReg Adr.riddleBenches 0)) (fun t => !t.on 6) = true
    ∧ okN (exec (.cmdPwrStandby 9) (runS.setReg (Adr.trgcCtrl 3) 1)) (fun t => t.pw.st == .drain && !t.schedOn 3) = true := by
  decide +kernel

theorem wit_HostCalAndSpoilCommands :
    (runS.on 1 = true ∧ runS.idle .host ∧ runS.idle (.record (nameKey "a")) ∧ runS.fld Adr.pcieCtrl 1 0 = 0 ∧ ∀ r < 48, runS.ringEn r = false)
      ∧ (conv (some (qn 0x1000)) hostAddr |>.isOk) = true ∧ (conv (some (qn 1024)) (sizeExp 10 6) = .ok (some 0)) ∧ conv (some (qn 65536)) (sizeExp 16 9) = .ok (some 0)
      ∧ (conv (some (qn (32 * 4096))) (fun q => q.count (32 * 4096) (16383 * 4096)) = .ok (some 131072) ∧ 131072 % 4096 = 0)
      ∧ (runS.on (facePd (3 : Fin 4)) = true ∧ runS.isReleased (.face 3) = false ∧ (runS.setReg (Adr.fsrcSrc 3 3) 1).ctxEn 3 3 = true ∧ nameOk "a" = true
          ∧ (∀ j ∈ runS.cal, nameKey j.name ≠ nameKey "a") ∧ (calLines none).isOk = true ∧ (qn 0xFFFFF).count 0 0xFFFFF = .ok 0xFFFFF
          ∧ conv (some ({ m := 100, u := .pct } : Qty)) (fun q => do within 0 10000 (← q.pct 100 1)) = .ok (some 10000))
      ∧ 200000000 ≤ (runS.setTime 200000000).since 0
      ∧ ((do within 0 1000000 (← ({ m := 100, u := .pct } : Qty).pct 100 1)) = .ok 10000 ∧ runS.cal = [])
      ∧ (({ runS with flash := { recs := [⟨.table .tone, "a", [1], 1, true, true⟩] } } : State).recNamed "a" = some ⟨.table .tone, "a", [1], 1, true, true⟩)
      ∧ ((qn 0x16FFFFFFFF).count dramBase (dramBase + dramSize - 1) = .ok 0x16FFFFFFFF ∧ 0x16FFFFFFFF + [(1 : Byte)].length ≤ dramBase + dramSize)
      ∧ runS.recBytes "a" + 64 + tblPayload .defect ≤ calArea ∧ runS.powered = true := by
  decide +kernel

/-- R440: a measurement without a line for a second ends; R431: clear keeps the unhandled entries. -/
theorem test_cal_timeout : okN (exec (.calNoLineTimeout 3 3)
      ((({ runS with cal := [⟨9, false, 3, 3, 0, 0, 1, 1, "a", 0, [], none, 0, 0⟩] } : State).setTime 200000000).setChan 9 { long := some (.cal 3 3) }))
    (fun t => t.cal == [] && (t.chan 9).long == none) = true := by
  decide +kernel
theorem test_cmd_spoil_clear : okN (exec (.cmdSpoilClear 9) (runS.setSpoil { ents := [spoilX, { spoilX with st := .handled }], lost := 5 }))
    (fun t => t.spoil.ents == [spoilX] && t.spoil.lost == 0) = true := by
  decide +kernel

/-- R466: five edges with TMS high reset the TAP controller; IDCODE is captured and shifted from its lowest bit. -/
theorem test_jtag : okN (exec (.jtagTckEdge true false) (runS.setJtag { tap := .selIr })) (fun t => t.jtag.tap == .reset && t.jtag.ir == 2) = true
    ∧ okN (exec (.jtagTckEdge false false) (runS.setJtag { tap := .capDr })) (fun t => t.jtag.tap == .shDr && t.jtag.dr == idcode && t.jtag.tdo == some true) = true := by
  decide +kernel

theorem wit_FrameOfFirmwareCommands :
    okN (exec (.cmdGradeAperture 9 { m := 200, u := .pct }) runS) (fun _ => true) = true ∧ onlyFirmware (.cmdGradeAperture 9 (qn 200)) = true
      ∧ onlyOwn (.cmdOwnTake 9 .rk) = true ∧ okN (exec (.cmdOwnTake 9 .rk) runS) (fun _ => true) = true
      ∧ onlyFlash (.cmdBootSet 9 none) = true ∧ okN (exec (.cmdBootSet 9 none) runS) (fun _ => true) = true
      ∧ okN (exec (.cmdSpoilClear 9) runS) (fun _ => true) = true ∧ okN (exec (.cmdCalExport 9 "a" (qn 0)) runS) (fun _ => true) = true
      ∧ (({ runS with flash := { recs := [⟨.table .tone, "a", [1], 1, true, true⟩] } } : State).recNamed "a").isSome = true := by
  decide +kernel

/-- A long command is answered when the clock ticks, and not before (R364). -/
theorem test_long_answered_at_tick :
    let s := runS.setChan 2 { runS.chan 2 with long := some (.work .save [bytesOf "ok"] false .nothing) }
    (s.chan 2).ready = false ∧ (s.finishLong.chan 2).long = none
      ∧ (s.finishLong.chan 2).out = (bytesOf "ok\n").map (BitVec.setWidth 9) := by decide
end Sys2Proof.Tests
end

section
/-!
PROOFS. Power domains that are off (R33): every access to one of their registers is answered before it reaches the block.
-/
namespace Sys2Proof.Machine

/-! ### The domain of a register -/

theorem Hit.domain_of_bench {h : Hit} (hb : h.blk = .bench) : h.domain = benchPd h.i := by
  unfold Hit.domain benchPd
  rw [hb]

theorem Hit.domain_of_pcie {h : Hit} (hb : h.blk = .pcie) : h.domain = 1 := by
  unfold Hit.domain
  rw [hb]

/-- The address is one of a register whose domain is off: one that only the foreman's firmware uses, or a modelled one. -/
def State.registerOff (s : State) (a : Nat) : Prop :=
  (isPrivate a = true ∧ s.on (privatePd a) = false)
    ∨ (isPrivate a = false ∧ isDram a = false ∧ ∃ h, RegMap.find a = some h ∧ s.on h.domain = false)

/-! ### Writes to a domain that is off, one lemma for each way a write can go -/

theorem State.guardWrite_of_off {s : State} {a : Nat} {h : Hit} (hf : RegMap.find a = some h) (ho : s.on h.domain = false)
    (ag : Agent) (w : Word) (k : Hit → State → Out) : s.guardWrite ag a w k = .next s := by
  simp [State.guardWrite, hf, ho]

theorem benchPoke_of_off {s : State} {b : Nat} (ho : s.on (benchPd b) = false) (ag : Agent) (a : Nat) (w : Word) :
    benchPoke ag b a w s = .next s := by
  cases ag <;> simp [benchPoke, ho]

theorem consWrite_of_off {s : State} (ho : s.on 1 = false) (ag : Agent) (a : Nat) (v : Word) :
    consWrite ag a v s = .next s := by
  simp [consWrite, ho]

/-- A write to a domain that is off is ignored, also where a block has a rule of its own that comes before the guard: the
bench registers that hewers reach, and the consumer registers. -/
theorem busWrite_of_off {s : State} {a : Nat} (ho : s.registerOff a) (ag : Agent) (w : Word) : busWrite ag a w s = .next s := by
  unfold busWrite
  rcases ho with ⟨hp, ho⟩ | ⟨hp, hd, h, hf, ho⟩
  · simp [hp, ho]
  · simp only [hp, hd, hf, ho, Bool.false_eq_true, if_false, Bool.false_and]
    split
    · rfl
    · split
      · next hb => exact benchPoke_of_off (Hit.domain_of_bench hb.1 ▸ ho) ag a w
      · split
        · next hc => exact consWrite_of_off (Hit.domain_of_pcie hc.1 ▸ ho) ag a w
        · split
          · rfl
          · exact State.guardWrite_of_off hf ho ag w _

/-! ### Reads of a domain that is off -/

theorem State.busRead_of_off {s : State} {a : Nat} (ho : s.registerOff a) (ag : Agent) : s.busRead ag a = (0, s) := by
  unfold State.busRead
  rcases ho with ⟨hp, ho⟩ | ⟨hp, hd, h, hf, ho⟩
  · simp [hp, ho]
  · simp [hp, hd, hf, ho]

theorem State.readTo_of_off {s : State} {a : Nat} (ho : s.registerOff a) (ag : Agent) : s.readTo ag a = s.retW ag 0 := by
  simp only [State.readTo, State.busRead_of_off ho]

/-! ### The commands -/

theorem exec_registerWrite_eq (ag : Agent) (a : Nat) (v : BitVec 32) (s : State) :
    exec (.registerWrite ag a v) s = busWrite ag a (v.setWidth 20) s := rfl

theorem exec_rcFieldRead_eq (ag : Agent) (a : Nat) (s : State) : exec (.rcFieldRead ag a) s = .next (s.readTo ag a) := rfl

theorem exec_latchingRead_eq (ag : Agent) (a : Nat) (s : State) : exec (.latchingRead ag a) s = .next (s.readTo ag a) := rfl

/-- Settles O5: no access gets past the check of the domain, which each of the write's own paths repeats. -/
theorem domainOffRegisters : Obligations.DomainOffRegisters := by
  intro ag a v s ho
  refine ⟨State.busRead_of_off ho ag, ?_, ?_, ?_⟩
  · rw [exec_registerWrite_eq, busWrite_of_off ho]
  · rw [exec_rcFieldRead_eq, State.readTo_of_off ho]
  · rw [exec_latchingRead_eq, State.readTo_of_off ho]

end Sys2Proof.Machine
end

section
/-!
PROOFS. Wake events (R28, R29, R401, R411): what holding one and completing the entry into Standby do to the state of R26.
-/
namespace Sys2Proof.Machine

/-! ### Entry into Boot: reports, flags and versions leave the power state -/

@[simp] theorem State.spoilAdd_pw (s : State) (cls : SpoilClass) (u : Nat) (out : SpoilOutcome) (detail : Nat) :
    (s.spoilAdd cls u out detail).pw = s.pw := by
  unfold State.spoilAdd
  dsimp only
  split
  · rfl
  · split <;> rfl

@[simp] theorem State.spoilLog_pw (s : State) (cls : SpoilClass) (u detail : Nat) : (s.spoilLog cls u detail).pw = s.pw :=
  s.spoilAdd_pw cls u .pending detail

@[simp] theorem State.setFlag_pw (s : State) (a i : Nat) (b : Bool) : (s.setFlag a i b).pw = s.pw := rfl

@[simp] theorem State.pw_setFw_ (s : State) (f b : BitVec 24) : (s.setFw_ f b).pw = s.pw := rfl

@[simp] theorem State.badImage_pw (s : State) (b : Bool) : (s.badImage b).pw = s.pw := by
  simp [State.badImage]

/-- Whichever image Boot runs, if any, the engine stays in the state it is in. -/
theorem State.chooseImage_st (s : State) : s.chooseImage.pw.st = s.pw.st := by
  unfold State.chooseImage
  extract_lets img p run bad
  split
  · simp [run]
  · split
    · simp [run, bad]
    · simp [bad]

theorem State.enterBoot_st (s : State) : s.enterBoot.pw.st = .boot := by
  unfold State.enterBoot
  rw [State.chooseImage_st]
  split <;> split <;> simp

/-! ### A held wake event -/

/-- What the sensors read is part of the power state alone (R417). -/
theorem State.allBelow_congr {s t : State} (h : t.pw.temps = s.pw.temps) (d : Nat) : t.allBelow d = s.allBelow d := by
  unfold State.allBelow State.temp
  rw [h]

theorem State.tryWake_of_not_standby {s : State} (h : s.pw.st ≠ .standby) : s.tryWake = s := by
  unfold State.tryWake
  split <;> simp [h]

/-- In Standby a held event leads to Boot where the main input is valid and no sensor reads above 100 °C. -/
theorem State.tryWake_of_ready {s : State} {c : BitVec 8} (hst : s.pw.st = .standby) (hh : s.pw.wakeHeld = some c)
    (hm : s.pw.mainOk = true) (ht : s.allBelow 100 = true) : s.tryWake = s.enterBoot := by
  simp [State.tryWake, hst, hh, hm, ht]

theorem State.tryWake_of_not_ready {s : State} (h : s.pw.mainOk = false ∨ s.allBelow 100 = false) : s.tryWake = s := by
  unfold State.tryWake
  split
  · rcases h with h | h <;> simp [h]
  · rfl

/-- The state that holds the wake event of a source, its code in WAKESRC. -/
def State.holdWake (s : State) (src : WakeSrc) : State :=
  (s.setReg Adr.pwrWakesrc ((wakeCode src).setWidth 20)).setPw { s.pw with wakeHeld := some (wakeCode src) }

@[simp] theorem State.holdWake_pw (s : State) (src : WakeSrc) :
    (s.holdWake src).pw = { s.pw with wakeHeld := some (wakeCode src) } := rfl

/-! ### The commands -/

theorem exec_wakeEvent_eq (src : WakeSrc) (s : State) :
    exec (.wakeEvent src) s = .next (if s.wakeSeen src then s.wake src else s) := rfl

/-- While the engine is entering Standby, the first event of an enabled source is held and does nothing else. -/
theorem exec_wakeEvent_entering {s : State} {src : WakeSrc} (hst : s.pw.st = .entering) (he : s.wakeEnabled src = true)
    (hs : s.wakeSeen src = true) (hn : s.pw.wakeHeld = none) : exec (.wakeEvent src) s = .next (s.holdWake src) := by
  have hw : s.wake src = (s.holdWake src).tryWake := by
    simp [State.wake, State.holdWake, hst, he, hn]
  rw [exec_wakeEvent_eq, if_pos hs, hw, State.tryWake_of_not_standby (by simp [hst])]

/-- The entry into Standby is complete, and nothing has been tried yet. -/
def State.reachStandby (s : State) : State := s.setPw { s.pw with st := .standby }

@[simp] theorem State.reachStandby_pw (s : State) : s.reachStandby.pw = { s.pw with st := .standby } := rfl

theorem exec_standbyEntryComplete_eq (s : State) :
    exec .standbyEntryComplete s = if s.pw.st == .entering then .next s.reachStandby.tryWake else .next s := rfl

theorem exec_standbyEntryComplete_entering {s : State} (hst : s.pw.st = .entering) :
    exec .standbyEntryComplete s = .next s.reachStandby.tryWake := by
  rw [exec_standbyEntryComplete_eq, if_pos (by simp [hst])]

/-- Settles O10: the event is held by the first command, and the second one tries it as Standby is reached. -/
theorem wakeHeldDuringEntry : Obligations.WakeHeldDuringEntry := by
  intro src s hst he hs hn
  have hheld : (s.holdWake src).pw.st = .entering := hst
  have htemp : (s.holdWake src).reachStandby.allBelow 100 = s.allBelow 100 := State.allBelow_congr (by simp) 100
  refine ⟨_, exec_wakeEvent_entering hst he hs hn, hheld, by simp, _, exec_standbyEntryComplete_entering hheld, ?_, ?_⟩
  · intro hm ht
    rw [State.tryWake_of_ready (c := wakeCode src) (by simp) (by simp) (by simpa using hm) (htemp.trans ht),
      State.enterBoot_st]
  · intro hnot
    rw [State.tryWake_of_not_ready (by simpa [htemp] using hnot)]
    simp

end Sys2Proof.Machine
end

section
/-!
PROOFS. Mailboxes (R334, R336, R346): what a read of RX and a read of STAT return at an end that is the agent's, and what RX removes.
-/
namespace Sys2Proof.Machine

/-! ### The two ends of a box -/

@[simp] theorem Mbx.side_put_same (x : Mbx) (far : Bool) (e : BoxEnd) : (x.put far e).side far = e := by
  cases far <;> rfl

@[simp] theorem Mbx.side_put_not (x : Mbx) (far : Bool) (e : BoxEnd) : (x.put (!far) e).side far = x.side far := by
  cases far <;> rfl

/-- What waits for an end is the other end's queue, so replacing the end itself leaves it. -/
@[simp] theorem Mbx.incoming_put_same (x : Mbx) (far : Bool) (e : BoxEnd) : (x.put far e).incoming far = x.incoming far := by
  cases far <;> rfl

@[simp] theorem Mbx.incoming_put_not (x : Mbx) (far : Bool) (e : BoxEnd) : (x.put (!far) e).incoming far = e.out := by
  cases far <;> rfl

/-! ### RX (R336) -/

theorem Mbx.pop_of_nil {x : Mbx} {far : Bool} (h : x.incoming far = []) :
    x.pop far = (0, x.put far { x.side far with rxund := true }) := by
  simp only [Mbx.pop, h]

theorem Mbx.pop_of_cons {x : Mbx} {far : Bool} {w : Word} {l : Bool} {q : List (Word × Bool)}
    (h : x.incoming far = (w, l) :: q) : x.pop far = (w, x.put (!far) { x.side (!far) with out := q }) := by
  simp only [Mbx.pop, h]

/-! ### STAT (R346) -/

/-- ENDPOS: the position, counted from 1 at the oldest word, of the first waiting word marked LAST; 0 where none is. -/
def Mbx.endPos (x : Mbx) (far : Bool) : Nat := ((x.incoming far).findIdx? Prod.snd).elim 0 (· + 1)

theorem Mbx.stat_eq (x : Mbx) (far : Bool) :
    x.stat far = BitVec.ofNat 20 ((x.incoming far).length + 16 * (8 - (x.side far).out.length) + 256 * x.endPos far
      + 4096 * b2n (x.side far).rxund + 8192 * b2n (x.side far).txovf) := by
  dsimp only [Mbx.stat, Mbx.endPos]
  cases (x.incoming far).findIdx? fun p => p.2 <;> rfl

theorem Mbx.endPos_of_first {x : Mbx} {far : Bool} {i : Nat} (hi : ((x.incoming far)[i]?).map Prod.snd = some true)
    (hlt : ∀ j < i, ((x.incoming far)[j]?).map Prod.snd = some false) : x.endPos far = i + 1 := by
  have hfind : (x.incoming far).findIdx? Prod.snd = some i := by
    obtain ⟨p, hp, hmark⟩ := Option.map_eq_some_iff.mp hi
    obtain ⟨hlen, rfl⟩ := List.getElem?_eq_some_iff.mp hp
    refine List.findIdx?_eq_some_iff_getElem.mpr ⟨hlen, hmark, fun j hj => ?_⟩
    simpa [List.getElem?_eq_getElem (hj.trans hlen)] using hlt j hj
  simp [Mbx.endPos, hfind]

theorem Mbx.endPos_of_unmarked {x : Mbx} {far : Bool} (h : ∀ p ∈ x.incoming far, p.2 = false) : x.endPos far = 0 := by
  simp [Mbx.endPos, List.findIdx?_eq_none_iff.mpr h]

theorem Mbx.endPos_le_length (x : Mbx) (far : Bool) : x.endPos far ≤ (x.incoming far).length := by
  cases hfind : (x.incoming far).findIdx? Prod.snd with
  | none => simp [Mbx.endPos, hfind]
  | some i =>
    obtain ⟨hlen, -, -⟩ := List.findIdx?_eq_some_iff_getElem.mp hfind
    simpa [Mbx.endPos, hfind] using hlen

theorem b2n_le_one (b : Bool) : b2n b ≤ 1 := by
  cases b <;> decide

/-- The counts below bit 8 stay below 256 while at most eight words wait, so they do not reach into ENDPOS. -/
theorem Mbx.bits_stat_endPos {x : Mbx} {far : Bool} (h : (x.incoming far).length ≤ 8) :
    bits (x.stat far).toNat 11 8 = x.endPos far := by
  have hpos := x.endPos_le_length far
  have hr := b2n_le_one (x.side far).rxund
  have ht := b2n_le_one (x.side far).txovf
  rw [Mbx.stat_eq, BitVec.toNat_ofNat, bits, Nat.shiftRight_eq_div_pow]
  omega

/-! ### Accesses at an open end -/

theorem State.boxAccess_rx_of_open {s : State} {ag : Agent} {n : Nat} {far : Bool} (h : s.boxOpen ag n far = true) :
    s.boxAccess ag n far 2 none = (((s.box n).pop far).1, s.setBox n ((s.box n).pop far).2) := by
  rw [State.boxAccess, if_pos h]
  rfl

theorem State.boxAccess_stat_of_open {s : State} {ag : Agent} {n : Nat} {far : Bool} (h : s.boxOpen ag n far = true) :
    (s.boxAccess ag n far 3 none).1 = (s.box n).stat far := by
  rw [State.boxAccess, if_pos h]
  rfl

@[simp] theorem State.rdVal_retW (s : State) (ag : Agent) (w : Word) : (s.retW ag w).rdVal (readerOf ag) = w.setWidth 32 :=
  s.rdVal_ret ag (w.setWidth 32)

@[simp] theorem State.box_retW (s : State) (ag : Agent) (w : Word) (n : Nat) : (s.retW ag w).box n = s.box n := rfl

/-! ### The command -/

theorem exec_mbxRx_eq (ag : Agent) (n : Fin 80) (far : Bool) (s : State) :
    exec (.mbxRx ag n far) s = .next ((s.boxAccess ag n far 2 none).2.retW ag (s.boxAccess ag n far 2 none).1) := rfl

theorem exec_mbxRx_of_open {s : State} {ag : Agent} {n : Fin 80} {far : Bool} (h : s.boxOpen ag n far = true) :
    exec (.mbxRx ag n far) s = .next ((s.setBox n ((s.box n).pop far).2).retW ag ((s.box n).pop far).1) := by
  rw [exec_mbxRx_eq, State.boxAccess_rx_of_open h]

/-- Settles O58: RX is a pop of the incoming queue, and bits 11 to 8 of STAT are ENDPOS. -/
theorem rxTakesTheOldestWord : Obligations.RxTakesTheOldestWord := by
  intro s ag n far hopen
  refine ⟨fun w l q hq => ⟨_, exec_mbxRx_of_open hopen, ?_⟩, fun hq => ⟨_, exec_mbxRx_of_open hopen, ?_⟩, fun hlen _ => ?_⟩
  · simp [Mbx.pop_of_cons hq]
  · simp [Mbx.pop_of_nil hq, hq]
  · rw [State.boxAccess_stat_of_open hopen, Mbx.bits_stat_endPos hlen]
    exact ⟨fun _ hi hlt => Mbx.endPos_of_first hi hlt, Mbx.endPos_of_unmarked⟩

end Sys2Proof.Machine
end
